-- ==== Sys2Proof/Word.lean ====
section
/-! DEFINITION. The words of the part: bytes, crystal ticks and text. -/

namespace Sys2Proof

/-- One byte of the medium. -/
abbrev Byte := BitVec 8

/-- A value of the free-running tick counter, which wraps modulo 2^32 (R122). -/
abbrev Tick := BitVec 32

/-- Printable text of a frame: one field, one name or a whole frame. -/
abbrev Text := List Char

/-- A difference of two tick counter values, taken modulo 2^32 (R122). -/
abbrev tickSpan (start stop : Tick) : Nat := (stop - start).toNat

end Sys2Proof
end

