-- ==== Sys2Proof/Syntax.lean ====
section
/-! DEFINITION. The commands of the part: one constructor per row of spec/opcode_table.json. -/

namespace Sys2Proof

/-- The two edges of the reference-second pulse input, and the polarity setting that names one (R126, R134). -/
inductive Polarity where
  | rise
  | fall
  deriving DecidableEq, Repr

/-- One command: an event delivered to the part, or a whole request frame of the host. A host command carries its
fields as text, because its rule judges them as text (R98 and others); log entries 3 and 6 say what each operand
stands for. -/
inductive Instr where
  /-- SAMPLE (R2): one sample period, with the raw code of each converter. -/
  | sample (r1 r2 r3 : BitVec 16)
  /-- TRACKING_TIMEOUT (R12): the sample that completes one nominal cycle without an accepted change. -/
  | trackingTimeout (r1 r2 r3 : BitVec 16)
  /-- SYNTHETIC_BOUNDARY (R13): the sample at which the FREEWHEEL schedule expires. -/
  | syntheticBoundary (r1 r2 r3 : BitVec 16)
  /-- CALIBRATION_WINDOW_OPEN (R7). -/
  | calibrationWindowOpen
  /-- CALIBRATION_COMPLETE (R4), with the number of oscillator periods counted. -/
  | calibrationComplete (n1 : BitVec 32)
  /-- REFERENCE_PULSE (R126): one edge on RPS. -/
  | referencePulse (edge : Polarity)
  /-- RTC_WRAP (R121): the crystal tick at which the RTC seconds pass their last value. -/
  | rtcWrap
  /-- PULSE_ANCHOR_EXPIRY (R126). -/
  | pulseAnchorExpiry
  /-- HOLDOVER_TIMEOUT (R132). -/
  | holdoverTimeout
  /-- PROGRAM_COMPLETE (R149): `none` when the slot reads back as written, else the bytes read back. -/
  | programComplete (readBack : Option (List Byte))
  /-- ERASE_COMPLETE (R152), with the bytes of the sector, by offset, that do not read back as 0xFF. -/
  | eraseComplete (residue : List Host.Cell)
  /-- SLOT_READ_COMPLETE (R156). -/
  | slotReadComplete
  /-- SCAN_READ_COMPLETE (R165). -/
  | scanReadComplete
  /-- SUPPLY_FAIL (R170). -/
  | supplyFail
  /-- SUPPLY_GOOD (R178): the bytes that the backup cell holds where they are not the retained context as it was kept
  (R176), and the DEFCOM strap. -/
  | supplyGood (contextFound : Option (List Byte)) (defcomLow : Bool)
  /-- BACKUP_FAIL (R169). -/
  | backupFail
  /-- BACKUP_GOOD (R169). -/
  | backupGood
  /-- RIDE_THROUGH_WINDOW_END (R172). -/
  | rideThroughWindowEnd
  /-- TICK_COUNTER_WRAP (R174): the crystal tick at which the tick counter wraps. -/
  | tickCounterWrap
  /-- QUALIFICATION_END (R178). -/
  | qualificationEnd
  /-- CHARACTER_RECEIVED (R188). -/
  | characterReceived (code : BitVec 8) (framingError : Bool)
  /-- FRAME_TIMEOUT (R188). -/
  | frameTimeout
  /-- REPLY_ELIGIBLE (R191). -/
  | replyEligible
  /-- FRAME_SENT (R192). -/
  | frameSent
  /-- CAL (R8). -/
  | cal (fields : List Text)
  /-- MVH (R19). -/
  | mvh (fields : List Text)
  /-- PHM (R22). -/
  | phm (fields : List Text)
  /-- EVL (R52). -/
  | evl (fields : List Text)
  /-- MVW (R58). -/
  | mvw (fields : List Text)
  /-- MVF (R70). -/
  | mvf (fields : List Text)
  /-- TLC (R85). -/
  | tlc (fields : List Text)
  /-- TLR (R86). -/
  | tlr (fields : List Text)
  /-- TLX (R87). -/
  | tlx (fields : List Text)
  /-- TLF (R84). -/
  | tlf (fields : List Text)
  /-- TLU (R84). -/
  | tlu (fields : List Text)
  /-- TLM (R94). -/
  | tlm (fields : List Text)
  /-- SET (R98). -/
  | set (fields : List Text)
  /-- GET (R101). -/
  | get (fields : List Text)
  /-- MEA_GO (R104): the request MEA GO. -/
  | meaGo
  /-- MEA_HALT (R105): the request MEA HALT. -/
  | meaHalt
  /-- SVS (R107). -/
  | svs (fields : List Text)
  /-- SVA (R114). -/
  | sva (fields : List Text)
  /-- SVR (R115). -/
  | svr (fields : List Text)
  /-- SVQ (R116). -/
  | svq (fields : List Text)
  /-- SVV (R117). -/
  | svv (fields : List Text)
  /-- TIS (R133), to the station in force or to the broadcast address 00. -/
  | tis (broadcast : Bool) (fields : List Text)
  /-- TRF (R134). -/
  | trf (fields : List Text)
  /-- TIM (R135). -/
  | tim (fields : List Text)
  /-- RDR (R157). -/
  | rdr (fields : List Text)
  /-- RDX (R158). -/
  | rdx (fields : List Text)
  /-- RDN (R159). -/
  | rdn (fields : List Text)
  /-- STQ (R163). -/
  | stq (fields : List Text)
  /-- STE (R161). -/
  | ste (fields : List Text)
  /-- IDN (R196). -/
  | idn (fields : List Text)
  /-- LNK (R197). -/
  | lnk (fields : List Text)
  /-- STA (R198). -/
  | sta (fields : List Text)
  deriving DecidableEq, Repr

end Sys2Proof
end

