-- ==== Sys2Proof/Decode.lean ====
section
/-! DEFINITION. Which command a word of the opcode table's bits spells. -/

namespace Sys2Proof

/-- No row of spec/opcode_table.json gives bits: its rows name events and text commands. So no word spells a command. -/
def decodeTableWord (_nbits _w : Nat) : Option Instr := none

end Sys2Proof
end

