-- ==== Sys2Proof/Config.lean ====
section
/-! DEFINITION. What one recorder fixes at manufacture, and the values the manual leaves open. None of these has a
value that a proof can see. One more free value, Config.contextImage, stands at the end of Machine/State.lean, after the type it
reads. -/

namespace Sys2Proof

/-- The hardware revision less 1: a revision is 1..99, fixed at manufacture (R196). Log entry 9. -/
opaque Config.hardwareRevision : Fin 99

/-- The serial number, ten decimal digits fixed at manufacture (R196). Log entry 9. -/
opaque Config.serialNumber : Fin 10000000000

/-- FREE VALUE. The frequency before clamping of a period whose `c` cycles span no tick: R67 divides by the span and
states no result for a span of 0. Log entry 8. -/
opaque Config.frequencyOfNoTicks : Nat → Nat

/-- FREE VALUE. The sequence number issued after 4,294,967,295: sequence numbers are unsigned 32-bit values (section
4.6 of the introduction) and R143 states no successor for the last of them. Log entry 7. -/
opaque Config.sequenceAfterLast : BitVec 32

end Sys2Proof
end

