-- ==== Sys2Proof/Machine/State.lean ====
section
/-! DEFINITION. Every piece of state the manual gives the recorder, block by block, and the machine after reset. -/

namespace Sys2Proof.Machine

/-! ## Names shared by the blocks -/

/-- A phase, or the input channel that measures it (section 4.2 of the introduction). -/
inductive Phase where
  | l1
  | l2
  | l3
  deriving DecidableEq, Repr

/-- One thing for each phase. -/
structure PerPhase (α : Type) where
  l1 : α
  l2 : α
  l3 : α
  deriving DecidableEq, Repr

/-- The thing kept for one phase. -/
abbrev PerPhase.get {α : Type} (x : PerPhase α) : Phase → α
  | .l1 => x.l1
  | .l2 => x.l2
  | .l3 => x.l3

/-- The phases in increasing order. -/
abbrev allPhases : List Phase := [.l1, .l2, .l3]

/-- A time: RTC seconds and a millisecond part (section 4.3 of the introduction). -/
structure Time where
  seconds : Nat
  ms : Nat
  deriving DecidableEq, Repr

/-- The result of a comparator (section 8.1). -/
inductive Indication where
  | good
  | failed
  deriving DecidableEq, Repr

/-! ## Settings (R97) -/

/-- FN, the nominal frequency. -/
inductive NominalFrequency where
  | hz50
  | hz60
  deriving DecidableEq, Repr

/-- WIRING, the connection. -/
inductive Wiring where
  | w3
  | w1
  deriving DecidableEq, Repr

/-- The 23 names of R97, in its order. -/
inductive Setting where
  | ud
  | fn
  | wiring
  | k1
  | k2
  | k3
  | o1
  | o2
  | o3
  | tdip
  | tswell
  | tint
  | hyst
  | lmax
  | bandlo
  | bandhi
  | hardlo
  | hardhi
  | share
  | hardshare
  | fband
  | fshare
  | cover
  deriving DecidableEq, Repr

/-- One value for each setting of R97. -/
structure Settings where
  ud : Nat
  fn : NominalFrequency
  wiring : Wiring
  k : PerPhase Nat
  o : PerPhase Int
  tdip : Nat
  tswell : Nat
  tint : Nat
  hyst : Nat
  lmax : Nat
  bandlo : Nat
  bandhi : Nat
  hardlo : Nat
  hardhi : Nat
  share : Nat
  hardshare : Nat
  fband : Nat
  fshare : Nat
  cover : Nat
  deriving DecidableEq, Repr

/-- The defaults of R97. -/
def Settings.default : Settings where
  ud := 2300
  fn := .hz50
  wiring := .w3
  k := ⟨56571, 56571, 56571⟩
  o := ⟨0, 0, 0⟩
  tdip := 9000
  tswell := 11000
  tint := 500
  hyst := 200
  lmax := 600
  bandlo := 9000
  bandhi := 11000
  hardlo := 8500
  hardhi := 11000
  share := 9500
  hardshare := 10000
  fband := 100
  fshare := 9950
  cover := 9000

/-! ## ICH -/

/-- The sample clock (R4 to R7). -/
structure Ich where
  divisor : Nat
  pendingDivisor : Option Nat
  lastN1 : Option Nat
  osc : Bool
  /-- A calibration window is open. -/
  windowOpen : Bool
  /-- The tick at which the last window opened; absent before sampling begins. -/
  lastOpen : Option Tick
  deriving DecidableEq, Repr

/-- R7, cold start. -/
def Ich.cold : Ich := ⟨1000, none, none, false, false, none⟩

/-! ## CYT -/

/-- The sign state of a channel (R9). -/
inductive Sign where
  | pos
  | neg
  deriving DecidableEq, Repr

/-- The classification of one sample (R9). -/
inductive SampleClass where
  | positive
  | negative
  | neither
  deriving DecidableEq, Repr

/-- One followed channel: its sign state, its three most recent classifications with the newest first, and the samples
since its last accepted change (R9, R10). -/
structure SignState where
  sign : Sign
  newest : SampleClass
  middle : SampleClass
  oldest : SampleClass
  sinceChange : Nat
  deriving DecidableEq, Repr

/-- The tracker state (section 1.3). -/
inductive Tracker where
  | tracking
  | freewheel
  deriving DecidableEq, Repr

/-- The direction of a real boundary (R12). -/
inductive Direction where
  | positiveGoing
  | negativeGoing
  deriving DecidableEq, Repr

/-- Where the sample count of R12 to R14 stands. -/
inductive Progress where
  /-- Sampling has begun and no sample is taken yet. -/
  | fresh
  /-- This many samples after the first one; no boundary yet (R14). -/
  | sinceFirst (n : Nat)
  /-- This many samples after the last boundary. -/
  | sinceBoundary (n : Nat)
  deriving DecidableEq, Repr

/-- A boundary as R15 needs it; no direction for a synthetic one. -/
structure BoundaryMark where
  direction : Option Direction
  tick : Tick
  /-- The samples of the half that ended there. -/
  half : Nat
  deriving DecidableEq, Repr

/-- A presence entry (section 1.5). -/
structure Presence where
  present : Bool
  run : Nat
  joined : Bool
  lost : Bool
  deriving DecidableEq, Repr

/-- An entry as it begins: ABSENT, run count 0, both marks clear (R3, R23). -/
def Presence.initial : Presence := ⟨false, 0, false, false⟩

/-- The cycle tracker (section 1.3) with the presence map. -/
structure Cyt where
  channels : PerPhase (Option SignState)
  tracker : Tracker
  reference : Phase
  progress : Progress
  last : Option BoundaryMark
  beforeLast : Option BoundaryMark
  /-- FN as its constants have been in use since the last boundary (R14). -/
  fnInUse : NominalFrequency
  /-- A new FN has become active since the last boundary, also where the one in use has become active again (R14). -/
  fnChanged : Bool
  /-- WIRING as in effect since the last boundary (R3). -/
  wiringInUse : Wiring
  presence : PerPhase (Option Presence)
  /-- The next report carries the reference-changed mark (R11). -/
  referenceChanged : Bool
  deriving DecidableEq, Repr

/-- R11, R14, R23, cold start before sampling begins; every phase of the default WIRING has its entry. -/
def Cyt.cold : Cyt :=
  ⟨⟨none, none, none⟩, .freewheel, .l1, .fresh, none, none, .hz50, false, .w3,
    ⟨some Presence.initial, some Presence.initial, some Presence.initial⟩, false⟩

/-! ## HCU -/

/-- One half-cycle accumulator (R16). -/
structure Half where
  sum : Nat
  count : Nat
  clipped : Bool
  deriving DecidableEq, Repr

/-- An empty half. -/
def Half.empty : Half := ⟨0, 0, false⟩

/-- The two accumulators of a followed channel (R16). -/
structure HcuChannel where
  previous : Half
  current : Half
  deriving DecidableEq, Repr

/-- What the report carries for one wired phase (R18). -/
structure PhaseValue where
  value : Nat
  clipped : Bool
  /-- The sum of squares of the latest half. -/
  halfSum : Nat
  deriving DecidableEq, Repr

/-- The half-cycle report (R18). -/
structure Report where
  time : Time
  tick : Tick
  direction : Option Direction
  synthetic : Bool
  osc : Bool
  referenceChanged : Bool
  reference : Phase
  /-- The sample count of the latest half. -/
  count : Nat
  values : PerPhase (Option PhaseValue)
  deriving DecidableEq, Repr

/-- The half-cycle unit (section 1.4). -/
structure Hcu where
  channels : PerPhase (Option HcuChannel)
  latest : Option Report
  deriving DecidableEq, Repr

/-- R16, R19, cold start. -/
def Hcu.cold : Hcu := ⟨⟨none, none, none⟩, none⟩

/-! ## EVD -/

/-- The excursion state of a phase (R26). -/
inductive Excursion where
  | normal
  | low
  | high
  deriving DecidableEq, Repr

/-- The per-phase state (section 2.3). -/
structure PhaseState where
  excursion : Excursion
  interrupted : Bool
  deriving DecidableEq, Repr

/-- NORMAL with the flag clear (R28). -/
def PhaseState.initial : PhaseState := ⟨.normal, false⟩

/-- The three event kinds (R29). -/
inductive EventKind where
  | dip
  | swell
  | interruption
  deriving DecidableEq, Repr

/-- Why a record closed (R39). -/
inductive CloseCause where
  | ended
  | limit
  | resume
  | stop
  deriving DecidableEq, Repr

/-- A value with the phase that reached it. -/
structure Extreme where
  value : Nat
  phase : Phase
  deriving DecidableEq, Repr

/-- An entry of a record's phase list (R35). -/
structure PhaseEntry where
  phase : Phase
  /-- The first-entry offset, ms. -/
  offset : Nat
  extreme : Nat
  /-- The ticks of the periods that have ended. -/
  ticks : Nat
  /-- The phase is out now. -/
  out : Bool
  /-- The record's elapsed count at which the period now running began. -/
  began : Nat
  deriving DecidableEq, Repr

/-- The marks of an event record (R36). -/
structure EventMarks where
  clipped : Bool
  synthetic : Bool
  settingsChanged : Bool
  timeStep : Bool
  resumed : Bool
  deriving DecidableEq, Repr

/-- An open event context (R30). -/
structure Context where
  kind : EventKind
  number : BitVec 32
  continuesFrom : Option (BitVec 32)
  startTime : Time
  startTick : Tick
  elapsed : Nat
  extreme : Option Extreme
  phases : List PhaseEntry
  containedCount : Nat
  firstContained : Option (BitVec 32)
  chainStart : Time
  /-- The chain duration of the closed predecessors, ms. -/
  chainDuration : Nat
  chainExtreme : Option Extreme
  chainContained : Nat
  marks : EventMarks
  deriving DecidableEq, Repr

/-- The last boundary EVD processed. -/
structure ProcessedBoundary where
  time : Time
  tick : Tick
  deriving DecidableEq, Repr

/-- The event detector (chapter Voltage Events). -/
structure Evd where
  phases : PerPhase (Option PhaseState)
  dip : Option Context
  swell : Option Context
  interruption : Option Context
  counter : BitVec 32
  lastBoundary : Option ProcessedBoundary
  /-- The next report processed is the first after a warm resume (R49). -/
  resumed : Bool
  deriving DecidableEq, Repr

/-- R28, R50, with every phase of the default WIRING; the scan gives the counter (R46) and the restore the WIRING
(R119). The last boundary processed (R48), to which R50 gives no value there, is absent, and the first report processed
counts a difference of 0 from it (log entry 1). -/
def Evd.cold : Evd :=
  ⟨⟨some PhaseState.initial, some PhaseState.initial, some PhaseState.initial⟩, none, none, none, 0#32, none, false⟩

/-! ## IVA -/

/-- The four reasons for which a window is flagged (R56). -/
structure WindowFlags where
  event : Bool
  synthetic : Bool
  clipped : Bool
  oscillator : Bool
  deriving DecidableEq, Repr

/-- The window in progress (R54, R55). -/
structure Window where
  /-- The full count of boundaries, by the FN active when the window began. -/
  full : Nat
  count : Nat
  sums : PerPhase Nat
  samples : Nat
  flags : WindowFlags
  deriving DecidableEq, Repr

/-- The latest window (R57). -/
structure LatestWindow where
  endTime : Time
  count : Nat
  short : Bool
  samples : Nat
  values : PerPhase (Option Nat)
  flags : WindowFlags
  startMark : Nat
  deriving DecidableEq, Repr

/-- The marks of an interval (R61). -/
structure IntervalMarks where
  event : Bool
  synthetic : Bool
  clipped : Bool
  clock : Bool
  incomplete : Bool
  timeStep : Bool
  resumed : Bool
  deriving DecidableEq, Repr

/-- The window values of one phase in an interval. -/
structure PhaseSums where
  squares : Nat
  range : Option (Nat × Nat)
  deriving DecidableEq, Repr

/-- The interval in progress (R59). -/
structure Interval where
  startMark : Nat
  windows : Nat
  flagged : Nat
  phases : PerPhase PhaseSums
  /-- The valid frequency values: count, sum, and lowest and highest. -/
  frequencyCount : Nat
  frequencySum : Nat
  frequencyRange : Option (Nat × Nat)
  closes : Nat
  marks : IntervalMarks
  deriving DecidableEq, Repr

/-- Why a period's value is invalid, beside a cycle count of 0 (R68). -/
structure PeriodReasons where
  synthetic : Bool
  referenceChanged : Bool
  timeStep : Bool
  dormancy : Bool
  incompletePeriod : Bool
  halt : Bool
  deriving DecidableEq, Repr

/-- The 10-second period in progress (R66): its cycles are counted from the first one's start tick to the last one's
end tick. -/
structure Period where
  startMark : Nat
  cycles : Nat
  ticks : Option (Tick × Tick)
  reasons : PeriodReasons
  deriving DecidableEq, Repr

/-- The latest frequency value (R69, R70). -/
structure FrequencyValue where
  startMark : Nat
  cycles : Nat
  span : Option Nat
  value : Option Nat
  valid : Bool
  outOfRange : Bool
  reasons : PeriodReasons
  deriving DecidableEq, Repr

/-- The interval aggregator (chapter Windows, Intervals and Frequency). -/
structure Iva where
  window : Option Window
  interval : Option Interval
  period : Option Period
  latestWindow : Option LatestWindow
  latestFrequency : Option FrequencyValue
  pendingStep : Bool
  lastBoundaryTime : Option Time
  /-- The next boundary taken is the first after a warm resume (R75). -/
  resumed : Bool
  deriving DecidableEq, Repr

/-- R76, cold start. The last boundary time, to which R76 gives no value there, is absent (log entry 1). -/
def Iva.cold : Iva := ⟨none, none, none, none, none, false, none, false⟩

/-! ## TLB -/

/-- The source of a general cell (R77, R78). -/
inductive CellSource where
  | half
  | win
  | int
  | frq
  | evt
  deriving DecidableEq, Repr

/-- The phase selector of a general cell (R78). -/
inductive Selector where
  | one (p : Phase)
  | any
  | all
  deriving DecidableEq, Repr

/-- The comparison of a general cell (R78). -/
inductive Comparison where
  | above
  | below
  deriving DecidableEq, Repr

/-- The mode of a general cell (R81). -/
inductive CellMode where
  | level
  | edge
  deriving DecidableEq, Repr

/-- The flag policy of a general cell (R80). -/
inductive FlagPolicy where
  | all
  | validOnly
  deriving DecidableEq, Repr

/-- The configuration of a general cell (R78). -/
structure CellConfig where
  enabled : Bool
  source : CellSource
  kind : Option EventKind
  selector : Option Selector
  comparison : Comparison
  threshold : Nat
  mode : CellMode
  policy : FlagPolicy
  mark : Nat
  deriving DecidableEq, Repr

/-- A general cell (R78). -/
structure GeneralCell where
  config : CellConfig
  count : Nat
  saturated : Bool
  gap : Bool
  markReached : Bool
  /-- The predecessor result: met. -/
  predecessor : Bool
  deriving DecidableEq, Repr

/-- R96, cold start. -/
def GeneralCell.cold : GeneralCell :=
  ⟨⟨false, .half, none, some (.one .l1), .above, 0, .level, .all, 0⟩, 0, false, false, false, false⟩

/-- The survey cells (section 4.5). -/
structure SurveyCells where
  s0 : Nat
  s1 : Nat
  s2 : Nat
  s3 : Nat
  s4 : Nat
  s5 : Nat
  deriving DecidableEq, Repr

/-- All survey cells at 0 (R95, R96). -/
def SurveyCells.zero : SurveyCells := ⟨0, 0, 0, 0, 0, 0⟩

/-- One matrix or the pair: its counts row by row, and its two marks (R93). -/
structure Matrix where
  counts : List Nat
  gap : Bool
  saturated : Bool
  deriving DecidableEq, Repr

/-- A cleared matrix of so many cells (R95, R96). -/
def Matrix.zero (cells : Nat) : Matrix := ⟨List.replicate cells 0, false, false⟩

/-- The tally bank (chapter Tally Bank and Event Matrices). -/
structure Tlb where
  cells : List GeneralCell
  survey : SurveyCells
  dip : Matrix
  swell : Matrix
  pair : Matrix
  frozen : Bool
  deriving DecidableEq, Repr

/-- R96, cold start. -/
def Tlb.cold : Tlb :=
  ⟨List.replicate 12 GeneralCell.cold, SurveyCells.zero, Matrix.zero 24, Matrix.zero 18, Matrix.zero 2, false⟩

/-! ## SVC -/

/-- The survey states (section 5.5). -/
inductive SurveyState where
  | idle
  | armed
  | running
  | complete
  | aborted
  deriving DecidableEq, Repr

/-- The survey context (R106). -/
structure SurveyContext where
  state : SurveyState
  requestedStart : Option Nat
  armedMark : Option Nat
  days : Option Nat
  startMark : Option Nat
  endMark : Option Nat
  id : Option Nat
  protectionStart : Option Nat
  startDropped : Option Bool
  generationsApplied : Option Nat
  deriving DecidableEq, Repr

/-- IDLE, every parameter field absent (R106). -/
def SurveyContext.idle : SurveyContext := ⟨.idle, none, none, none, none, none, none, none, none, none⟩

/-- Why a verdict was formed (R113). -/
inductive VerdictCause where
  | complete
  | host
  | cold
  deriving DecidableEq, Repr

/-- The outcome of a test or of the whole verdict (R111, R112). -/
inductive TestOutcome where
  | pass
  | fail
  | inconclusive
  deriving DecidableEq, Repr

/-- One test of a verdict with its reported share (R111, R112). -/
structure TestResult where
  outcome : TestOutcome
  share : Option Nat
  deriving DecidableEq, Repr

/-- What a verdict carries unless its cause is COLD (R113). -/
structure VerdictBody where
  counts : SurveyCells
  coverage : TestResult
  magnitude : TestResult
  hardBand : TestResult
  frequency : TestResult
  dropped : Nat
  generationsApplied : Nat
  deriving DecidableEq, Repr

/-- A verdict (R113), with the sequence number of its record (R117). -/
structure Verdict where
  surveyId : Nat
  cause : VerdictCause
  overall : TestOutcome
  startMark : Nat
  endMark : Nat
  days : Nat
  expectedIntervals : Nat
  expectedFrequencies : Nat
  body : Option VerdictBody
  share : Nat
  hardshare : Nat
  fshare : Nat
  cover : Nat
  startDropped : Bool
  sequence : Option Nat
  deriving DecidableEq, Repr

/-- The settings unit and survey controller (chapter Settings, Measurement Control and Surveys). -/
structure Svc where
  active : Settings
  staged : List (Setting × Int)
  generation : BitVec 16
  /-- The measurement state: MEASURING. -/
  measuring : Bool
  survey : SurveyContext
  verdict : Option Verdict
  deriving DecidableEq, Repr

/-- R119, R120, before the restore. -/
def Svc.cold : Svc := ⟨Settings.default, [], 0#16, false, SurveyContext.idle, none⟩

/-! ## TMB -/

/-- The time quality (R125). -/
inductive Quality where
  | unset
  | free
  | locked
  | holdover
  deriving DecidableEq, Repr

/-- A time step whose record and signals wait for the warm resume: no store and no receiver runs in a warm STARTING (R178).
It holds the record's payload, and the new time and the quality of its header (R131, R142). -/
structure OwedStep where
  payload : List Byte
  time : Time
  quality : Quality
  deriving DecidableEq, Repr

/-- The timebase (chapter Timebase and Reference Discipline). -/
structure Tmb where
  seconds : Nat
  sub : Nat
  tick : Tick
  lastReading : Option Time
  held : Bool
  quality : Quality
  enabled : Bool
  polarity : Polarity
  anchor : Option Tick
  /-- The anchor has expired (R126). -/
  anchorExpired : Bool
  lastError : Option Int
  run : List Int
  rejected : Nat
  /-- The tick from which the holdover count runs (R132). -/
  watchFrom : Option Tick
  /-- The record and the signals of a step taken in a warm STARTING, until the resume (R131, R178, log entry 18). -/
  owed : Option OwedStep
  deriving DecidableEq, Repr

/-- R138, cold start. -/
def Tmb.cold : Tmb := ⟨0, 0, 0#32, none, false, .unset, false, .rise, none, false, none, [], 0, none, none⟩

/-! ## EVS -/

/-- The medium as the list of its bytes that are not erased, by rising byte address (R139). -/
abbrev Memory := List Host.Cell

/-- What an unlisted byte of the medium reads as: the erased value (R140). -/
def Memory.erased : Byte := 0xFF#8

/-- The number of bytes of the medium (R139). -/
def Memory.size : Nat := 4194304

/-- The canonical form: every address below the bound and the next entry's, no entry erased. -/
def Memory.wfFrom (low : Nat) : Memory → Bool
  | [] => true
  | (a, b) :: rest => decide (low ≤ a) && decide (a < Memory.size) && decide (b ≠ Memory.erased) && Memory.wfFrom (a + 1) rest

/-- The canonical form of the medium: addresses strictly rising and within the medium, no entry erased. -/
abbrev Memory.wf (m : Memory) : Bool := Memory.wfFrom 0 m

/-- The condition of a sector (R141). -/
inductive SectorCondition where
  | erased
  | writing
  | closed
  deriving DecidableEq, Repr

/-- An entry of the sector table (R141). -/
structure Sector where
  condition : SectorCondition
  first : Option Nat
  valid : Nat
  voids : List Nat
  deriving DecidableEq, Repr

/-- The entry of an erased sector (R152). -/
def Sector.empty : Sector := ⟨.erased, none, 0, []⟩

/-- The nine record kinds (R199). -/
inductive RecordKind where
  | ivl
  | evt
  | vdt
  | svy
  | cfg
  | tim
  | pwr
  | mea
  | sto
  deriving DecidableEq, Repr

/-- A record of the pending-write queue: complete but for its check (R142). The payload is the producer's. -/
structure Record where
  sequence : Nat
  kind : RecordKind
  gap : Option Nat
  quality : Quality
  lastEvent : BitVec 32
  generation : BitVec 16
  time : Time
  payload : List Byte
  deriving DecidableEq, Repr

/-- The store states (section 7.7). -/
inductive StoreState where
  | scanning
  | ready
  | full
  | fault
  | erasingAll
  deriving DecidableEq, Repr

/-- The mode (R147). -/
inductive StoreMode where
  | normal
  | drain
  deriving DecidableEq, Repr

/-- The commands that read one record (R157 to R159). -/
inductive ReadForm where
  | decoded
  | raw
  deriving DecidableEq, Repr

/-- A host read: the form of its reply and the sequence asked for. -/
structure ReadRequest where
  form : ReadForm
  sequence : Nat
  deriving DecidableEq, Repr

/-- The medium activity, with the operation in flight (R140). -/
inductive Activity where
  | idle
  | read (slot : Nat) (request : ReadRequest)
  | scan
  /-- The slot, its image and the image's check. -/
  | program (slot : Nat) (image : List Byte) (check : BitVec 32)
  | erase (sector : Nat)
  deriving DecidableEq, Repr

/-- A stored record that another block recovers from (R167). -/
structure StoredRecord where
  sequence : Nat
  kind : RecordKind
  generation : BitVec 16
  payload : List Byte
  deriving DecidableEq, Repr

/-- The records that a scan keeps for the restore (R167). -/
structure Recovery where
  settings : Option StoredRecord
  measurement : Option StoredRecord
  survey : Option StoredRecord
  deriving DecidableEq, Repr

/-- The evidence store (chapter Evidence Store). -/
structure Evs where
  medium : Memory
  sectors : List Sector
  writePosition : Nat
  oldest : Option Nat
  /-- The sequence number of the record at the oldest position (R152). -/
  oldestSequence : Option Nat
  /-- The first and last of each run of sequences between records that the scan found in no valid slot (R156). -/
  missing : List (Nat × Nat)
  due : Option Nat
  pwq : List Record
  lastIssued : Option Nat
  lastStored : Option Nat
  lastCheck : BitVec 32
  failures : Nat
  state : StoreState
  mode : StoreMode
  activity : Activity
  waitingRead : Option ReadRequest
  steWaiting : Bool
  lastRead : Option Nat
  protectionStart : Option Nat
  gapCount : Nat
  surveyDrops : Nat
  coldDrops : Nat
  front : Nat
  erasedCount : Nat
  erasedRange : Option (Nat × Nat)
  voidFound : Nat
  breaksFound : Nat
  recovery : Recovery
  deriving DecidableEq, Repr

/-- R165, R166: everything but the medium, before the scan. DESIGN CHOICE for what no rule gives before the scan: the positions
and counts are those of R166 for an empty medium, no protection start, no missing sequence and no record to restore, scan
findings 0, and of the erase-all front 0, 0 sectors erased and no erased range (log entry 1). -/
def Evs.cold (medium : Memory) : Evs where
  medium := medium
  sectors := List.replicate 1024 Sector.empty
  writePosition := 0
  oldest := none
  oldestSequence := none
  missing := []
  due := none
  pwq := []
  lastIssued := none
  lastStored := none
  lastCheck := 0xFFFFFFFF#32
  failures := 0
  state := .scanning
  mode := .normal
  activity := .idle
  waitingRead := none
  steWaiting := false
  lastRead := none
  protectionStart := none
  gapCount := 0
  surveyDrops := 0
  coldDrops := 0
  front := 0
  erasedCount := 0
  erasedRange := none
  voidFound := 0
  breaksFound := 0
  recovery := ⟨none, none, none⟩

/-! ## SPM -/

/-- The power states (section 8.2). -/
inductive PowerState where
  | off
  | starting
  | run
  | rideThrough
  | dormant
  deriving DecidableEq, Repr

/-- The start kind (R178, R180). -/
inductive StartKind where
  | warm
  | cold
  deriving DecidableEq, Repr

/-- The cold reason (R180). -/
inductive ColdReason where
  | powerUp
  | context
  deriving DecidableEq, Repr

/-- The dormancy entry (R174). -/
structure DormancyEntry where
  /-- The extended tick at entry. -/
  extended : Nat
  time : Time
  deriving DecidableEq, Repr

/-! ## HLK -/

/-- The notice kinds, in the order of R185. -/
inductive NoticeKind where
  | evo
  | evc
  | ivc
  | svn
  | phn
  | tqn
  | stn
  | tkn
  | pwn
  deriving DecidableEq, Repr

/-- The notice mask: which kinds it holds (R185). -/
structure NoticeMask where
  evo : Bool
  evc : Bool
  ivc : Bool
  svn : Bool
  phn : Bool
  tqn : Bool
  stn : Bool
  tkn : Bool
  pwn : Bool
  deriving DecidableEq, Repr

/-- The link settings (R185). -/
structure LinkSettings where
  rate : Nat
  station : Nat
  delay : Nat
  mask : NoticeMask
  deriving DecidableEq, Repr

/-- The factory values of R185. -/
def LinkSettings.factory : LinkSettings :=
  ⟨9600, 1, 0, ⟨true, true, false, true, true, true, true, true, true⟩⟩

/-- The fallback values of R185. -/
def LinkSettings.fallback : LinkSettings :=
  ⟨9600, 1, 0, ⟨false, false, false, false, false, false, false, false, false⟩⟩

/-- The frame in reception (R188): its characters with the '>' first, and how many characters it has received. -/
structure Reception where
  startTick : Tick
  chars : Text
  received : Nat
  framingError : Bool
  overLong : Bool
  deriving DecidableEq, Repr

/-- A complete frame in the receive buffer: its station, and the characters after it up to the LF (R189). -/
structure Frame where
  station : Nat
  body : Text
  overLong : Bool
  deriving DecidableEq, Repr

/-- The commands of R190. -/
inductive Command where
  | cal
  | mvh
  | phm
  | evl
  | mvw
  | mvf
  | tlc
  | tlr
  | tlx
  | tlf
  | tlu
  | tlm
  | set
  | get
  | mea
  | svs
  | sva
  | svr
  | svq
  | svv
  | tis
  | trf
  | tim
  | rdr
  | rdx
  | rdn
  | stq
  | ste
  | idn
  | lnk
  | sta
  deriving DecidableEq, Repr

/-- The status codes (R191). -/
inductive Status where
  | ok
  | chk
  | len
  | syn
  | unk
  | rng
  | bsy
  | lck
  | stt
  | nrc
  deriving DecidableEq, Repr

/-- The reply slot (R191). -/
structure Reply where
  /-- The three command characters the reply carries. -/
  command : Text
  status : Status
  fields : List Text
  /-- The tick at which the reply content was produced, and the reply delay in force then in ticks. -/
  formedAt : Tick
  delay : Nat
  /-- The eligible tick has been reached. -/
  eligible : Bool
  /-- The link settings that take effect when the reply has been sent (R197). -/
  link : Option LinkSettings
  deriving DecidableEq, Repr

/-- A notice in the queue; its station is filled in at transmission (R194). -/
structure Notice where
  kind : NoticeKind
  fields : List Text
  deriving DecidableEq, Repr

/-- The transmitter (R192), with the text of the frame being sent. -/
inductive Transmitter where
  | idle
  /-- A frame of a reply, and the frames of the run still to be sent (R202). -/
  | reply (frame : Text) (rest : List Text)
  | notice (n : Notice) (frame : Text)
  deriving DecidableEq, Repr

/-- The link controller (chapter Host Link). -/
structure Hlk where
  settings : LinkSettings
  configMark : Bool
  defcomAtStart : Bool
  /-- Link settings chosen at a cold start that wait for an idle transmitter (R186). -/
  adoption : Option LinkSettings
  reception : Option Reception
  buffer : List Frame
  inProgress : Option Command
  reply : Option Reply
  notices : List Notice
  transmitter : Transmitter
  /-- The link mark O. -/
  overrun : Bool
  /-- The link mark F. -/
  framing : Bool
  /-- The link mark N. -/
  overflow : Bool
  deriving DecidableEq, Repr

/-- R186, R195, cold start, with the strap as sampled. -/
def Hlk.cold (defcomLow : Bool) : Hlk :=
  ⟨LinkSettings.fallback, false, defcomLow, none, none, [], none, none, [], .idle, false, false, false⟩

/-! ## The supply monitor's state -/

/-- What the timebase and the host link keep in the retained context, as the backup cell holds it (R137, R195). The clocks
run on beside it (R176): their places have no meaning here. -/
structure Kept where
  tmb : Tmb
  hlk : Hlk
  deriving DecidableEq, Repr

/-- The supply monitor (chapter Supply Loss, Ride-Through and Restart). -/
structure Spm where
  power : PowerState
  supply : Indication
  backup : Indication
  rideTimer : Option Tick
  committed : Bool
  /-- The commitment waits for the medium operation in flight (R172, step 1). -/
  commitWaiting : Bool
  startKind : Option StartKind
  qualification : Option Tick
  wrapCount : Nat
  /-- The last boundary tick, extended. -/
  lastBoundary : Option Nat
  dormancyEntry : Option DormancyEntry
  abortedRestarts : Nat
  coldReason : Option ColdReason
  /-- The check word over the retained context (R176); absent where it is spoiled or was never formed. -/
  checkWord : Option (BitVec 32)
  /-- The time of the supply-fail that began the ride-through (R183). -/
  failTime : Time
  /-- The time of the end of the ride-through window (R183). -/
  windowEndTime : Time
  /-- A cold start was given up and waits for the operation in flight (R180). -/
  abortPending : Bool
  /-- What the timebase and the host link keep in the retained context, held on the backup cell while a warm STARTING runs
  these two blocks (R176, R178, R195); absent in every other power state. -/
  kept : Option Kept
  deriving DecidableEq, Repr

/-! ## The machine -/

/-- The inputs whose level the part reads when it needs it. -/
structure Pins where
  /-- The backup-cell comparator (section 8.1). -/
  backup : Indication
  /-- The DEFCOM strap holds the link at defaults (R186). -/
  defcomLow : Bool
  deriving DecidableEq, Repr

/-- The whole recorder, and the queue of the commands that wait. -/
structure State where
  ich : Ich
  cyt : Cyt
  hcu : Hcu
  evd : Evd
  iva : Iva
  tlb : Tlb
  svc : Svc
  tmb : Tmb
  evs : Evs
  spm : Spm
  hlk : Hlk
  pins : Pins
  pending : List Instr
  deriving DecidableEq, Repr

/-- The retained context (R176): what the blocks keep at dormancy entry, with SPM's last boundary tick, dormancy entry and
aborted restarts. The clocks and the medium are not part of it: their places hold 0 and nothing. -/
structure RetainedContext where
  ich : Ich
  cyt : Cyt
  hcu : Hcu
  evd : Evd
  iva : Iva
  tlb : Tlb
  svc : Svc
  tmb : Tmb
  evs : Evs
  hlk : Hlk
  lastBoundary : Option Nat
  dormancyEntry : Option DormancyEntry
  abortedRestarts : Nat
  deriving DecidableEq, Repr

/-- The retained context of a state (R176). -/
def State.retained (s : State) : RetainedContext where
  ich := s.ich
  cyt := s.cyt
  hcu := s.hcu
  evd := s.evd
  iva := s.iva
  tlb := s.tlb
  svc := s.svc
  tmb := { s.tmb with seconds := 0, sub := 0, tick := 0 }
  evs := { s.evs with medium := [] }
  hlk := s.hlk
  lastBoundary := s.spm.lastBoundary
  dormancyEntry := s.spm.dormancyEntry
  abortedRestarts := s.spm.abortedRestarts

/-- Reasons for which the machine could stop. The part has none: a failure of the medium is a state of the store
(R155), so no constructor is given and no meaning faults. -/
inductive Fault where
  deriving DecidableEq, Repr

/-- Why a command has no meaning. -/
inductive Refusal where
  /-- Raised by `exec` for a command whose meaning is not written yet; safe, because nothing is said of such a command. -/
  | notModelled (mnemonic : String)
  deriving DecidableEq, Repr

/-- SPM at the entry to a cold start with reason POWER_UP (R180, R184). -/
def Spm.coldPowerUp (backup : Indication) : Spm where
  power := .starting
  supply := .good
  backup := backup
  rideTimer := none
  committed := false
  commitWaiting := false
  startKind := some .cold
  qualification := some 3277#32
  wrapCount := 0
  lastBoundary := none
  dormancyEntry := none
  abortedRestarts := 0
  coldReason := some .powerUp
  checkWord := none
  failTime := ⟨0, 0⟩
  windowEndTime := ⟨0, 0⟩
  abortPending := false
  kept := none

/-- The machine right after reset: the entry to a cold start with reason POWER_UP (R180), every block at its cold-start
values, the medium as after manufacture. Log entry 1. -/
def State.reset : State where
  ich := Ich.cold
  cyt := Cyt.cold
  hcu := Hcu.cold
  evd := Evd.cold
  iva := Iva.cold
  tlb := Tlb.cold
  svc := Svc.cold
  tmb := Tmb.cold
  evs := Evs.cold []
  spm := Spm.coldPowerUp .good
  hlk := Hlk.cold false
  pins := ⟨.good, false⟩
  pending := []

end Sys2Proof.Machine

namespace Sys2Proof

/-- FREE VALUE. The bytes of a retained context on the backup cell, in order: the manual gives them no layout (R176). Log
entry 10. -/
opaque Config.contextImage : Machine.RetainedContext → List Byte

end Sys2Proof
end

