-- ==== Sys2Proof/Machine/Flags.lean ====
section
/-! DEFINITION. The arithmetic of the manual: roots, rounding, the CRC, conversions of ticks, and the conditions on
voltages, frequencies and counts that its marks and counts are computed from. -/

namespace Sys2Proof.Machine

/-! ## Roots, limits and ticks -/

/-- One step of the root: keeps `r + 2^k` when its square does not pass `n`. -/
def isqrtBits (n : Nat) : Nat → Nat → Nat
  | 0, r => r
  | k + 1, r =>
    let candidate := r + 2 ^ k
    isqrtBits n k (if candidate * candidate ≤ n then candidate else r)

/-- The integer square root rounded down (section 4.5). -/
def isqrt (n : Nat) : Nat := isqrtBits n (n.log2 / 2 + 1) 0

/-- A count that would exceed `limit` stays there (section 4.5). -/
def saturate (limit n : Nat) : Nat := min n limit

/-- The largest value of 32 bits. -/
abbrev max32 : Nat := 4294967295

/-- The largest value of 16 bits. -/
abbrev max16 : Nat := 65535

/-- A duration of crystal ticks in ms (section 4.3). -/
def ticksToMs (ticks : Nat) : Nat := ticks * 1000 / 32768

/-- The same, saturating at 4,294,967,295 ms (R33, R182). -/
def durationMs (ticks : Nat) : Nat := saturate max32 (ticksToMs ticks)

/-- The millisecond part of a reading (R123). -/
def subToMs (sub : Nat) : Nat := sub * 1000 / 32768

/-- The sub-second count that TIS sets from a millisecond part (R133). -/
def msToSub (ms : Nat) : Nat := (ms * 32768 + 999) / 1000

/-- The reply delay in ticks (R191). -/
def delayTicks (ms : Nat) : Nat := (ms * 32768 + 999) / 1000

/-- The tick counter has come to a timer's tick and not yet gone half its range past it (R172, R178; how far
past is the model's choice, log entry 2). -/
def tickReached (now timer : Tick) : Bool := (now - timer).toNat < 2147483648

/-- Order of times. -/
def Time.lt (a b : Time) : Bool := a.seconds < b.seconds || (a.seconds == b.seconds && a.ms < b.ms)

/-- The 10-minute mark at or before a second (R59). -/
def tenMinuteMark (seconds : Nat) : Nat := seconds / 600 * 600

/-- The 10-second mark at or before a second (R66). -/
def tenSecondMark (seconds : Nat) : Nat := seconds / 10 * 10

/-- The first 10-minute mark at or after a second (R107). -/
def markAtOrAfter (seconds : Nat) : Nat := (seconds + 599) / 600 * 600

/-- The last 10-minute mark the RTC can hold (R107). -/
abbrev lastMark : Nat := 4294966800

/-- A voltage in tenths of a volt (R1). -/
def tenthsOfVolt (bp ud : Nat) : Nat := (bp * ud + 5000) / 10000

/-! ## Samples and half-cycles -/

/-- A conditioned sample with its clipped indication (R2). -/
def conditionSample (raw : BitVec 16) (offset : Int) : Int × Bool :=
  let d := raw.toInt - offset
  let x := if d > 32767 then 32767 else if d < -32767 then -32767 else d
  (x, raw.toInt == -32768 || d > 32767 || d < -32767)

/-- The classification of a sample (R9). -/
def classify (x : Int) : SampleClass :=
  if x > 64 then .positive else if x < -64 then .negative else .neither

/-- The nominal cycle in samples (section 1.3). -/
def nominalCycle : NominalFrequency → Nat
  | .hz50 => 384
  | .hz60 => 320

/-- Half the nominal cycle. -/
def halfCycle (f : NominalFrequency) : Nat := nominalCycle f / 2

/-- Q, a quarter of the nominal cycle (R10). -/
def quarterCycle (f : NominalFrequency) : Nat := nominalCycle f / 4

/-- A phase is wired (section 4.2 of the introduction). -/
def wired : Wiring → Phase → Bool
  | .w3, _ => true
  | .w1, .l1 => true
  | .w1, _ => false

/-- The wired phases in increasing order. -/
def wiredPhases (w : Wiring) : List Phase := allPhases.filter (wired w)

/-- The scaling step of R17 and R55, before the limit. -/
def scaleRms (rms k : Nat) : Nat := (rms * k + 32768) / 65536

/-- The value of a sum of squares over a count of samples: limited to 20000 bp, and whether the limit applied (R17,
R55). -/
def rmsValue (sum count k : Nat) : Nat × Bool :=
  let v := scaleRms (isqrt (sum / count)) k
  (min v 20000, v > 20000)

/-- The candidate divisor of a calibration (R4). -/
def candidateDivisor (n1 : Nat) : Nat := (n1 + 2400) / 4800

/-- The divisor passed on (R5). -/
def clampDivisor (d : Nat) : Nat := if d < 950 then 950 else if d > 1050 then 1050 else d

/-- OSC after a calibration (R5). -/
def divisorClamped (d : Nat) : Bool := d < 950 || d > 1050

/-! ## Frequency -/

/-- The value of a period before the clamp (R67); a span of no tick gives the free value of log entry 8. -/
def rawFrequency (cycles span : Nat) : Nat :=
  if span = 0 then Config.frequencyOfNoTicks cycles else (cycles * 32768000 + span / 2) / span

/-- The lowest and the highest value of the clamp (R67). -/
def frequencyRange : NominalFrequency → Nat × Nat
  | .hz50 => (42500, 57500)
  | .hz60 => (51000, 69000)

/-- A value clamped to a range. -/
def clampTo (range : Nat × Nat) (f : Nat) : Nat := if f < range.1 then range.1 else if f > range.2 then range.2 else f

/-- The nominal frequency in Hz. -/
def nominalHz : NominalFrequency → Nat
  | .hz50 => 50
  | .hz60 => 60

/-- The frequency band test of R90. -/
def inFrequencyBand (fn : NominalFrequency) (fband f : Nat) : Bool :=
  let b := nominalHz fn * fband / 10
  nominalHz fn * 1000 - b ≤ f && f ≤ nominalHz fn * 1000 + b

/-- A lowest and highest value taken further by one value. -/
def extendRange (range : Option (Nat × Nat)) (v : Nat) : Option (Nat × Nat) :=
  match range with
  | none => some (v, v)
  | some (lo, hi) => some (min lo v, max hi v)

/-! ## The chain check -/

/-- One shift of the CRC register (R144, step 3). -/
def crcShift (c : BitVec 32) : BitVec 32 :=
  if c.msb then (c <<< 1) ^^^ 0x04C11DB7#32 else c <<< 1

/-- One byte into the CRC register (R144, steps 2 and 3). -/
def crcByte (c : BitVec 32) (b : Byte) : BitVec 32 :=
  let c := c ^^^ (b.setWidth 32 <<< 24)
  crcShift (crcShift (crcShift (crcShift (crcShift (crcShift (crcShift (crcShift c)))))))

/-- The CRC-32 of R144 over some bytes, with its preset. -/
def crc32 (preset : BitVec 32) (bytes : List Byte) : BitVec 32 := bytes.foldl crcByte preset

/-! ## Bytes -/

/-- A number in so many bytes, most significant first (R199). -/
def bigEndian : Nat → Nat → List Byte
  | 0, _ => []
  | n + 1, v => BitVec.ofNat 8 (v / 256 ^ n) :: bigEndian n v

/-- The number that some bytes hold, most significant first (R199). -/
def fromBigEndian (bytes : List Byte) : Nat := bytes.foldl (fun n b => n * 256 + b.toNat) 0

/-- A signed number in two bytes, two's complement (R199). -/
def signedBytes (v : Int) : List Byte := bigEndian 2 (v % 65536).toNat

/-- The signed number that two bytes hold. -/
def fromSigned (n : Nat) : Int := if n < 32768 then n else (n : Int) - 65536

/-- One field of an image: `size` bytes from `at'`. -/
def fieldAt (bytes : List Byte) (at' size : Nat) : Nat := fromBigEndian ((bytes.drop at').take size)

/-- A byte made of marks, the first one in bit 0 (R200). -/
def markByte (marks : List Bool) : Nat := marks.foldr (fun m n => 2 * n + (if m then 1 else 0)) 0

/-- One bit of a number. -/
def bitAt (n i : Nat) : Bool := n.testBit i

/-- The entry in force of a per-phase quantity, changed for one phase. -/
def PerPhase.put {α : Type} (x : PerPhase α) (p : Phase) (v : α) : PerPhase α :=
  match p with
  | .l1 => { x with l1 := v }
  | .l2 => { x with l2 := v }
  | .l3 => { x with l3 := v }

/-- A per-phase quantity computed phase by phase. -/
abbrev PerPhase.build {α : Type} (f : Phase → α) : PerPhase α := ⟨f .l1, f .l2, f .l3⟩

end Sys2Proof.Machine
end

