-- ==== Sys2Proof/Machine/Operands.lean ====
section
/-! DEFINITION. Text: the fields of frames as R201 writes them, the names of states and settings, the reading of a
request's fields, and the three frame forms of R187 and R202. -/

namespace Sys2Proof.Machine

/-! ## Numbers -/

/-- The digit of a number below 10. -/
def digitChar (n : Nat) : Char := Char.ofNat (48 + n)

/-- Decimal digits, least significant first into the list. -/
def decimalFrom : Nat → Nat → Text → Text
  | 0, _, acc => acc
  | fuel + 1, n, acc =>
    let acc := digitChar (n % 10) :: acc
    if n / 10 = 0 then acc else decimalFrom fuel (n / 10) acc

/-- A whole number: decimal with no leading zeros (R201). -/
def num (n : Nat) : Text := decimalFrom (n.log2 + 1) n []

/-- A signed whole number, a leading '-' when negative (R201). -/
def int (v : Int) : Text := if v < 0 then '-' :: num v.natAbs else num v.natAbs

/-- Exactly three digits. -/
def threeDigits (n : Nat) : Text := [digitChar (n / 100 % 10), digitChar (n / 10 % 10), digitChar (n % 10)]

/-- Exactly two digits, as the station is written (R187). -/
def twoDigits (n : Nat) : Text := [digitChar (n / 10 % 10), digitChar (n % 10)]

/-- A time: seconds, '.', three digits of ms (R201). -/
def timeText (t : Time) : Text := num t.seconds ++ '.' :: threeDigits t.ms

/-- An absent field is empty (R201). -/
def absentText : Text := []

/-- A field that may be absent. -/
def optText {α : Type} (f : α → Text) (x : Option α) : Text := (x.map f).getD absentText

/-- A set or clear indication (R201). -/
def bitText (b : Bool) : Text := if b then ['1'] else ['0']

/-- One uppercase hexadecimal digit. -/
def hexDigit (n : Nat) : Char := if n < 10 then Char.ofNat (48 + n) else Char.ofNat (55 + n)

/-- One byte as two hexadecimal digits (R201). -/
def hexByte (b : Nat) : Text := [hexDigit (b / 16 % 16), hexDigit (b % 16)]

/-- Bytes in slot order (R201). -/
def hexBytes (bytes : List Byte) : Text := (bytes.map (fun b => hexByte b.toNat)).flatten

/-- A chain check as 8 digits (R201). -/
def checkText (c : BitVec 32) : Text := hexBytes (bigEndian 4 c.toNat)

/-- Texts with a separator between them. -/
def joinText (sep : Char) : List Text → Text
  | [] => []
  | [t] => t
  | t :: rest => t ++ sep :: joinText sep rest

/-- A compound entry: its subfields joined by ':' (R201). -/
def compound (parts : List Text) : Text := joinText ':' parts

/-- A group of named marks: the set ones joined by '/', '-' when none is set (R201). -/
def markGroup (marks : List (Bool × String)) : Text :=
  match marks.filter Prod.fst with
  | [] => ['-']
  | set => joinText '/' (set.map (fun m => m.2.toList))

/-- A list of varying length: a count field, then one field per entry (R201). -/
def countedList (entries : List Text) : List Text := num entries.length :: entries

/-! ## Names -/

/-- The digit of a phase. -/
def phaseDigit : Phase → Nat
  | .l1 => 1
  | .l2 => 2
  | .l3 => 3

/-- A phase (R201). -/
def phaseText (p : Phase) : Text := num (phaseDigit p)

/-- A phase set: digits in increasing order (R201). -/
def phaseSetText (ps : List Phase) : Text := ps.map (fun p => digitChar (phaseDigit p))

/-- DIP, SWELL, INTERRUPTION. -/
def EventKind.text : EventKind → Text
  | .dip => "DIP".toList
  | .swell => "SWELL".toList
  | .interruption => "INTERRUPTION".toList

/-- The close causes of R39. -/
def CloseCause.text : CloseCause → Text
  | .ended => "END".toList
  | .limit => "LIMIT".toList
  | .resume => "RESUME".toList
  | .stop => "STOP".toList

/-- The time qualities. -/
def Quality.text : Quality → Text
  | .unset => "UNSET".toList
  | .free => "FREE".toList
  | .locked => "LOCKED".toList
  | .holdover => "HOLDOVER".toList

/-- The survey states. -/
def SurveyState.text : SurveyState → Text
  | .idle => "IDLE".toList
  | .armed => "ARMED".toList
  | .running => "RUNNING".toList
  | .complete => "COMPLETE".toList
  | .aborted => "ABORTED".toList

/-- The measurement states. -/
def measurementText (measuring : Bool) : Text := if measuring then "MEASURING".toList else "STOPPED".toList

/-- The store states. -/
def StoreState.text : StoreState → Text
  | .scanning => "SCANNING".toList
  | .ready => "READY".toList
  | .full => "FULL".toList
  | .fault => "FAULT".toList
  | .erasingAll => "ERASING_ALL".toList

/-- The modes of the store. -/
def StoreMode.text : StoreMode → Text
  | .normal => "NORMAL".toList
  | .drain => "DRAIN".toList

/-- The medium activity. -/
def Activity.text : Activity → Text
  | .idle => "IDLE".toList
  | .read _ _ => "READ".toList
  | .scan => "READ".toList
  | .program _ _ _ => "PROGRAM".toList
  | .erase _ => "ERASE".toList

/-- GOOD, FAILED. -/
def Indication.text : Indication → Text
  | .good => "GOOD".toList
  | .failed => "FAILED".toList

/-- POWER_UP, CONTEXT. -/
def ColdReason.text : ColdReason → Text
  | .powerUp => "POWER_UP".toList
  | .context => "CONTEXT".toList

/-- The outcomes of a test. -/
def TestOutcome.text : TestOutcome → Text
  | .pass => "PASS".toList
  | .fail => "FAIL".toList
  | .inconclusive => "INCONCLUSIVE".toList

/-- The verdict causes. -/
def VerdictCause.text : VerdictCause → Text
  | .complete => "COMPLETE".toList
  | .host => "HOST".toList
  | .cold => "COLD".toList

/-- The bank states. -/
def bankText (frozen : Bool) : Text := if frozen then "FROZEN".toList else "COUNTING".toList

/-- The record kinds. -/
def RecordKind.text : RecordKind → Text
  | .ivl => "IVL".toList
  | .evt => "EVT".toList
  | .vdt => "VDT".toList
  | .svy => "SVY".toList
  | .cfg => "CFG".toList
  | .tim => "TIM".toList
  | .pwr => "PWR".toList
  | .mea => "MEA".toList
  | .sto => "STO".toList

/-- The notice mnemonics (R185). -/
def NoticeKind.text : NoticeKind → Text
  | .evo => "EVO".toList
  | .evc => "EVC".toList
  | .ivc => "IVC".toList
  | .svn => "SVN".toList
  | .phn => "PHN".toList
  | .tqn => "TQN".toList
  | .stn => "STN".toList
  | .tkn => "TKN".toList
  | .pwn => "PWN".toList

/-- The status codes (R191). -/
def Status.text : Status → Text
  | .ok => "OK".toList
  | .chk => "CHK".toList
  | .len => "LEN".toList
  | .syn => "SYN".toList
  | .unk => "UNK".toList
  | .rng => "RNG".toList
  | .bsy => "BSY".toList
  | .lck => "LCK".toList
  | .stt => "STT".toList
  | .nrc => "NRC".toList

/-- The commands of R190. -/
def Command.text : Command → Text
  | .cal => "CAL".toList
  | .mvh => "MVH".toList
  | .phm => "PHM".toList
  | .evl => "EVL".toList
  | .mvw => "MVW".toList
  | .mvf => "MVF".toList
  | .tlc => "TLC".toList
  | .tlr => "TLR".toList
  | .tlx => "TLX".toList
  | .tlf => "TLF".toList
  | .tlu => "TLU".toList
  | .tlm => "TLM".toList
  | .set => "SET".toList
  | .get => "GET".toList
  | .mea => "MEA".toList
  | .svs => "SVS".toList
  | .sva => "SVA".toList
  | .svr => "SVR".toList
  | .svq => "SVQ".toList
  | .svv => "SVV".toList
  | .tis => "TIS".toList
  | .trf => "TRF".toList
  | .tim => "TIM".toList
  | .rdr => "RDR".toList
  | .rdx => "RDX".toList
  | .rdn => "RDN".toList
  | .stq => "STQ".toList
  | .ste => "STE".toList
  | .idn => "IDN".toList
  | .lnk => "LNK".toList
  | .sta => "STA".toList

/-- The commands, in the order of R190's second table. -/
def allCommands : List Command :=
  [.cal, .mvh, .phm, .evl, .mvw, .mvf, .tlc, .tlr, .tlx, .tlf, .tlu, .tlm, .set, .get, .mea, .svs, .sva, .svr, .svq,
    .svv, .tis, .trf, .tim, .rdr, .rdx, .rdn, .stq, .ste, .idn, .lnk, .sta]

/-- The command with a name. -/
def commandOf (t : Text) : Option Command := allCommands.find? (fun c => c.text == t)

/-- The notice kinds in the order of R185. -/
def allNoticeKinds : List NoticeKind := [.evo, .evc, .ivc, .svn, .phn, .tqn, .stn, .tkn, .pwn]

/-- A kind is in a mask. -/
def NoticeMask.has (m : NoticeMask) : NoticeKind → Bool
  | .evo => m.evo
  | .evc => m.evc
  | .ivc => m.ivc
  | .svn => m.svn
  | .phn => m.phn
  | .tqn => m.tqn
  | .stn => m.stn
  | .tkn => m.tkn
  | .pwn => m.pwn

/-- The mask of the kinds that meet a condition. -/
def NoticeMask.ofPred (f : NoticeKind → Bool) : NoticeMask :=
  ⟨f .evo, f .evc, f .ivc, f .svn, f .phn, f .tqn, f .stn, f .tkn, f .pwn⟩

/-- A mask as the reply of LNK writes it: NONE, ALL for the whole mask, or the mnemonics in the order of R185 joined by '/'
(R197, R201, log entry 23). -/
def NoticeMask.text (m : NoticeMask) : Text :=
  match allNoticeKinds.filter m.has with
  | [] => "NONE".toList
  | kinds => if kinds.length = 9 then "ALL".toList else joinText '/' (kinds.map NoticeKind.text)

/-! ## Settings -/

/-- The settings in the order of R97. -/
def allSettings : List Setting :=
  [.ud, .fn, .wiring, .k1, .k2, .k3, .o1, .o2, .o3, .tdip, .tswell, .tint, .hyst, .lmax, .bandlo, .bandhi, .hardlo,
    .hardhi, .share, .hardshare, .fband, .fshare, .cover]

/-- The name of a setting (R97). -/
def Setting.text : Setting → Text
  | .ud => "UD".toList
  | .fn => "FN".toList
  | .wiring => "WIRING".toList
  | .k1 => "K1".toList
  | .k2 => "K2".toList
  | .k3 => "K3".toList
  | .o1 => "O1".toList
  | .o2 => "O2".toList
  | .o3 => "O3".toList
  | .tdip => "TDIP".toList
  | .tswell => "TSWELL".toList
  | .tint => "TINT".toList
  | .hyst => "HYST".toList
  | .lmax => "LMAX".toList
  | .bandlo => "BANDLO".toList
  | .bandhi => "BANDHI".toList
  | .hardlo => "HARDLO".toList
  | .hardhi => "HARDHI".toList
  | .share => "SHARE".toList
  | .hardshare => "HARDSHARE".toList
  | .fband => "FBAND".toList
  | .fshare => "FSHARE".toList
  | .cover => "COVER".toList

/-- The setting with a name. -/
def settingOf (t : Text) : Option Setting := allSettings.find? (fun n => n.text == t)

/-- The locked settings of R97. -/
def Setting.locked : Setting → Bool
  | .tdip | .tswell | .tint | .hyst | .lmax => false
  | _ => true

/-- The value of a setting as a number: FN in Hz, WIRING as 3 or 1. -/
def Settings.get (s : Settings) : Setting → Int
  | .ud => s.ud
  | .fn => nominalHz s.fn
  | .wiring => match s.wiring with
    | .w3 => 3
    | .w1 => 1
  | .k1 => s.k.l1
  | .k2 => s.k.l2
  | .k3 => s.k.l3
  | .o1 => s.o.l1
  | .o2 => s.o.l2
  | .o3 => s.o.l3
  | .tdip => s.tdip
  | .tswell => s.tswell
  | .tint => s.tint
  | .hyst => s.hyst
  | .lmax => s.lmax
  | .bandlo => s.bandlo
  | .bandhi => s.bandhi
  | .hardlo => s.hardlo
  | .hardhi => s.hardhi
  | .share => s.share
  | .hardshare => s.hardshare
  | .fband => s.fband
  | .fshare => s.fshare
  | .cover => s.cover

/-- Write one setting; the number of FN and of WIRING as `Settings.get` gives it. -/
def Settings.put (s : Settings) (n : Setting) (v : Int) : Settings :=
  match n with
  | .ud => { s with ud := v.toNat }
  | .fn => { s with fn := if v = 60 then .hz60 else .hz50 }
  | .wiring => { s with wiring := if v = 1 then .w1 else .w3 }
  | .k1 => { s with k := { s.k with l1 := v.toNat } }
  | .k2 => { s with k := { s.k with l2 := v.toNat } }
  | .k3 => { s with k := { s.k with l3 := v.toNat } }
  | .o1 => { s with o := { s.o with l1 := v } }
  | .o2 => { s with o := { s.o with l2 := v } }
  | .o3 => { s with o := { s.o with l3 := v } }
  | .tdip => { s with tdip := v.toNat }
  | .tswell => { s with tswell := v.toNat }
  | .tint => { s with tint := v.toNat }
  | .hyst => { s with hyst := v.toNat }
  | .lmax => { s with lmax := v.toNat }
  | .bandlo => { s with bandlo := v.toNat }
  | .bandhi => { s with bandhi := v.toNat }
  | .hardlo => { s with hardlo := v.toNat }
  | .hardhi => { s with hardhi := v.toNat }
  | .share => { s with share := v.toNat }
  | .hardshare => { s with hardshare := v.toNat }
  | .fband => { s with fband := v.toNat }
  | .fshare => { s with fshare := v.toNat }
  | .cover => { s with cover := v.toNat }

/-- Write several settings, in order. -/
def Settings.write (s : Settings) (values : List (Setting × Int)) : Settings :=
  values.foldl (fun s nv => s.put nv.1 nv.2) s

/-- The fixed part of a setting's range (R97); WIRING as 3 or 1. The other edges of HARDLO and HARDHI depend on the
set (`hardBandContains`). -/
def Setting.inRange (n : Setting) (v : Int) : Bool :=
  match n with
  | .ud => 1000 ≤ v && v ≤ 4800
  | .fn => v == 50 || v == 60
  | .wiring => v == 3 || v == 1
  | .k1 | .k2 | .k3 => 1 ≤ v && v ≤ 65535
  | .o1 | .o2 | .o3 => -2048 ≤ v && v ≤ 2047
  | .tdip => 7000 ≤ v && v ≤ 9500
  | .tswell => 10500 ≤ v && v ≤ 13000
  | .tint => 100 ≤ v && v ≤ 1000
  | .hyst => 50 ≤ v && v ≤ 500
  | .lmax => 60 ≤ v && v ≤ 3600
  | .bandlo => 8000 ≤ v && v ≤ 9900
  | .bandhi => 10100 ≤ v && v ≤ 12000
  | .hardlo => 7000 ≤ v
  | .hardhi => v ≤ 13000
  | .share | .hardshare | .fshare | .cover => 5000 ≤ v && v ≤ 10000
  | .fband => 10 ≤ v && v ≤ 500

/-- The hard band contains the band (R97, R98). -/
def hardBandContains (s : Settings) : Bool := s.hardlo ≤ s.bandlo && s.bandhi ≤ s.hardhi

/-- A value of a setting as text. -/
def Setting.valueText (n : Setting) (v : Int) : Text :=
  match n with
  | .wiring => if v = 1 then "W1".toList else "W3".toList
  | _ => int v

/-- A setting in GET (R201). -/
def Setting.assignment (n : Setting) (v : Int) : Text := n.text ++ '=' :: n.valueText v

/-! ## Reading fields -/

/-- A decimal digit. -/
def isDigit (c : Char) : Bool := 48 ≤ c.toNat && c.toNat ≤ 57

/-- An uppercase letter. -/
def isUpper (c : Char) : Bool := 65 ≤ c.toNat && c.toNat ≤ 90

/-- The number that decimal digits spell. -/
def digitsValue (t : Text) : Nat := t.foldl (fun n c => n * 10 + (c.toNat - 48)) 0

/-- A decimal number: one digit or more and nothing else, leading zeros among them (log entry 40). -/
def readNat (t : Text) : Option Nat := if t ≠ [] ∧ t.all isDigit then some (digitsValue t) else none

/-- A decimal number with a leading '-' allowed. -/
def readInt : Text → Option Int
  | '-' :: t => (readNat t).map (fun n => -(n : Int))
  | t => (readNat t).map (fun n => (n : Int))

/-- The letter S followed by a decimal number, as a survey cell is named (R86). -/
def readSurveyCell : Text → Option Nat
  | 'S' :: t => readNat t
  | _ => none

/-- Cut a text at every separator. -/
def splitText (sep : Char) : Text → List Text
  | [] => [[]]
  | c :: rest =>
    if c = sep then [] :: splitText sep rest
    else match splitText sep rest with
      | [] => [[c]]
      | t :: more => (c :: t) :: more

/-- Cut a text at the first '='; none where it has none. -/
def splitAssignment : Text → Option (Text × Text)
  | [] => none
  | c :: rest => if c = '=' then some ([], rest) else (splitAssignment rest).map (fun p => (c :: p.1, p.2))

/-- The value of a setting in a SET field: a decimal number, a leading '-' for the offsets alone (R98). A word for
WIRING other than its two values reads as 0, which its range refuses. -/
def Setting.readValue (n : Setting) (t : Text) : Option Int :=
  match n with
  | .wiring => some (if t = "W3".toList then 3 else if t = "W1".toList then 1 else 0)
  | .o1 | .o2 | .o3 => readInt t
  | _ => (readNat t).map (fun v => (v : Int))

/-- One field of SET: name=value (R98). -/
def readAssignment (t : Text) : Option (Setting × Int) := do
  let (name, value) ← splitAssignment t
  let n ← settingOf name
  let v ← n.readValue value
  pure (n, v)

/-- The fields of SET, none where one has not the form or a name stands twice (R98). -/
def readAssignments (fields : List Text) : Option (List (Setting × Int)) := do
  let values ← fields.mapM readAssignment
  if fields ≠ [] ∧ (values.map Prod.fst).Nodup then pure values else none

/-- One mnemonic of a notice mask. -/
def noticeKindOf (t : Text) : Option NoticeKind := allNoticeKinds.find? (fun k => k.text == t)

/-- The notice mask field of LNK (R197). -/
def readMask (t : Text) : Option NoticeMask :=
  if t = "NONE".toList then some (NoticeMask.ofPred (fun _ => false))
  else if t = "ALL".toList then some (NoticeMask.ofPred (fun _ => true))
  else do
    let kinds ← (splitText '/' t).mapM noticeKindOf
    if kinds.Nodup then pure (NoticeMask.ofPred (fun k => kinds.contains k)) else none

/-- The rates of R185, in order. -/
def allRates : List Nat := [9600, 19200, 38400, 57600, 115200]

/-- Link settings whose values lie in the ranges of R185; the mask's are those of its form. -/
def LinkSettings.inRange (l : LinkSettings) : Bool :=
  allRates.contains l.rate && 1 ≤ l.station && l.station ≤ 99 && l.delay ≤ 200 && l.delay % 10 == 0

/-! ## Frames -/

/-- The check of a frame: the sum of its bytes modulo 256, as two digits (R187). -/
def frameCheck (checked : Text) : Text := hexByte ((checked.map Char.toNat).sum % 256)

/-- A frame from its first character, its checked characters before the '|', and its end (R187). -/
def closeFrame (start : Char) (content : Text) : Text :=
  let checked := content ++ ['|']
  start :: checked ++ frameCheck checked ++ ['\n']

/-- Fields, each after a ','. -/
def commaFields (fields : List Text) : Text := (fields.map (fun f => ',' :: f)).flatten

/-- A reply frame (R187). -/
def replyFrame (station : Nat) (command : Text) (status : Status) (fields : List Text) (marks : Text) : Text :=
  closeFrame '<' (twoDigits station ++ command ++ ' ' :: status.text ++ commaFields fields ++ ',' :: marks)

/-- The longest reply or notice frame (R187). -/
abbrev longestFrame : Nat := 320

/-- As many whole fields as keep a frame with a '+' within the longest, but one at least (R202). -/
def fillFrame (station : Nat) (command : Text) (status : Status) (taken : List Text) : List Text → List Text × List Text
  | [] => (taken, [])
  | f :: rest =>
    if taken = [] ∨ (replyFrame station command status (taken ++ [f]) ['+']).length ≤ longestFrame then
      fillFrame station command status (taken ++ [f]) rest
    else (taken, f :: rest)

/-- The frames of a reply: one frame, or a run of frames of which the last carries the link marks (R202). -/
def replyRun (station : Nat) (command : Text) (status : Status) (marks : Text) : Nat → List Text → List Text
  | 0, fields => [replyFrame station command status fields marks]
  | fuel + 1, fields =>
    if (replyFrame station command status fields marks).length ≤ longestFrame then
      [replyFrame station command status fields marks]
    else
      let (first, rest) := fillFrame station command status [] fields
      replyFrame station command status first ['+'] :: replyRun station command status marks fuel rest

/-- A notice frame (R187). -/
def noticeFrame (station : Nat) (n : Notice) : Text :=
  closeFrame '!' (twoDigits station ++ n.kind.text ++ commaFields n.fields)

/-- The link-marks field (R193). -/
def linkMarks (overrun framing overflow : Bool) : Text :=
  match (if overrun then ['O'] else []) ++ (if framing then ['F'] else []) ++ (if overflow then ['N'] else []) with
  | [] => ['-']
  | marks => marks

/-- What follows the station in a request frame, up to its '|' (R187). -/
def requestContent (command : Command) (fields : List Text) : Text :=
  command.text ++ (if fields = [] then [] else ' ' :: joinText ',' fields)

/-- A request as it stands in the receive buffer (R187, R189). -/
def requestFrame (station : Nat) (command : Command) (fields : List Text) : Frame where
  station := station
  body :=
    let content := requestContent command fields ++ ['|']
    content ++ frameCheck (twoDigits station ++ content)
  overLong := false

/-- What the checks of R190 on the form of a frame give. -/
inductive FrameReading where
  | refused (status : Status) (command : Text)
  | request (command : Command) (fields : List Text)
  deriving DecidableEq, Repr

/-- The three command characters that a refusal carries (R190). -/
def commandCharacters (body : Text) : Text :=
  let c := body.take 3
  if c.length = 3 ∧ c.all isUpper then c else "???".toList

/-- An uppercase hexadecimal digit. -/
def isHex (c : Char) : Bool := isDigit c || (65 ≤ c.toNat && c.toNat ≤ 70)

/-- A printable character (R187). -/
def isPrintable (c : Char) : Bool := 0x20 ≤ c.toNat && c.toNat ≤ 0x7E

/-- The fields that follow a command, none where they have not the form (R190). -/
def readFields : Text → Option (List Text)
  | [] => some []
  | ' ' :: [] => none
  | ' ' :: t => some (splitText ',' t)
  | _ => none

/-- The checks of R190 that read the frame alone, in the order of its table. -/
def readFrame (f : Frame) : FrameReading :=
  let content := f.body.take (f.body.length - 3)
  let tail := f.body.drop (f.body.length - 3)
  let characters := commandCharacters f.body
  if f.overLong then .refused .len "???".toList
  else if ¬ (tail.length = 3 ∧ tail.head? = some '|' ∧ (tail.drop 1).all isHex ∧ f.body.all isPrintable) then
    .refused .syn characters
  else if tail.drop 1 ≠ frameCheck (twoDigits f.station ++ content ++ ['|']) then .refused .chk characters
  else if ¬ ((content.take 3).length = 3 ∧ (content.take 3).all isUpper) then .refused .syn characters
  else match readFields (content.drop 3) with
    | none => .refused .syn characters
    | some fields =>
      match commandOf (content.take 3) with
      | none => .refused .unk characters
      | some c => .request c fields

end Sys2Proof.Machine
end

