-- ==== Sys2Proof/Machine/Layouts.lean ====
section
/-! DEFINITION. The slot and the payloads of the records (R199, R200), their decoded text (R157, R201), and what a
restore reads from them (R119, R120). -/

namespace Sys2Proof.Machine

/-! ## Codes: the position of a value in its list, from 1 (R199, R200) -/

/-- The kind byte of a record (R199). -/
def RecordKind.code : RecordKind → Nat
  | .ivl => 1
  | .evt => 2
  | .vdt => 3
  | .svy => 4
  | .cfg => 5
  | .tim => 6
  | .pwr => 7
  | .mea => 8
  | .sto => 9

/-- The record kinds in the order of their codes. -/
def allRecordKinds : List RecordKind := [.ivl, .evt, .vdt, .svy, .cfg, .tim, .pwr, .mea, .sto]

/-- The kind with a code. -/
def recordKindOf (code : Nat) : Option RecordKind := allRecordKinds.find? (fun k => k.code == code)

/-- The quality byte (R199). -/
def Quality.code : Quality → Nat
  | .unset => 0
  | .free => 1
  | .locked => 2
  | .holdover => 3

/-- The event kind's code. -/
def EventKind.code : EventKind → Nat
  | .dip => 1
  | .swell => 2
  | .interruption => 3

/-- The close cause's code. -/
def CloseCause.code : CloseCause → Nat
  | .ended => 1
  | .limit => 2
  | .resume => 3
  | .stop => 4

/-- The verdict cause's code. -/
def VerdictCause.code : VerdictCause → Nat
  | .complete => 1
  | .host => 2
  | .cold => 3

/-- The outcome's code. -/
def TestOutcome.code : TestOutcome → Nat
  | .pass => 1
  | .fail => 2
  | .inconclusive => 3

/-- The store state's code. -/
def StoreState.code : StoreState → Nat
  | .scanning => 1
  | .ready => 2
  | .full => 3
  | .fault => 4
  | .erasingAll => 5

/-- The survey state's code. -/
def SurveyState.code : SurveyState → Nat
  | .idle => 1
  | .armed => 2
  | .running => 3
  | .complete => 4
  | .aborted => 5

/-- The measurement state's code. -/
def measurementCode (measuring : Bool) : Nat := if measuring then 2 else 1

/-- The backup indication's code. -/
def Indication.code : Indication → Nat
  | .good => 1
  | .failed => 2

/-- The cold reason's code. -/
def ColdReason.code : ColdReason → Nat
  | .powerUp => 1
  | .context => 2

/-- Why a settings record was queued (R103). -/
inductive SettingsCause where
  | appliedAtOnce
  | appliedAtClosure
  | link
  | reference
  deriving DecidableEq, Repr

/-- The settings cause's code. -/
def SettingsCause.code : SettingsCause → Nat
  | .appliedAtOnce => 1
  | .appliedAtClosure => 2
  | .link => 3
  | .reference => 4

/-- Why a time step was made (R131). -/
inductive StepCause where
  | host
  | broadcast
  | reference
  | wrap
  deriving DecidableEq, Repr

/-- The step cause's code. -/
def StepCause.code : StepCause → Nat
  | .host => 1
  | .broadcast => 2
  | .reference => 3
  | .wrap => 4

/-! ## Payloads (R200) -/

/-- A time: 4 bytes of seconds and 2 of ms. -/
def timeBytes (t : Time) : List Byte := bigEndian 4 t.seconds ++ bigEndian 2 t.ms

/-- An optional part: its bytes, or as many zeros. -/
def optBytes {α : Type} (size : Nat) (f : α → List Byte) (x : Option α) : List Byte :=
  match x with
  | some v => f v
  | none => List.replicate size 0#8

/-- An entry of a record's phase list as the record carries it (R39). -/
structure EventEntry where
  phase : Phase
  offset : Nat
  extreme : Nat
  duration : Nat
  stillOut : Bool
  deriving DecidableEq, Repr

/-- The chain fields of a continuation (R39). -/
structure ChainFields where
  start : Time
  duration : Nat
  extreme : Option Extreme
  deriving DecidableEq, Repr

/-- An event record (R39). -/
structure EventRecord where
  kind : EventKind
  number : BitVec 32
  continuesFrom : Option (BitVec 32)
  cause : CloseCause
  startTime : Time
  endTime : Time
  duration : Nat
  extreme : Option Extreme
  entries : List EventEntry
  containedCount : Nat
  firstContained : Option (BitVec 32)
  chain : Option ChainFields
  marks : EventMarks
  deriving DecidableEq, Repr

/-- An extreme and its phase. -/
def extremeBytes (x : Option Extreme) : List Byte :=
  optBytes 3 (fun e => bigEndian 2 e.value ++ bigEndian 1 (phaseDigit e.phase)) x

/-- The marks of an event record in the order of R39. -/
def EventMarks.list (m : EventMarks) : List Bool := [m.clipped, m.synthetic, m.settingsChanged, m.timeStep, m.resumed]

/-- The EVT payload. -/
def EventRecord.payload (r : EventRecord) : List Byte :=
  bigEndian 1 (markByte [r.continuesFrom.isSome, r.firstContained.isSome, r.chain.isSome])
    ++ bigEndian 1 r.kind.code ++ bigEndian 1 r.cause.code ++ bigEndian 4 r.number.toNat
    ++ optBytes 4 (fun (n : BitVec 32) => bigEndian 4 n.toNat) r.continuesFrom
    ++ timeBytes r.startTime ++ timeBytes r.endTime ++ bigEndian 4 r.duration ++ extremeBytes r.extreme
    ++ bigEndian 1 (markByte r.marks.list) ++ bigEndian 1 r.containedCount
    ++ optBytes 4 (fun (n : BitVec 32) => bigEndian 4 n.toNat) r.firstContained
    ++ optBytes 13 (fun (c : ChainFields) => timeBytes c.start ++ bigEndian 4 c.duration ++ extremeBytes c.extreme) r.chain
    ++ bigEndian 1 r.entries.length
    ++ (r.entries.map (fun e => bigEndian 1 (phaseDigit e.phase + if e.stillOut then 128 else 0)
      ++ bigEndian 4 e.offset ++ bigEndian 2 e.extreme ++ bigEndian 4 e.duration)).flatten

/-- The value, minimum and maximum of one phase in an interval record (R61). -/
structure IntervalPhase where
  value : Nat
  low : Nat
  high : Nat
  deriving DecidableEq, Repr

/-- The frequency fields of an interval record (R69). -/
structure IntervalFrequency where
  mean : Nat
  low : Nat
  high : Nat
  deriving DecidableEq, Repr

/-- An interval record (R64). -/
structure IntervalRecord where
  startMark : Nat
  closeTime : Time
  wiring : Wiring
  /-- The values of the wired phases; absent when no window was counted. -/
  phases : Option (PerPhase (Option IntervalPhase))
  spread : Nat
  frequencyCount : Nat
  frequency : Option IntervalFrequency
  windows : Nat
  flagged : Nat
  closes : Nat
  marks : IntervalMarks
  valid : Bool
  member : Bool
  deriving DecidableEq, Repr

/-- The marks of an interval in the order of R64. -/
def IntervalMarks.list (m : IntervalMarks) : List Bool :=
  [m.event, m.synthetic, m.clipped, m.clock, m.incomplete, m.timeStep, m.resumed]

/-- The IVL payload. -/
def IntervalRecord.payload (r : IntervalRecord) : List Byte :=
  bigEndian 1 (markByte [r.phases.isSome, r.frequency.isSome]) ++ bigEndian 4 r.startMark ++ timeBytes r.closeTime
    ++ bigEndian 1 (markByte (allPhases.map (wired r.wiring)))
    ++ optBytes 18 (fun (ps : PerPhase (Option IntervalPhase)) => (allPhases.map (fun p =>
      optBytes 6 (fun (v : IntervalPhase) => bigEndian 2 v.value ++ bigEndian 2 v.low ++ bigEndian 2 v.high) (ps.get p))).flatten) r.phases
    ++ bigEndian 2 r.spread ++ bigEndian 1 r.frequencyCount
    ++ optBytes 12 (fun (f : IntervalFrequency) => bigEndian 4 f.mean ++ bigEndian 4 f.low ++ bigEndian 4 f.high) r.frequency
    ++ bigEndian 2 r.windows ++ bigEndian 2 r.flagged ++ bigEndian 2 r.closes
    ++ bigEndian 1 (markByte r.marks.list) ++ bigEndian 1 (markByte [r.valid, r.member])

/-- The VDT payload. -/
def Verdict.payload (v : Verdict) : List Byte :=
  let share (size : Nat) (f : VerdictBody → Option Nat) := optBytes size (bigEndian size) (v.body.bind f)
  bigEndian 1 (markByte [v.body.isSome, (v.body.bind (fun b => b.magnitude.share)).isSome,
      (v.body.bind (fun b => b.hardBand.share)).isSome, (v.body.bind (fun b => b.frequency.share)).isSome])
    ++ bigEndian 4 v.surveyId ++ bigEndian 1 v.cause.code ++ bigEndian 1 v.overall.code
    ++ bigEndian 4 v.startMark ++ bigEndian 4 v.endMark ++ bigEndian 1 v.days
    ++ optBytes 18 (fun (b : VerdictBody) => bigEndian 3 b.counts.s0 ++ bigEndian 3 b.counts.s1 ++ bigEndian 3 b.counts.s2
      ++ bigEndian 3 b.counts.s3 ++ bigEndian 3 b.counts.s4 ++ bigEndian 3 b.counts.s5) v.body
    ++ bigEndian 2 v.expectedIntervals ++ bigEndian 4 v.expectedFrequencies
    ++ optBytes 4 (fun (b : VerdictBody) => bigEndian 1 b.coverage.outcome.code ++ bigEndian 1 b.magnitude.outcome.code
      ++ bigEndian 1 b.hardBand.outcome.code ++ bigEndian 1 b.frequency.outcome.code) v.body
    ++ share 4 (fun b => b.coverage.share) ++ share 2 (fun b => b.magnitude.share)
    ++ share 2 (fun b => b.hardBand.share) ++ share 2 (fun b => b.frequency.share)
    ++ bigEndian 2 v.share ++ bigEndian 2 v.hardshare ++ bigEndian 2 v.fshare ++ bigEndian 2 v.cover
    ++ optBytes 4 (fun (b : VerdictBody) => bigEndian 4 b.dropped) v.body
    ++ optBytes 2 (fun (b : VerdictBody) => bigEndian 2 b.generationsApplied) v.body
    ++ bigEndian 1 (if v.startDropped then 1 else 0)

/-- The SVY payload of a START record (R108). -/
def surveyStartPayload (requested armed days start stop : Nat) : List Byte :=
  bigEndian 1 1 ++ bigEndian 4 requested ++ bigEndian 4 armed ++ bigEndian 1 days ++ bigEndian 4 start ++ bigEndian 4 stop

/-- The SVY payload of a RELEASE record (R115). -/
def surveyReleasePayload (id : Nat) : List Byte := bigEndian 1 2 ++ bigEndian 4 id

/-- A setting in the CFG payload. -/
def Setting.bytes (n : Setting) (s : Settings) : List Byte :=
  match n with
  | .fn => bigEndian 1 (match s.fn with
    | .hz50 => 1
    | .hz60 => 2)
  | .wiring => bigEndian 1 (match s.wiring with
    | .w3 => 1
    | .w1 => 2)
  | .o1 | .o2 | .o3 => signedBytes (s.get n)
  | _ => bigEndian 2 (s.get n).toNat

/-- The position of a rate in the rate list, from 1; 0 for another. -/
def rateCode (rate : Nat) : Nat := if allRates.contains rate then allRates.idxOf rate + 1 else 0

/-- The CFG payload (R103). -/
def settingsPayload (cause : SettingsCause) (s : Settings) (l : LinkSettings) (enabled : Bool) (polarity : Polarity) :
    List Byte :=
  bigEndian 1 cause.code ++ (allSettings.map (fun n => n.bytes s)).flatten
    ++ bigEndian 1 (rateCode l.rate) ++ bigEndian 1 l.station ++ bigEndian 1 l.delay
    ++ bigEndian 2 (markByte (allNoticeKinds.map l.mask.has)) ++ bigEndian 1 (markByte [enabled, polarity == .fall])

/-- The TIM payload (R131). -/
def timePayload (cause : StepCause) (old new : Time) (before after : Quality) (tick : Tick) (errors : List Int) :
    List Byte :=
  bigEndian 1 cause.code ++ timeBytes old ++ timeBytes new ++ bigEndian 1 before.code ++ bigEndian 1 after.code
    ++ bigEndian 4 tick.toNat ++ (errors.map signedBytes).flatten

/-- One open record as the DORMANT power record lists it (R48). -/
structure ListedEvent where
  kind : EventKind
  number : BitVec 32
  startTime : Time
  duration : Nat
  extreme : Option Extreme
  deriving DecidableEq, Repr

/-- The PWR payload of a DORMANT record (R183). -/
def dormantPayload (failTime windowEnd : Time) (occupancy : Nat) (store : StoreState) (measuring : Bool)
    (survey : SurveyState) (backup : Indication) (listing : List ListedEvent) : List Byte :=
  bigEndian 1 1 ++ timeBytes failTime ++ timeBytes windowEnd ++ bigEndian 1 occupancy ++ bigEndian 1 store.code
    ++ bigEndian 1 (measurementCode measuring) ++ bigEndian 1 survey.code ++ bigEndian 1 backup.code
    ++ bigEndian 1 listing.length
    ++ (listing.map (fun e => bigEndian 1 e.kind.code ++ bigEndian 4 e.number.toNat ++ timeBytes e.startTime
      ++ bigEndian 4 e.duration ++ extremeBytes e.extreme)).flatten

/-- The PWR payload of a RESUMED record (R183). -/
def resumedPayload (entry runEntry : Time) (span aborted openRecords : Nat) (measuring : Bool) (survey : SurveyState)
    (backup : Indication) : List Byte :=
  bigEndian 1 2 ++ timeBytes entry ++ timeBytes runEntry ++ bigEndian 4 span ++ bigEndian 2 aborted
    ++ bigEndian 1 openRecords ++ bigEndian 1 (measurementCode measuring) ++ bigEndian 1 survey.code ++ bigEndian 1 backup.code

/-- The PWR payload of a COLD record (R183). -/
def coldPayload (reason : ColdReason) (aborted voids breaks : Nat) (oldest lastStored : Option Nat) (measuring : Bool)
    (survey : SurveyState) (backup : Indication) : List Byte :=
  bigEndian 1 3 ++ bigEndian 1 (markByte [oldest.isSome, lastStored.isSome]) ++ bigEndian 1 reason.code
    ++ bigEndian 2 aborted ++ bigEndian 2 voids ++ bigEndian 2 breaks ++ optBytes 4 (bigEndian 4) oldest
    ++ optBytes 4 (bigEndian 4) lastStored ++ bigEndian 1 (measurementCode measuring) ++ bigEndian 1 survey.code
    ++ bigEndian 1 backup.code

/-- The MEA payload (R104): its one cause is HOST. -/
def measurementPayload (measuring : Bool) : List Byte := bigEndian 1 (measurementCode measuring) ++ bigEndian 1 1

/-- The STO payload (R162): subtype ERASED; the completion cause NORMAL or FAULT. -/
def erasedPayload (range : Option (Nat × Nat)) (sectors : Nat) (normal : Bool) : List Byte :=
  bigEndian 1 1 ++ bigEndian 1 (markByte [range.isSome])
    ++ optBytes 8 (fun (r : Nat × Nat) => bigEndian 4 r.1 ++ bigEndian 4 r.2) range
    ++ bigEndian 2 sectors ++ bigEndian 1 (if normal then 1 else 2)

/-! ## The slot (R199) -/

/-- The payload as it stands in the slot: the gap count first where the record carries one. -/
def Record.slotPayload (r : Record) : List Byte := optBytes 0 (bigEndian 2) r.gap ++ r.payload

/-- The first 124 bytes of a record's slot image. -/
def Record.body (r : Record) : List Byte :=
  (bigEndian 4 r.sequence ++ bigEndian 1 r.kind.code ++ bigEndian 1 (markByte [r.gap.isSome]) ++ bigEndian 1 r.quality.code
    ++ bigEndian 1 r.slotPayload.length ++ bigEndian 4 r.lastEvent.toNat ++ bigEndian 2 r.generation.toNat
    ++ timeBytes r.time ++ r.slotPayload ++ List.replicate 124 0#8).take 124

/-- The chain check of a record, with the check of the record before it (R144). -/
def Record.check (r : Record) (preset : BitVec 32) : BitVec 32 := crc32 preset r.body

/-- The 128-byte image with a check. -/
def Record.image (r : Record) (check : BitVec 32) : List Byte := r.body ++ bigEndian 4 check.toNat

/-- The sequence field of a slot. -/
def slotSequence (bytes : List Byte) : Nat := fieldAt bytes 0 4

/-- The check field of a slot. -/
def slotCheck (bytes : List Byte) : BitVec 32 := BitVec.ofNat 32 (fieldAt bytes 124 4)

/-- The GAP flag of a slot. -/
def slotGap (bytes : List Byte) : Bool := bitAt (fieldAt bytes 5 1) 0

/-- The producer's payload of a slot, with the fill after it. -/
def slotProducer (bytes : List Byte) : List Byte := ((bytes.drop 20).take 104).drop (if slotGap bytes then 2 else 0)

/-- A programmed slot is well formed (R165). -/
def slotWellFormed (bytes : List Byte) : Bool :=
  (recordKindOf (fieldAt bytes 4 1)).isSome && fieldAt bytes 6 1 ≤ 3 && fieldAt bytes 7 1 ≤ 104 && fieldAt bytes 5 1 ≤ 1

/-! ## Decoded text (R157, R201) -/

/-- The name at a position from 1, or the code itself where the list has none. -/
def codeText (names : List String) (code : Nat) : Text :=
  match code with
  | 0 => num 0
  | n + 1 => match names[n]? with
    | some s => s.toList
    | none => num (n + 1)

/-- The quality names by their codes from 0; a code outside the list as its number (log entry 20). -/
def qualityCodeText (code : Nat) : Text :=
  if code ≤ 3 then codeText ["UNSET", "FREE", "LOCKED", "HOLDOVER"] (code + 1) else num code

/-- A time field. -/
def timeFieldText (p : List Byte) (at' : Nat) : Text := timeText ⟨fieldAt p at' 4, fieldAt p (at' + 4) 2⟩

/-- A number field. -/
def numField (p : List Byte) (at' size : Nat) : Text := num (fieldAt p at' size)

/-- A field that stands only when its part is present. -/
def presentText (present : Bool) (t : Text) : Text := if present then t else absentText

/-- A mark byte as one field, the group of its named marks. DESIGN CHOICE: R201 has a table row for a group of named marks
and also lets a field held inside a mark byte stand as its own field, which can be read as one 1 or 0 for each mark (log
entry 20). -/
def markByteText (names : List String) (n : Nat) : Text :=
  markGroup (names.mapIdx (fun i s => (bitAt n i, s)))

/-- The lists of R200. -/
def eventKindNames : List String := ["DIP", "SWELL", "INTERRUPTION"]
/-- The close causes. -/
def closeCauseNames : List String := ["END", "LIMIT", "RESUME", "STOP"]
/-- The outcomes. -/
def outcomeNames : List String := ["PASS", "FAIL", "INCONCLUSIVE"]
/-- The measurement states. -/
def measurementNames : List String := ["STOPPED", "MEASURING"]
/-- The survey states. -/
def surveyNames : List String := ["IDLE", "ARMED", "RUNNING", "COMPLETE", "ABORTED"]
/-- The store states. -/
def storeNames : List String := ["SCANNING", "READY", "FULL", "FAULT", "ERASING_ALL"]
/-- The backup indications. -/
def backupNames : List String := ["GOOD", "FAILED"]

/-- The EVT payload as fields. An entry of its phase list has its subfields in the order of R200, where the still-out bit
stands beside the phase (R201). DESIGN CHOICE (log entry 20): the presence byte is no field, its bits show as empty fields,
and the mark byte is one field (`markByteText`). -/
def eventFields (p : List Byte) : List Text :=
  let present := fieldAt p 0 1
  let chain := bitAt present 2
  let n := fieldAt p 49 1
  [codeText eventKindNames (fieldAt p 1 1), codeText closeCauseNames (fieldAt p 2 1), numField p 3 4,
    presentText (bitAt present 0) (numField p 7 4), timeFieldText p 11, timeFieldText p 17, numField p 23 4,
    numField p 27 2, numField p 29 1,
    markByteText ["CLIPPED", "SYNTHETIC", "SETTINGS_CHANGED", "TIME_STEP", "RESUMED"] (fieldAt p 30 1),
    numField p 31 1, presentText (bitAt present 1) (numField p 32 4), presentText chain (timeFieldText p 36),
    presentText chain (numField p 42 4), presentText chain (numField p 46 2), presentText chain (numField p 48 1), num n]
    ++ (List.range n).map (fun i =>
      let at' := 50 + 11 * i
      compound [num (fieldAt p at' 1 % 4), bitText (bitAt (fieldAt p at' 1) 7), numField p (at' + 1) 4,
        numField p (at' + 5) 2, numField p (at' + 7) 4])

/-- The IVL payload as fields, with valid and member each as its own field (R201). DESIGN CHOICE (log entry 20): the
presence byte is no field, its bits show as empty fields, and the mark byte is one field (`markByteText`). -/
def intervalFields (p : List Byte) : List Text :=
  let present := fieldAt p 0 1
  let values := bitAt present 0
  let frequency := bitAt present 1
  let phase (at' : Nat) := presentText values (compound [numField p at' 2, numField p (at' + 2) 2, numField p (at' + 4) 2])
  let flags := fieldAt p 52 1
  [numField p 1 4, timeFieldText p 5, phaseSetText (allPhases.filter (fun q => bitAt (fieldAt p 11 1) (phaseDigit q - 1))),
    phase 12, phase 18, phase 24, presentText values (numField p 30 2), numField p 32 1,
    presentText frequency (numField p 33 4), presentText frequency (numField p 37 4), presentText frequency (numField p 41 4),
    numField p 45 2, numField p 47 2, numField p 49 2,
    markByteText ["EVENT", "SYNTHETIC", "CLIPPED", "CLOCK", "INCOMPLETE", "TIME_STEP", "RESUMED"] (fieldAt p 51 1),
    bitText (bitAt flags 0), bitText (bitAt flags 1)]

/-- The VDT payload as fields. DESIGN CHOICE (log entry 20): the presence byte is no field. -/
def verdictFields (p : List Byte) : List Text :=
  let present := fieldAt p 0 1
  let body := bitAt present 0
  let outcome (at' : Nat) := presentText body (codeText outcomeNames (fieldAt p at' 1))
  [numField p 1 4, codeText ["COMPLETE", "HOST", "COLD"] (fieldAt p 5 1), codeText outcomeNames (fieldAt p 6 1),
    numField p 7 4, numField p 11 4, numField p 15 1]
    ++ (List.range 6).map (fun i => presentText body (numField p (16 + 3 * i) 3))
    ++ [numField p 34 2, numField p 36 4, outcome 40, outcome 41, outcome 42, outcome 43, presentText body (numField p 44 4),
      presentText (bitAt present 1) (numField p 48 2), presentText (bitAt present 2) (numField p 50 2),
      presentText (bitAt present 3) (numField p 52 2), numField p 54 2, numField p 56 2, numField p 58 2, numField p 60 2,
      presentText body (numField p 62 4), presentText body (numField p 66 2), numField p 68 1]

/-- The SVY payload as fields. -/
def surveyFields (p : List Byte) : List Text :=
  let subtype := fieldAt p 0 1
  codeText ["START", "RELEASE"] subtype ::
    (if subtype = 1 then [numField p 1 4, numField p 5 4, numField p 9 1, numField p 10 4, numField p 14 4]
    else [numField p 1 4])

/-- Where a setting stands in the CFG payload: its offset and size. -/
def Setting.place : Setting → Nat × Nat
  | .ud => (1, 2)
  | .fn => (3, 1)
  | .wiring => (4, 1)
  | .k1 => (5, 2)
  | .k2 => (7, 2)
  | .k3 => (9, 2)
  | .o1 => (11, 2)
  | .o2 => (13, 2)
  | .o3 => (15, 2)
  | .tdip => (17, 2)
  | .tswell => (19, 2)
  | .tint => (21, 2)
  | .hyst => (23, 2)
  | .lmax => (25, 2)
  | .bandlo => (27, 2)
  | .bandhi => (29, 2)
  | .hardlo => (31, 2)
  | .hardhi => (33, 2)
  | .share => (35, 2)
  | .hardshare => (37, 2)
  | .fband => (39, 2)
  | .fshare => (41, 2)
  | .cover => (43, 2)

/-- The value of a setting in the CFG payload, as `Settings.get` numbers it. A code outside its list, which an altered slot
alone holds, is taken as 50 for FN and as W3 for WIRING (log entry 38). -/
def Setting.ofPayload (p : List Byte) (n : Setting) : Int :=
  let v := fieldAt p n.place.1 n.place.2
  match n with
  | .fn => if v = 2 then 60 else 50
  | .wiring => if v = 2 then 1 else 3
  | .o1 | .o2 | .o3 => fromSigned v
  | _ => v

/-- The notice mask of a CFG payload. -/
def maskOfPayload (p : List Byte) : NoticeMask :=
  let m := fieldAt p 48 2
  ⟨bitAt m 0, bitAt m 1, bitAt m 2, bitAt m 3, bitAt m 4, bitAt m 5, bitAt m 6, bitAt m 7, bitAt m 8⟩

/-- The CFG payload as fields (R201): the rate and not its position, the mask as LNK's reply writes it, the reference
settings as ON or OFF and RISE or FALL (log entry 20). -/
def settingsFields (p : List Byte) : List Text :=
  codeText ["APPLIED_AT_ONCE", "APPLIED_AT_CLOSURE", "LINK", "REFERENCE"] (fieldAt p 0 1)
    :: allSettings.map (fun n => n.valueText (n.ofPayload p))
    ++ [codeText ["9600", "19200", "38400", "57600", "115200"] (fieldAt p 45 1), numField p 46 1, numField p 47 1,
      (maskOfPayload p).text, if bitAt (fieldAt p 50 1) 0 then "ON".toList else "OFF".toList,
      if bitAt (fieldAt p 50 1) 1 then "FALL".toList else "RISE".toList]

/-- The TIM payload as fields. -/
def timeFields (p : List Byte) : List Text :=
  let errors := fieldAt p 0 1 == 3
  let err (at' : Nat) := presentText errors (int (fromSigned (fieldAt p at' 2)))
  [codeText ["HOST", "BROADCAST", "REFERENCE", "WRAP"] (fieldAt p 0 1), timeFieldText p 1, timeFieldText p 7,
    qualityCodeText (fieldAt p 13 1), qualityCodeText (fieldAt p 14 1), numField p 15 4, err 19, err 21, err 23]

/-- The PWR payload as fields. DESIGN CHOICE (log entry 20): the presence byte of a COLD record is no field. -/
def powerFields (p : List Byte) : List Text :=
  let subtype := fieldAt p 0 1
  codeText ["DORMANT", "RESUMED", "COLD"] subtype ::
    (if subtype = 1 then
      [timeFieldText p 1, timeFieldText p 7, numField p 13 1, codeText storeNames (fieldAt p 14 1),
        codeText measurementNames (fieldAt p 15 1), codeText surveyNames (fieldAt p 16 1),
        codeText backupNames (fieldAt p 17 1), numField p 18 1]
        ++ (List.range (fieldAt p 18 1)).map (fun i =>
          let at' := 19 + 18 * i
          compound [codeText eventKindNames (fieldAt p at' 1), numField p (at' + 1) 4, timeFieldText p (at' + 5),
            numField p (at' + 11) 4, numField p (at' + 15) 2, numField p (at' + 17) 1])
    else if subtype = 2 then
      [timeFieldText p 1, timeFieldText p 7, numField p 13 4, numField p 17 2, numField p 19 1,
        codeText measurementNames (fieldAt p 20 1), codeText surveyNames (fieldAt p 21 1), codeText backupNames (fieldAt p 22 1)]
    else
      [codeText ["POWER_UP", "CONTEXT"] (fieldAt p 2 1), numField p 3 2, numField p 5 2, numField p 7 2,
        presentText (bitAt (fieldAt p 1 1) 0) (numField p 9 4), presentText (bitAt (fieldAt p 1 1) 1) (numField p 13 4),
        codeText measurementNames (fieldAt p 17 1), codeText surveyNames (fieldAt p 18 1), codeText backupNames (fieldAt p 19 1)])

/-- The MEA payload as fields. -/
def measurementFields (p : List Byte) : List Text :=
  [codeText measurementNames (fieldAt p 0 1), codeText ["HOST"] (fieldAt p 1 1)]

/-- The STO payload as fields. DESIGN CHOICE (log entry 20): the presence byte is no field. -/
def storeFields (p : List Byte) : List Text :=
  let range := bitAt (fieldAt p 1 1) 0
  [codeText ["ERASED"] (fieldAt p 0 1), presentText range (numField p 2 4), presentText range (numField p 6 4),
    numField p 10 2, codeText ["NORMAL", "FAULT"] (fieldAt p 12 1)]

/-- The payload fields of a slot, by its kind; none where the slot holds no record kind. -/
def payloadFields (bytes : List Byte) : List Text :=
  let p := slotProducer bytes
  match recordKindOf (fieldAt bytes 4 1) with
  | some .ivl => intervalFields p
  | some .evt => eventFields p
  | some .vdt => verdictFields p
  | some .svy => surveyFields p
  | some .cfg => settingsFields p
  | some .tim => timeFields p
  | some .pwr => powerFields p
  | some .mea => measurementFields p
  | some .sto => storeFields p
  | none => []

/-- The decoded fields of a slot up to its check (R157). -/
def decodedSlot (bytes : List Byte) : List Text :=
  [num (slotSequence bytes), codeText ["IVL", "EVT", "VDT", "SVY", "CFG", "TIM", "PWR", "MEA", "STO"] (fieldAt bytes 4 1),
    bitText (slotGap bytes), presentText (slotGap bytes) (numField bytes 20 2), qualityCodeText (fieldAt bytes 6 1),
    numField bytes 7 1, numField bytes 8 4, numField bytes 12 2, timeFieldText bytes 14]
    ++ payloadFields bytes ++ [checkText (slotCheck bytes)]

/-- The reply fields of RDR or RDX for 128 bytes (R157, R158): the place is the slot number or PENDING. -/
def readFieldsOf (form : ReadForm) (bytes : List Byte) (place : Text) (mismatch : Bool) : List Text :=
  (match form with
    | .decoded => decodedSlot bytes
    | .raw => [hexBytes bytes]) ++ place :: (if mismatch then ["MISMATCH".toList] else [])

/-! ## What a restore reads (R119, R120) -/

/-- The active set of a settings record. -/
def settingsOfPayload (p : List Byte) : Settings :=
  Settings.default.write (allSettings.map (fun n => (n, n.ofPayload p)))

/-- The link settings of a settings record; a rate code outside the list gives rate 0, which R186 finds invalid. -/
def linkOfPayload (p : List Byte) : LinkSettings :=
  ⟨match fieldAt p 45 1 with
    | 0 => 0
    | n + 1 => (allRates[n]?).getD 0, fieldAt p 46 1, fieldAt p 47 1, maskOfPayload p⟩

/-- A stored notice mask names no kind outside the list of R185 (R186). -/
def maskValid (p : List Byte) : Bool := fieldAt p 48 2 < 512

/-- The reference-pulse settings of a settings record. -/
def referenceOfPayload (p : List Byte) : Bool × Polarity :=
  (bitAt (fieldAt p 50 1) 0, if bitAt (fieldAt p 50 1) 1 then .fall else .rise)

/-- The measurement state of a measurement record; a code outside its list is taken as STOPPED (log entry 38). -/
def measuringOfPayload (p : List Byte) : Bool := fieldAt p 0 1 == 2

/-- The outcome with a code; one outside the list is taken as INCONCLUSIVE (log entry 38). -/
def outcomeOf (code : Nat) : TestOutcome := if code = 1 then .pass else if code = 2 then .fail else .inconclusive

/-- The verdict cause with a code; one outside the list is taken as COLD (log entry 38). -/
def verdictCauseOf (code : Nat) : VerdictCause := if code = 1 then .complete else if code = 2 then .host else .cold

/-- A verdict read back from its record (R120), with the sequence of that record. -/
def verdictOfPayload (p : List Byte) (sequence : Nat) : Verdict :=
  let present := fieldAt p 0 1
  let share (i at' : Nat) : Option Nat := if bitAt present i then some (fieldAt p at' 2) else none
  ⟨fieldAt p 1 4, verdictCauseOf (fieldAt p 5 1), outcomeOf (fieldAt p 6 1), fieldAt p 7 4, fieldAt p 11 4, fieldAt p 15 1,
    fieldAt p 34 2, fieldAt p 36 4,
    if bitAt present 0 then
      some ⟨⟨fieldAt p 16 3, fieldAt p 19 3, fieldAt p 22 3, fieldAt p 25 3, fieldAt p 28 3, fieldAt p 31 3⟩,
        ⟨outcomeOf (fieldAt p 40 1), some (fieldAt p 44 4)⟩, ⟨outcomeOf (fieldAt p 41 1), share 1 48⟩,
        ⟨outcomeOf (fieldAt p 42 1), share 2 50⟩, ⟨outcomeOf (fieldAt p 43 1), share 3 52⟩, fieldAt p 62 4, fieldAt p 66 2⟩
    else none,
    fieldAt p 54 2, fieldAt p 56 2, fieldAt p 58 2, fieldAt p 60 2, fieldAt p 68 1 == 1, some sequence⟩

end Sys2Proof.Machine
end

