-- ==== Sys2Proof/Machine/Ops.lean ====
section
/-! DEFINITION. The operations the blocks share: the medium's bytes, readings, notices, replies, the pending-write
queue and the use of the medium. -/

namespace Sys2Proof.Machine

/-! ## The medium's bytes (R139, R140) -/

/-- One byte of the medium. -/
def Memory.read : Memory → Nat → Byte
  | [], _ => Memory.erased
  | (x, b) :: rest, a => if x = a then b else Memory.read rest a

/-- A byte put into its place in the list; an erased byte is not listed. -/
def Memory.insert : Memory → Nat → Byte → Memory
  | [], a, b => if b = Memory.erased then [] else [(a, b)]
  | (x, c) :: rest, a, b =>
    if a < x then (if b = Memory.erased then (x, c) :: rest else (a, b) :: (x, c) :: rest)
    else if a = x then (if b = Memory.erased then rest else (a, b) :: rest)
    else (x, c) :: Memory.insert rest a b

/-- Write one byte; the medium has no byte at or past its size. -/
def Memory.write (m : Memory) (a : Nat) (b : Byte) : Memory := if a < Memory.size then Memory.insert m a b else m

/-- Write bytes at rising addresses. -/
def Memory.writeBytes (m : Memory) (a : Nat) : List Byte → Memory
  | [] => m
  | b :: rest => Memory.writeBytes (Memory.write m a b) (a + 1) rest

/-- Read bytes at rising addresses. -/
def Memory.readBytes (m : Memory) (a : Nat) : Nat → List Byte
  | 0 => []
  | n + 1 => Memory.read m a :: Memory.readBytes m (a + 1) n

/-- The 128 bytes of a slot. -/
def Memory.slot (m : Memory) (n : Nat) : List Byte := Memory.readBytes m (128 * n) 128

/-- A slot whose 128 bytes are all 0xFF is erased (R140). -/
def Memory.slotErased (m : Memory) (n : Nat) : Bool := m.all (fun c => c.1 / 128 ≠ n)

/-- Put 128 bytes into a slot. -/
def Memory.writeSlot (m : Memory) (n : Nat) (bytes : List Byte) : Memory := Memory.writeBytes m (128 * n) (bytes.take 128)

/-- Erase the 4096 bytes of a sector (R139). -/
def Memory.eraseSector (m : Memory) (sector : Nat) : Memory := m.filter (fun c => c.1 / 4096 ≠ sector)

/-! ## Power and readings -/

/-- The host link is switched on (R175, R178, R180). -/
def linkOn (s : State) : Bool := s.spm.power == .starting || s.spm.power == .run || s.spm.power == .rideThrough

/-- Sampling runs (R7, section 8.2). -/
def sampling (s : State) : Bool := s.spm.power == .run || s.spm.power == .rideThrough

/-- The reading as TMB forms it from the RTC (R123). -/
def Tmb.formed (t : Tmb) : Time := ⟨t.seconds, subToMs t.sub⟩

/-- The reading handed out (R123). -/
def Tmb.handedOut (t : Tmb) : Time :=
  match t.lastReading with
  | some last => if t.held ∧ t.formed.lt last then last else t.formed
  | none => t.formed

/-- What handing out a reading leaves (R123). -/
def Tmb.afterReading (t : Tmb) : Tmb :=
  match t.lastReading with
  | some last => if t.held ∧ t.formed.lt last then t else { t with lastReading := some t.formed, held := false }
  | none => { t with lastReading := some t.formed, held := false }

/-- The reading that a block takes now. -/
def reading (s : State) : Time := s.tmb.handedOut

/-- The state once a reading has been taken. -/
def takeReading (s : State) : State := { s with tmb := s.tmb.afterReading }

/-- SPM's extended tick (R174). -/
def extendedTick (s : State) : Nat := s.spm.wrapCount * 4294967296 + s.tmb.tick.toNat

/-! ## The transmitter (R192, R193, R202) -/

/-- The reply's eligible tick has been reached (R191). -/
def Reply.due (r : Reply) (now : Tick) : Bool := r.eligible || r.delay ≤ tickSpan r.formedAt now

/-- Begin to send a reply: its run of frames, with the link marks as they stand, which are cleared (R193, R202). -/
def startReply (r : Reply) (s : State) : State :=
  let marks := linkMarks s.hlk.overrun s.hlk.framing s.hlk.overflow
  let frames := replyRun s.hlk.settings.station r.command r.status marks (r.fields.length + 1) r.fields
  { s with hlk := { s.hlk with
      transmitter := .reply (frames.headD []) frames.tail
      reply := some { r with eligible := true }
      overrun := false
      framing := false
      overflow := false } }

/-- Begin to send the oldest notice, which leaves the queue (R192). -/
def startNotice (s : State) : State :=
  match s.hlk.notices with
  | [] => s
  | n :: rest =>
    { s with hlk := { s.hlk with transmitter := .notice n (noticeFrame s.hlk.settings.station n), notices := rest } }

/-- The choice of R192, made when the transmitter is IDLE: an eligible reply, else the oldest notice. -/
def transmit (s : State) : State :=
  if linkOn s ∧ s.hlk.transmitter = .idle then
    match s.hlk.reply with
    | some r => if r.due s.tmb.tick then startReply r s else startNotice s
    | none => startNotice s
  else s

/-! ## Replies and notices (R191, R194) -/

/-- Put a reply into the reply slot (R191). -/
def placeReply (command : Text) (status : Status) (fields : List Text) (link : Option LinkSettings) (s : State) : State :=
  transmit { s with hlk := { s.hlk with
      inProgress := none
      reply := some ⟨command, status, fields, s.tmb.tick, delayTicks s.hlk.settings.delay, false, link⟩ } }

/-- The owning block has produced the reply content of the command in progress. A broadcast has no command in progress
and gets no reply (R190). -/
def answer (status : Status) (fields : List Text) (s : State) : State :=
  match s.hlk.inProgress with
  | some c => placeReply c.text status fields none s
  | none => s

/-- A block posts a notice: admitted by the mask and the queue's occupancy (R194), and started at once where the
transmitter is IDLE (R192). -/
def postNotice (kind : NoticeKind) (fields : List Text) (s : State) : State :=
  if ¬ s.hlk.settings.mask.has kind then s
  else if s.hlk.notices.length < 16 then
    transmit { s with hlk := { s.hlk with notices := s.hlk.notices ++ [⟨kind, fields⟩] } }
  else { s with hlk := { s.hlk with overflow := true } }

/-- Post a notice one of whose fields is the reading at its posting. -/
def postWithReading (kind : NoticeKind) (fields : Time → List Text) (s : State) : State :=
  postNotice kind (fields (reading s)) (takeReading s)

/-! ## The sector table and the place of a record (R141, R151, R156) -/

/-- An entry of the sector table. -/
def sectorAt (e : Evs) (sector : Nat) : Sector := (e.sectors[sector]?).getD Sector.empty

/-- The sector of a slot (R139). -/
def sectorOf (slot : Nat) : Nat := slot / 32

/-- The slot after a slot in ring order (R139). -/
def nextSlot (slot : Nat) : Nat := (slot + 1) % 32768

/-- The sector after a sector in ring order (R139). -/
def nextSector (sector : Nat) : Nat := (sector + 1) % 1024

/-- A due erase of a sector is held (R151). -/
def eraseHeld (e : Evs) (sector : Nat) : Bool :=
  match e.protectionStart, (sectorAt e sector).first with
  | some p, some f => 0 < (sectorAt e sector).valid && p ≤ f + (sectorAt e sector).valid - 1
  | _, _ => false

/-- The slots of a sector that hold its valid records: neither void nor erased (R141, R156). -/
def recordSlots (e : Evs) (sector : Nat) : List Nat :=
  ((List.range 32).filter (fun i => ¬ (sectorAt e sector).voids.contains i ∧ ¬ Memory.slotErased e.medium (32 * sector + i))).map
    (fun i => 32 * sector + i)

/-- The newest sequence available (R156). -/
def newestAvailable (e : Evs) : Option Nat := if e.pwq = [] then e.lastStored else e.lastIssued

/-- The sector whose first sequence is the greatest at or below a sequence (R156). -/
def sectorHolding (e : Evs) (q : Nat) : Option Nat :=
  (e.sectors.zipIdx.foldl (fun (best : Option (Nat × Nat)) (entry : Sector × Nat) =>
    match entry.1.first with
    | some f => if f ≤ q ∧ (best.all (fun b => b.1 < f)) then some (f, entry.2) else best
    | none => best) none).map Prod.snd

/-- The image of a record of the queue, with the check it will be programmed with (R157). -/
def pendingImage (preset : BitVec 32) : List Record → Nat → Option (List Byte)
  | [], _ => none
  | r :: rest, q =>
    if r.sequence = q then some (r.image (r.check preset)) else pendingImage (r.check preset) rest q

/-- Where a sequence stands (R156). -/
inductive Located where
  | pending (image : List Byte)
  | slot (n : Nat)
  | unavailable
  deriving DecidableEq, Repr

/-- The scan found the sequence in no valid slot between records (R156). -/
def isMissing (e : Evs) (q : Nat) : Bool := e.missing.any (fun run => run.1 ≤ q && q ≤ run.2)

/-- The slot that the sector table gives for a sequence (R156). -/
def locateSlot (e : Evs) (q : Nat) : Located :=
  if isMissing e q then .unavailable
  else match sectorHolding e q with
  | some sector =>
    match (sectorAt e sector).first with
    | some f => match (recordSlots e sector)[q - f]? with
      | some n => .slot n
      | none => .unavailable
    | none => .unavailable
  | none => .unavailable

/-- Locate a sequence (R156). -/
def locate (e : Evs) (q : Nat) : Located :=
  match pendingImage e.lastCheck e.pwq q with
  | some image => .pending image
  | none =>
    match e.oldestSequence, e.lastStored with
    | some oldest, some last => if oldest ≤ q ∧ q ≤ last then locateSlot e q else .unavailable
    | _, _ => .unavailable

/-! ## Answers to reads (R156 to R159) -/

/-- An OK answer to a read makes its sequence the last read (R157). -/
def answerRead (request : ReadRequest) (bytes : List Byte) (place : Text) (mismatch : Bool) (s : State) : State :=
  answer .ok (readFieldsOf request.form bytes place mismatch)
    { s with evs := { s.evs with lastRead := some request.sequence } }

/-- An NRC answer carries the oldest and the newest sequence available (R156). -/
def answerUnavailable (s : State) : State :=
  answer .nrc [optText num s.evs.oldestSequence, optText num (newestAvailable s.evs)] s

/-! ## Use of the medium (R148, R149, R162) -/

/-- The medium may be given an operation: in RUN and RIDE_THROUGH, and in a cold STARTING once the scan has ended
(R148, R178, R180), until a cold start is given up. -/
def mediumUsable (s : State) : Bool :=
  s.evs.activity == .idle && !s.spm.abortPending &&
    (sampling s || (s.spm.power == .starting && s.spm.startKind == some .cold && s.evs.state != .scanning))

/-- The write position's sector can be programmed and a record waits (R148). -/
def headProgrammable (e : Evs) : Bool := e.pwq != [] && (sectorAt e (sectorOf e.writePosition)).condition != .closed

/-- A program can start (R148). DESIGN CHOICE: over a medium with programmed slots and no well-formed one R166 sets the write
position to slot 0 and every sector ERASED, and R140 programs an erased slot; the model programs slot 0 there over the bytes
it holds (log entry 16). -/
def canProgram (e : Evs) : Bool := e.state != .fault && headProgrammable e

/-- The sector table when a program begins in a sector (R149): an ERASED sector becomes WRITING, and the one that was
WRITING becomes CLOSED. -/
def openSector (sectors : List Sector) (sector : Nat) : List Sector :=
  sectors.mapIdx (fun i x =>
    if i = sector then { x with condition := .writing }
    else if x.condition = .writing then { x with condition := .closed } else x)

/-- The start of the program of the head (R149). In ERASING_ALL it makes no erase due (R162). -/
def startProgram (s : State) : State :=
  match s.evs.pwq with
  | [] => s
  | r :: _ =>
    let e := s.evs
    let check := r.check e.lastCheck
    let sector := sectorOf e.writePosition
    let inFlight := { e with activity := .program e.writePosition (r.image check) check }
    if (sectorAt e sector).condition = .erased then
      { s with evs := { inFlight with
          sectors := openSector e.sectors sector
          due := if e.state = .erasingAll then e.due else some (nextSector sector) } }
    else { s with evs := inFlight }

/-- The start of an erase (R151, R162). -/
def startErase (sector : Nat) (s : State) : State := { s with evs := { s.evs with activity := .erase sector } }

/-- The start of the waiting read: its record is located again (R156). A read whose record has gone is answered NRC
and leaves the medium to the head of the queue. -/
def startRead (request : ReadRequest) (s : State) : State :=
  let waitless := { s with evs := { s.evs with waitingRead := none } }
  match locate s.evs request.sequence with
  | .slot n => { waitless with evs := { waitless.evs with activity := .read n request } }
  | .pending image =>
    let answered := answerRead request image "PENDING".toList false waitless
    if canProgram answered.evs then startProgram answered else answered
  | .unavailable =>
    let answered := answerUnavailable waitless
    if canProgram answered.evs then startProgram answered else answered

/-- The erase that is due and may start (R148, R151). -/
def freeErase (e : Evs) : Option Nat :=
  match e.due with
  | some sector => if e.state = .fault ∨ eraseHeld e sector then none else some sector
  | none => none

/-- The read that may start: none is started after the commitment (R173). -/
def startableRead (s : State) : Option ReadRequest := if s.spm.committed then none else s.evs.waitingRead

/-- The choice of R148 in READY, FULL and FAULT. -/
def ordinaryChoice (s : State) : State :=
  match freeErase s.evs, s.evs.mode, startableRead s with
  | some sector, _, _ => startErase sector s
  | none, .normal, some request => startRead request s
  | none, .normal, none => if canProgram s.evs then startProgram s else s
  | none, .drain, some request => if canProgram s.evs then startProgram s else startRead request s
  | none, .drain, none => if canProgram s.evs then startProgram s else s

/-- The choice of R162 in ERASING_ALL. -/
def eraseAllChoice (s : State) : State :=
  if headProgrammable s.evs then startProgram s
  else if s.evs.erasedCount < 1024 then startErase s.evs.front s
  else s

/-- Start the next operation of the medium, when it is IDLE (R148). -/
def mediumChoice (s : State) : State :=
  if ¬ mediumUsable s then s
  else match s.evs.state with
    | .scanning => s
    | .erasingAll => eraseAllChoice s
    | .ready => ordinaryChoice s
    | .full => ordinaryChoice s
    | .fault => ordinaryChoice s

/-- The mode when the power state returns to RUN (R147). -/
def modeAtRun (e : Evs) : StoreMode := if e.pwq.length ≤ 8 then .normal else e.mode

/-! ## The pending-write queue (R142, R143, R145) -/

/-- The next sequence number the store will issue (R143). After 4,294,967,295 it is the free value of log entry 7. -/
def nextSequence (e : Evs) : Nat :=
  match e.lastIssued with
  | none => 1
  | some n => if n < max32 then n + 1 else Config.sequenceAfterLast.toNat

/-- A record that is dropped adds 1 to each of the three drop counts (R145). -/
def dropRecord (s : State) : State :=
  { s with evs := { s.evs with
      gapCount := saturate max16 (s.evs.gapCount + 1)
      surveyDrops := saturate max32 (s.evs.surveyDrops + 1)
      coldDrops := saturate max32 (s.evs.coldDrops + 1) } }

/-- The record of a kind and payload as EVS completes it at this moment (R142). -/
def completeRecord (kind : RecordKind) (payload : List Byte) (time : Time) (quality : Quality) (s : State) : Record :=
  ⟨nextSequence s.evs, kind, if s.evs.gapCount = 0 then none else some s.evs.gapCount, quality, s.evd.counter,
    s.svc.generation, time, payload⟩

/-- Take a completed record into the queue (R143, R145, R147). -/
def takeRecord (r : Record) (s : State) : State :=
  mediumChoice { s with evs := { s.evs with
      pwq := s.evs.pwq ++ [r]
      lastIssued := some r.sequence
      gapCount := 0
      mode := if 24 ≤ s.evs.pwq.length + 1 then .drain else s.evs.mode } }

/-- EVS takes the record offered: the queue has room, and the scan has ended (R145). -/
def recordTaken (s : State) : Bool := s.evs.state != .scanning && s.evs.pwq.length < 32

/-- The sequence number that a record offered now receives; absent where it is dropped (R145). -/
def offeredSequence (s : State) : Option Nat := if recordTaken s then some (nextSequence s.evs) else none

/-- A producer offers a record (R142, R145). -/
def offer (kind : RecordKind) (payload : List Byte) (s : State) : State :=
  if recordTaken s then takeRecord (completeRecord kind payload (reading s) s.tmb.quality s) (takeReading s)
  else dropRecord s

/-- TMB offers a time record, whose header carries its new time and the quality after the step (R131, R142). -/
def offerTimeRecord (payload : List Byte) (time : Time) (quality : Quality) (s : State) : State :=
  if recordTaken s then takeRecord (completeRecord .tim payload time quality s) s else dropRecord s

/-- The settings unit queues a settings record (R103). -/
def offerSettings (cause : SettingsCause) (s : State) : State :=
  offer .cfg (settingsPayload cause s.svc.active s.hlk.settings s.tmb.enabled s.tmb.polarity) s

/-! ## Store notices and protection (R154, R164) -/

/-- An STN notice (R164). -/
def postStore (direction : String) (state : StoreState) (reason : String) (s : State) : State :=
  postWithReading .stn (fun t => [direction.toList, state.text, reason.toList, num s.evs.pwq.length, num s.evs.coldDrops,
    timeText t]) s

/-- The protection start is cleared: a FULL store becomes READY, and a held erase becomes free (R153, R154). -/
def clearProtection (s : State) : State :=
  let cleared := { s with evs := { s.evs with protectionStart := none } }
  if s.evs.state = .full then
    mediumChoice (postStore "EXIT" .full "RELEASE" { cleared with evs := { cleared.evs with state := .ready } })
  else mediumChoice cleared

end Sys2Proof.Machine
end

