-- ==== Sys2Proof/Machine/Tally.lean ====
section
/-! DEFINITION. The tally bank: items, general cells, survey cells, event matrices, and the commands TLC, TLR, TLX, TLF,
TLU and TLM (chapter Tally Bank and Event Matrices). -/

namespace Sys2Proof.Machine

/-! ## Items (R77) -/

/-- A chain classification (R43). -/
structure ChainClassification where
  kind : EventKind
  number : BitVec 32
  cause : CloseCause
  start : Time
  duration : Nat
  extreme : Extreme
  contained : Nat
  deriving DecidableEq, Repr

/-- The five kinds of item (R77). -/
inductive Item where
  | half (r : Report)
  | win (values : PerPhase (Option Nat)) (flagged : Bool) (startMark : Nat)
  | int (values : PerPhase (Option Nat)) (valid member : Bool) (startMark : Nat)
  | frq (startMark : Nat) (value : Option Nat) (valid outOfRange : Bool)
  | evt (c : ChainClassification)
  deriving DecidableEq, Repr

/-- The source keyword of an item (R77). -/
def Item.source : Item → CellSource
  | .half _ => .half
  | .win _ _ _ => .win
  | .int _ _ _ _ => .int
  | .frq _ _ _ _ => .frq
  | .evt _ => .evt

/-- The values of the wired phases that an item carries (R77). -/
def Item.phaseValues : Item → PerPhase (Option Nat)
  | .half r => PerPhase.build (fun p => (r.values.get p).map PhaseValue.value)
  | .win values _ _ => values
  | .int values _ _ _ => values
  | .frq _ _ _ _ => ⟨none, none, none⟩
  | .evt _ => ⟨none, none, none⟩

/-- The values present among a per-phase quantity, in phase order. -/
def presentValues {α : Type} (x : PerPhase (Option α)) : List α := allPhases.filterMap x.get

/-! ## Testing and counting (R79 to R83) -/

/-- A value meets a comparison (R78). -/
def Comparison.met (c : Comparison) (threshold value : Nat) : Bool :=
  match c with
  | .above => threshold < value
  | .below => value < threshold

/-- The phase values that a selector names meet a test (R79). -/
def Selector.met (sel : Selector) (values : PerPhase (Option Nat)) (test : Nat → Bool) : Bool :=
  match sel with
  | .one p => (values.get p).any test
  | .any => (presentValues values).any test
  | .all => presentValues values != [] && (presentValues values).all test

/-- The test result of an item (R79). -/
def CellConfig.met (c : CellConfig) (item : Item) : Bool :=
  let test := c.comparison.met c.threshold
  match item with
  | .frq _ value _ _ => value.any test
  | .evt chain => c.kind == some chain.kind && test chain.extreme.value
  | .half _ => c.selector.any (fun sel => sel.met item.phaseValues test)
  | .win _ _ _ => c.selector.any (fun sel => sel.met item.phaseValues test)
  | .int _ _ _ _ => c.selector.any (fun sel => sel.met item.phaseValues test)

/-- An item that VALID_ONLY excludes (R80). -/
def Item.excluded : Item → Bool
  | .half r => r.synthetic || r.osc || (presentValues r.values).any PhaseValue.clipped
  | .win _ flagged _ => flagged
  | .int _ valid _ _ => !valid
  | .frq _ _ valid _ => !valid
  | .evt _ => false

/-- The item is eligible under the cell's flag policy (R80). -/
def CellConfig.eligible (c : CellConfig) (item : Item) : Bool := c.policy == .all || !item.excluded

/-- The cell takes the item (R78). -/
def CellConfig.takes (c : CellConfig) (item : Item) : Bool := c.enabled && c.source == item.source

/-- The cell would count the item (R81). -/
def GeneralCell.wouldCount (g : GeneralCell) (item : Item) : Bool :=
  g.config.met item && g.config.eligible item && (g.config.mode == .level || !g.predecessor)

/-- The greatest count of a general or survey cell (R82). -/
abbrev cellMax : Nat := 16777215

/-- An item counted by a general cell (R82). -/
def GeneralCell.increment (g : GeneralCell) : GeneralCell :=
  if g.count < cellMax then
    { g with count := g.count + 1, markReached := g.markReached || (g.config.mark != 0 && g.count + 1 == g.config.mark) }
  else { g with saturated := true }

/-- The cell's count becomes equal to its mark at this increment (R82). -/
def GeneralCell.reachesMark (g : GeneralCell) : Bool := g.count < cellMax && g.config.mark != 0 && g.count + 1 == g.config.mark

/-- What an item leaves of an enabled cell of its source (R81, R82, R83). -/
def GeneralCell.after (g : GeneralCell) (frozen : Bool) (item : Item) : GeneralCell :=
  let counted :=
    if g.wouldCount item then (if frozen then { g with gap := true } else g.increment) else g
  { counted with predecessor := g.config.met item }

/-- HALF, WIN, INT, FRQ, EVT. -/
def CellSource.text : CellSource → Text
  | .half => "HALF".toList
  | .win => "WIN".toList
  | .int => "INT".toList
  | .frq => "FRQ".toList
  | .evt => "EVT".toList

/-- The kind as TLC names it, INT for an INTERRUPTION chain (R78). -/
def cellKindText : EventKind → Text
  | .dip => "DIP".toList
  | .swell => "SWELL".toList
  | .interruption => "INT".toList

/-- A general cell. -/
def cellAt (t : Tlb) (i : Nat) : GeneralCell := (t.cells[i]?).getD GeneralCell.cold

/-- Put a general cell. -/
def putCell (i : Nat) (g : GeneralCell) (s : State) : State := { s with tlb := { s.tlb with cells := s.tlb.cells.set i g } }

/-- The TKN notice of a cell (R82). DESIGN CHOICE: the kind keeps its field for every source, absent but for EVT (log entry
23). -/
def postMark (i : Nat) (g : GeneralCell) (s : State) : State :=
  postWithReading .tkn (fun t => [num i, num g.count, num g.config.mark, g.config.source.text,
    optText cellKindText g.config.kind, timeText t]) s

/-- One general cell takes an item (R81 to R83). -/
def cellTakes (item : Item) (s : State) (i : Nat) : State :=
  let g := cellAt s.tlb i
  if g.config.takes item then
    let after := g.after s.tlb.frozen item
    let put := putCell i after s
    if !s.tlb.frozen && g.wouldCount item && g.reachesMark then postMark i after put else put
  else s

/-! ## Survey cells (R88 to R90) -/

/-- A survey cell's count raised (R82). -/
def raise (n by' : Nat) : Nat := saturate cellMax (n + by')

/-- Every wired phase's value lies between two edges, both inclusive (R89). -/
def allWithin (lo hi : Nat) (values : PerPhase (Option Nat)) : Bool :=
  (presentValues values).all (fun v => lo ≤ v && v ≤ hi)

/-- A mark lies in [survey start, survey end). -/
def SurveyContext.contains (c : SurveyContext) (mark : Nat) : Bool :=
  match c.startMark, c.endMark with
  | some start, some stop => start ≤ mark && mark < stop
  | _, _ => false

/-- 1 where a condition holds. -/
def one (b : Bool) : Nat := if b then 1 else 0

/-- What an item adds to the survey cells while the survey is RUNNING (R88 to R90). -/
def SurveyCells.take (c : SurveyCells) (set : Settings) (survey : SurveyContext) (item : Item) : SurveyCells :=
  match item with
  | .int values valid member _ =>
    let counted := valid && member
    { c with
      s0 := raise c.s0 (one member)
      s1 := raise c.s1 (one counted)
      s2 := raise c.s2 (one (counted && allWithin set.bandlo set.bandhi values))
      s3 := raise c.s3 (one (counted && allWithin set.hardlo set.hardhi values)) }
  | .frq mark value valid _ =>
    let counted := valid && survey.contains mark
    { c with
      s4 := raise c.s4 (one counted)
      s5 := raise c.s5 (one (counted && value.any (inFrequencyBand set.fn set.fband))) }
  | .half _ => c
  | .win _ _ _ => c
  | .evt _ => c

/-- The survey cells take an item; they are not gated by the bank state (R83). -/
def surveyTakes (item : Item) (s : State) : State :=
  if s.svc.survey.state = .running then
    { s with tlb := { s.tlb with survey := s.tlb.survey.take s.svc.active s.svc.survey item } }
  else s

/-- The skipped count of a closure, for S0 (R88). -/
def countSkipped (skipped : Nat) (s : State) : State :=
  if s.svc.survey.state = .running then
    { s with tlb := { s.tlb with survey := { s.tlb.survey with s0 := raise s.tlb.survey.s0 skipped } } }
  else s

/-! ## Event matrices (R91 to R93) -/

/-- The dip row of a residual, from 0 (R92). -/
def dipRow (e : Nat) : Nat := if 8000 ≤ e then 0 else if 7000 ≤ e then 1 else if 4000 ≤ e then 2 else 3

/-- The swell row of an extreme, from 0 (R92). -/
def swellRow (e : Nat) : Nat := if e ≤ 12000 then 0 else if e ≤ 14000 then 1 else 2

/-- The column of a duration in ms, from 0 (R92). -/
def durationColumn (d : Nat) : Nat :=
  if d ≤ 200 then 0 else if d ≤ 500 then 1 else if d ≤ 1000 then 2 else if d ≤ 5000 then 3 else if d ≤ 60000 then 4 else 5

/-- The member of the pair, SHORT or LONG, from 0 (R92). -/
def pairMember (d : Nat) : Nat := if d ≤ 180000 then 0 else 1

/-- One chain into a matrix: counted, or missed while FROZEN (R82, R93). -/
def Matrix.take (m : Matrix) (frozen : Bool) (cell : Nat) : Matrix :=
  if frozen then { m with gap := true }
  else if (m.counts[cell]?).getD 0 < max16 then { m with counts := m.counts.set cell ((m.counts[cell]?).getD 0 + 1) }
  else { m with saturated := true }

/-- The matrices take a chain (R91). -/
def Tlb.takeChain (t : Tlb) (c : ChainClassification) : Tlb :=
  match c.kind with
  | .dip =>
    if c.contained = 0 then
      { t with dip := t.dip.take t.frozen (6 * dipRow c.extreme.value + durationColumn c.duration) }
    else t
  | .swell => { t with swell := t.swell.take t.frozen (6 * swellRow c.extreme.value + durationColumn c.duration) }
  | .interruption => { t with pair := t.pair.take t.frozen (pairMember c.duration) }

/-- The matrices take an item: chains alone. -/
def matricesTake (item : Item) (s : State) : State :=
  match item with
  | .evt c => { s with tlb := s.tlb.takeChain c }
  | .half _ => s
  | .win _ _ _ => s
  | .int _ _ _ _ => s
  | .frq _ _ _ _ => s

/-- The bank takes an item whole: every general cell, the survey cells and the matrices (R77). The manual gives the cells no
order; the model goes from C0 up to C11, and several TKN notices of one item are posted in that order (log entry 34). -/
def handItem (item : Item) (s : State) : State :=
  matricesTake item (surveyTakes item ((List.range 12).foldl (cellTakes item) s))

/-- A survey start clears the survey cells and the matrices and sets the bank COUNTING (R95). -/
def clearSurveyCounts (s : State) : State :=
  { s with tlb := { s.tlb with
      survey := SurveyCells.zero
      dip := Matrix.zero 24
      swell := Matrix.zero 18
      pair := Matrix.zero 2
      frozen := false } }

/-! ## Commands (R84 to R87, R94) -/

/-- TLF (R84). -/
def runTlf (fields : List Text) (s : State) : State :=
  if fields ≠ [] then answer .syn [] s
  else answer .ok [bankText true] { s with tlb := { s.tlb with frozen := true } }

/-- TLU (R84). -/
def runTlu (fields : List Text) (s : State) : State :=
  if fields ≠ [] then answer .syn [] s
  else answer .ok [bankText false] { s with tlb := { s.tlb with frozen := false } }

/-- ON, OFF. -/
def readEnabled (t : Text) : Option Bool :=
  if t = "ON".toList then some true else if t = "OFF".toList then some false else none

/-- The source keyword. -/
def readSource (t : Text) : Option CellSource :=
  [CellSource.half, .win, .int, .frq, .evt].find? (fun x => x.text == t)

/-- The kind, empty where the source is not EVT (R85). -/
def readKind (source : CellSource) (t : Text) : Option (Option EventKind) :=
  if source = .evt then ([EventKind.dip, .swell, .interruption].find? (fun k => cellKindText k == t)).map some
  else if t = [] then some none else none

/-- A selector's keyword. -/
def Selector.text : Selector → Text
  | .one p => phaseText p
  | .any => "ANY".toList
  | .all => "ALL".toList

/-- The selector, empty for FRQ and EVT (R85). -/
def readSelector (source : CellSource) (t : Text) : Option (Option Selector) :=
  if source = .frq ∨ source = .evt then (if t = [] then some none else none)
  else ([Selector.one .l1, .one .l2, .one .l3, .any, .all].find? (fun x => x.text == t)).map some

/-- ABOVE, BELOW. -/
def Comparison.text : Comparison → Text
  | .above => "ABOVE".toList
  | .below => "BELOW".toList

/-- LEVEL, EDGE. -/
def CellMode.text : CellMode → Text
  | .level => "LEVEL".toList
  | .edge => "EDGE".toList

/-- ALL, VALID_ONLY. -/
def FlagPolicy.text : FlagPolicy → Text
  | .all => "ALL".toList
  | .validOnly => "VALID_ONLY".toList

/-- The cell number and configuration of TLC's fields, none where one has not its form (R85). -/
def readTlcFields (fields : List Text) : Option (Nat × CellConfig) :=
  match fields with
  | [cell, enabled, source, kind, selector, comparison, threshold, mode, policy, mark] => do
    let i ← readNat cell
    let e ← readEnabled enabled
    let src ← readSource source
    let k ← readKind src kind
    let sel ← readSelector src selector
    let c ← [Comparison.above, .below].find? (fun x => x.text == comparison)
    let th ← readNat threshold
    let m ← [CellMode.level, .edge].find? (fun x => x.text == mode)
    let p ← [FlagPolicy.all, .validOnly].find? (fun x => x.text == policy)
    let mk ← readNat mark
    pure (i, ⟨e, src, k, sel, c, th, m, p, mk⟩)
  | _ => none

/-- The values of a TLC lie in their ranges (R78, R85). -/
def CellConfig.inRange (c : CellConfig) (w : Wiring) : Bool :=
  c.threshold ≤ (if c.source = .frq then 70000 else 20000) && c.mark ≤ cellMax &&
    (match c.selector with
      | some (.one p) => wired w p
      | _ => true)

/-- A cell as an accepted TLC leaves it (R85). -/
def GeneralCell.configured (c : CellConfig) : GeneralCell := ⟨c, 0, false, false, false, false⟩

/-- TLC (R85). -/
def runTlc (fields : List Text) (s : State) : State :=
  match readTlcFields fields with
  | none => answer .syn [] s
  | some (i, c) =>
    if i ≤ 11 ∧ c.inRange s.svc.active.wiring then answer .ok [] (putCell i (GeneralCell.configured c) s)
    else answer .rng [] s

/-- The reply fields of TLR for a general cell (R86). The predecessor result is written 1 for met, 0 for not met (log
entry 23). -/
def GeneralCell.fields (g : GeneralCell) (frozen : Bool) : List Text :=
  [bankText frozen, if g.config.enabled then "ON".toList else "OFF".toList, g.config.source.text,
    optText cellKindText g.config.kind, optText Selector.text g.config.selector, g.config.comparison.text,
    num g.config.threshold, g.config.mode.text, g.config.policy.text, num g.config.mark, num g.count,
    bitText g.saturated, bitText g.gap, bitText g.markReached, bitText g.predecessor]

/-- The counts S0..S5 in order. -/
def SurveyCells.list (c : SurveyCells) : List Nat := [c.s0, c.s1, c.s2, c.s3, c.s4, c.s5]

/-- A cell as TLR and TLX name it (R86, R87). -/
inductive CellName where
  | general (i : Nat)
  | survey (i : Nat)
  deriving DecidableEq, Repr

/-- A decimal number, or the letter S followed by one (R86, R87). -/
def readCellName (t : Text) : Option CellName :=
  match readNat t with
  | some n => some (.general n)
  | none => (readSurveyCell t).map .survey

/-- TLR (R86). -/
def runTlr (fields : List Text) (s : State) : State :=
  match fields with
  | [t] =>
    match readCellName t with
    | some (.general i) => if i ≤ 11 then answer .ok ((cellAt s.tlb i).fields s.tlb.frozen) s else answer .rng [] s
    | some (.survey i) =>
      if i ≤ 5 then answer .ok [s.svc.survey.state.text, num ((s.tlb.survey.list[i]?).getD 0)] s else answer .rng [] s
    | none => answer .syn [] s
  | _ => answer .syn [] s

/-- A cell as TLX leaves it (R87). -/
def GeneralCell.cleared (g : GeneralCell) : GeneralCell :=
  { g with count := 0, saturated := false, gap := false, markReached := false }

/-- TLX (R87). -/
def runTlx (fields : List Text) (s : State) : State :=
  match fields with
  | [t] =>
    if t = "ALL".toList then
      answer .ok [] { s with tlb := { s.tlb with cells := s.tlb.cells.map GeneralCell.cleared } }
    else match readCellName t with
      | some (.general i) =>
        if i ≤ 11 then answer .ok [] (putCell i (cellAt s.tlb i).cleared s) else answer .rng [] s
      | some (.survey _) => answer .rng [] s
      | none => answer .syn [] s
  | _ => answer .syn [] s

/-- The counts and marks of a matrix as reply fields (R94). -/
def Matrix.fields (m : Matrix) : List Text := m.counts.map num ++ [bitText m.gap, bitText m.saturated]

/-- TLM (R94). -/
def runTlm (fields : List Text) (s : State) : State :=
  match fields with
  | [t] =>
    if t = "DIP".toList then answer .ok ([bankText s.tlb.frozen, num s.svc.active.tdip] ++ s.tlb.dip.fields) s
    else if t = "SWELL".toList then answer .ok ([bankText s.tlb.frozen, num s.svc.active.tswell] ++ s.tlb.swell.fields) s
    else if t = "INT".toList then answer .ok (bankText s.tlb.frozen :: s.tlb.pair.fields) s
    else answer .syn [] s
  | _ => answer .syn [] s

end Sys2Proof.Machine
end

