-- ==== Sys2Proof/Machine/Survey.lean ====
section
/-! DEFINITION. Settings, their application, the survey and its verdict, and the commands SET, GET, SVS, SVA, SVR, SVQ and
SVV (chapter Settings, Measurement Control and Surveys). -/

namespace Sys2Proof.Machine

/-! ## SET and GET (R98 to R101) -/

/-- The survey holds its locked settings (R98). -/
def surveyLocks (s : State) : Bool := s.svc.survey.state == .armed || s.svc.survey.state == .running

/-- The resulting set that R98 checks. -/
def resultingSet (v : Svc) (values : List (Setting × Int)) : Settings :=
  if v.measuring then (v.active.write v.staged).write values else v.active.write values

/-- The value given to a name in a list of values. -/
def valueGiven (values : List (Setting × Int)) (n : Setting) : Option Int := (values.find? (fun nv => nv.1 == n)).map Prod.snd

/-- The staged set with a SET's values entered, in the order of R97 (R100). -/
def stageValues (staged values : List (Setting × Int)) : List (Setting × Int) :=
  allSettings.filterMap (fun n =>
    match valueGiven values n with
    | some v => some (n, v)
    | none => (valueGiven staged n).map (fun v => (n, v)))

/-- Values become active, and with them a new generation (R99, R103). The tracker is told of an FN other than the one active
before, which acts at the next boundary (R14, log entry 27). -/
def activate (values : List (Setting × Int)) (s : State) : State :=
  let set := s.svc.active.write values
  { s with
    svc := { s.svc with active := set, generation := s.svc.generation + 1 }
    cyt := { s.cyt with fnChanged := s.cyt.fnChanged || set.fn != s.svc.active.fn } }

/-- A SET that applies at once (R99). -/
def applyAtOnce (values : List (Setting × Int)) (s : State) : State :=
  let written := activate values s
  answer .ok [num written.svc.generation.toNat, "APPLIED".toList] (offerSettings .appliedAtOnce written)

/-- A SET that is staged (R100). -/
def stage (values : List (Setting × Int)) (s : State) : State :=
  answer .ok [num s.svc.generation.toNat, "STAGED".toList]
    { s with svc := { s.svc with staged := stageValues s.svc.staged values } }

/-- SET (R98). -/
def runSet (fields : List Text) (s : State) : State :=
  match readAssignments fields with
  | none => answer .syn [] s
  | some values =>
    if surveyLocks s && values.any (fun nv => nv.1.locked) then answer .lck [] s
    else if !(values.all (fun nv => nv.1.inRange nv.2) && hardBandContains (resultingSet s.svc values)) then answer .rng [] s
    else if s.svc.measuring then stage values s
    else applyAtOnce values s

/-- The names of GET's fields, none where one is unknown or stands twice (R101). -/
def readNames (fields : List Text) : Option (List Setting) :=
  match fields.mapM settingOf with
  | some names => if names.Nodup then some names else none
  | none => none

/-- GET (R101). The staged set is a list of varying length, counted (R201); the settings named stand one for each name given,
without a count (log entry 23). -/
def runGet (fields : List Text) (s : State) : State :=
  let generation := num s.svc.generation.toNat
  if fields = ["STAGED".toList] then
    answer .ok (generation :: (if s.svc.staged = [] then ["NONE".toList]
      else countedList (s.svc.staged.map (fun nv => nv.1.assignment nv.2)))) s
  else match readNames fields with
    | none => answer .syn [] s
    | some names =>
      answer .ok (generation :: bitText (s.svc.staged != []) ::
        (if names = [] then allSettings else names).map (fun n => n.assignment (s.svc.active.get n))) s

/-! ## The verdict (R111 to R113) -/

/-- A share test: so many of a count against a required share, INCONCLUSIVE without any (R111), with its reported share
(R112). -/
def shareTest (part count required : Nat) : TestResult :=
  if count = 0 then ⟨.inconclusive, none⟩
  else ⟨if required * count ≤ part * 10000 then .pass else .fail, some (part * 10000 / count)⟩

/-- The coverage test (R111, R112). -/
def coverageTest (valid expected required : Nat) : TestResult :=
  ⟨if required * expected ≤ valid * 10000 then .pass else .fail, some (valid * 10000 / expected)⟩

/-- The four tests on the survey cells (R111), with the store's drop count and the generations applied. -/
def verdictBody (c : SurveyCells) (set : Settings) (days dropped generations : Nat) : VerdictBody :=
  ⟨c, coverageTest c.s1 (days * 144) set.cover, shareTest c.s2 c.s1 set.share, shareTest c.s3 c.s1 set.hardshare,
    shareTest c.s5 c.s4 set.fshare, dropped, generations⟩

/-- The tests of a verdict, coverage first. -/
def VerdictBody.tests (b : VerdictBody) : List TestOutcome :=
  [b.coverage.outcome, b.magnitude.outcome, b.hardBand.outcome, b.frequency.outcome]

/-- The overall outcome of a completed survey (R112). -/
def VerdictBody.overall (b : VerdictBody) : TestOutcome :=
  if b.coverage.outcome = .fail ∨ b.tests.contains .inconclusive ∨ b.dropped ≠ 0 then .inconclusive
  else if b.tests.contains .fail then .fail
  else .pass

/-- The verdict of a survey context; a body unless its cause is COLD, and INCONCLUSIVE unless its cause is COMPLETE
(R112, R113, R114, R120). A COLD verdict's context holds no start-record-dropped mark, which is written clear (log entry
36). -/
def formVerdict (cause : VerdictCause) (s : State) : Verdict :=
  let c := s.svc.survey
  let days := c.days.getD 0
  let body := verdictBody s.tlb.survey s.svc.active days s.evs.surveyDrops (c.generationsApplied.getD 0)
  { surveyId := c.id.getD 0
    cause := cause
    overall := if cause = .complete then body.overall else .inconclusive
    startMark := c.startMark.getD 0
    endMark := c.endMark.getD 0
    days := days
    expectedIntervals := days * 144
    expectedFrequencies := days * 8640
    body := if cause = .cold then none else some body
    share := s.svc.active.share
    hardshare := s.svc.active.hardshare
    fshare := s.svc.active.fshare
    cover := s.svc.active.cover
    startDropped := c.startDropped.getD false
    sequence := offeredSequence s }

/-- Form a verdict, queue its record, set the survey state and post SVN (R110, R114, R120). -/
def concludeSurvey (cause : VerdictCause) (after : SurveyState) (s : State) : State :=
  let v := formVerdict cause s
  let queued := offer .vdt v.payload s
  postNotice .svn [num v.surveyId, v.cause.text, v.overall.text, optText num v.sequence]
    { queued with svc := { queued.svc with
        survey := { queued.svc.survey with state := after }
        verdict := some v } }

/-! ## Closures (R102, R103, R108, R109) -/

/-- Why an interval closed (R64). -/
inductive ClosureCause where
  | endMark
  | timeStep
  | resume
  | halt
  deriving DecidableEq, Repr

/-- The closure that IVA delivers (R64), with the start mark of the interval it opens (R108), none at a halt. -/
structure Closure where
  startMark : Nat
  endMark : Nat
  time : Time
  valid : Bool
  member : Bool
  cause : ClosureCause
  firstSkipped : Nat
  skipped : Nat
  opened : Option Nat
  deriving DecidableEq, Repr

/-- The event detector marks an open record SETTINGS_CHANGED (R44). -/
def Context.withSettingsChanged (c : Context) : Context := { c with marks := { c.marks with settingsChanged := true } }

/-- Every open record is marked SETTINGS_CHANGED (R44). -/
def markSettingsChanged (s : State) : State :=
  { s with evd := { s.evd with
      dip := s.evd.dip.map Context.withSettingsChanged
      swell := s.evd.swell.map Context.withSettingsChanged
      interruption := s.evd.interruption.map Context.withSettingsChanged } }

/-- The application of the staged set (R103). -/
def applyStaged (s : State) : State :=
  if s.svc.staged = [] then s
  else
    let survey := if s.svc.survey.state = .running then
        { s.svc.survey with generationsApplied := s.svc.survey.generationsApplied.map (fun n => saturate max16 (n + 1)) }
      else s.svc.survey
    let written := activate s.svc.staged s
    markSettingsChanged (offerSettings .appliedAtClosure
      { written with svc := { written.svc with staged := [], survey := survey } })

/-- The start test of an ARMED survey against the start mark of the interval opened (R108). -/
def startsAt (c : SurveyContext) (opened : Nat) : Bool :=
  match c.armedMark, c.days with
  | some armed, some days => armed ≤ opened && opened + days * 86400 ≤ lastMark
  | _, _ => false

/-- The start of a survey at a mark (R108). -/
def startSurvey (mark : Nat) (s : State) : State :=
  let c := s.svc.survey
  let days := c.days.getD 0
  let stop := mark + days * 86400
  let cleared := clearSurveyCounts s
  let counted := { cleared with evs := { cleared.evs with surveyDrops := 0 } }
  let id := nextSequence counted.evs
  let dropped := !recordTaken counted
  let queued := offer .svy (surveyStartPayload (c.requestedStart.getD 0) (c.armedMark.getD 0) days mark stop) counted
  { queued with
    svc := { queued.svc with survey := { c with
        state := .running
        startMark := some mark
        endMark := some stop
        id := some id
        protectionStart := some id
        startDropped := some dropped
        generationsApplied := some 0 } }
    evs := { queued.evs with protectionStart := some id } }

/-- The skipped marks of a closure that lie in the survey (R109). -/
def skippedInSurvey (c : SurveyContext) (k : Closure) : Nat :=
  ((List.range k.skipped).filter (fun i => c.contains (k.firstSkipped + 600 * i))).length

/-- The completion test (R109). -/
def completesAt (c : SurveyContext) (time : Time) : Bool := c.endMark.any (fun stop => stop ≤ time.seconds)

/-- The survey advances at a closure, by its state (R102). -/
def advanceSurvey (k : Closure) (s : State) : State :=
  match s.svc.survey.state with
  | .armed =>
    match k.opened with
    | some mark => if startsAt s.svc.survey mark then startSurvey mark s else s
    | none => s
  | .running =>
    let counted := countSkipped (skippedInSurvey s.svc.survey k) s
    if completesAt s.svc.survey k.time then concludeSurvey .complete .complete counted else counted
  | .idle => s
  | .complete => s
  | .aborted => s

/-- The settings unit and the survey controller take a closure (R102). -/
def takeClosure (k : Closure) (s : State) : State := advanceSurvey k (applyStaged s)

/-! ## Survey commands (R107, R114 to R117) -/

/-- The start of an SVS: NOW or a second (R107). -/
inductive RequestedStart where
  | now
  | second (n : Nat)
  deriving DecidableEq, Repr

/-- The fields of SVS (R107). A start or days with a leading '-' is no decimal number (log entry 40). -/
def readSvsFields (fields : List Text) : Option (RequestedStart × Nat) :=
  match fields with
  | [start, days] =>
    (readNat days).bind (fun d =>
      if start = "NOW".toList then some (.now, d) else (readNat start).map (fun n => (.second n, d)))
  | _ => none

/-- The requested start in RTC seconds (R107). -/
def RequestedStart.seconds (r : RequestedStart) (s : State) : Nat :=
  match r with
  | .now => (reading s).seconds
  | .second n => n

/-- NOW takes a reading. -/
def RequestedStart.taken (r : RequestedStart) (s : State) : State :=
  match r with
  | .now => takeReading s
  | .second _ => s

/-- SVS in a state that does not allow it (R107). -/
def svsForbidden (s : State) : Bool :=
  s.svc.survey.state != .idle || !s.svc.measuring || s.tmb.quality == .unset || s.svc.staged.any (fun nv => nv.1.locked)

/-- An accepted SVS (R107). -/
def armSurvey (start : RequestedStart) (days : Nat) (s : State) : State :=
  let requested := start.seconds s
  let armed := markAtOrAfter requested
  let taken := start.taken s
  answer .ok [num requested, num armed, num days]
    { taken with svc := { taken.svc with survey := { taken.svc.survey with
        state := .armed
        requestedStart := some requested
        armedMark := some armed
        days := some days } } }

/-- SVS (R107). -/
def runSvs (fields : List Text) (s : State) : State :=
  match readSvsFields fields with
  | none => answer .syn [] s
  | some (start, days) =>
    let requested := start.seconds s
    if max32 < requested ∨ days < 1 ∨ 35 < days ∨ lastMark < markAtOrAfter requested + days * 86400 then answer .rng [] s
    else if svsForbidden s then answer .stt [] s
    else armSurvey start days s

/-- SVA (R114). -/
def runSva (fields : List Text) (s : State) : State :=
  if fields ≠ [] then answer .syn [] s
  else match s.svc.survey.state with
    | .armed => answer .ok [] { s with svc := { s.svc with survey := SurveyContext.idle } }
    | .running => answer .ok [] (concludeSurvey .host .aborted s)
    | .idle => answer .stt [] s
    | .complete => answer .stt [] s
    | .aborted => answer .stt [] s

/-- The release of a survey (R115). -/
def releaseSurvey (s : State) : State :=
  let cleared := clearProtection (offer .svy (surveyReleasePayload (s.svc.survey.id.getD 0)) s)
  answer .ok [] { cleared with svc := { cleared.svc with survey := SurveyContext.idle } }

/-- SVR (R115). -/
def runSvr (fields : List Text) (s : State) : State :=
  if fields ≠ [] then answer .syn [] s
  else match s.svc.survey.state with
    | .complete => releaseSurvey s
    | .aborted => releaseSurvey s
    | .idle => answer .stt [] s
    | .armed => answer .stt [] s
    | .running => answer .stt [] s

/-- The reply fields of SVQ (R116). -/
def svqFields (s : State) : List Text :=
  let c := s.svc.survey
  [c.state.text, optText num c.requestedStart, optText num c.armedMark, optText num c.days, optText num c.startMark,
    optText num c.endMark, optText num c.id, optText num c.protectionStart, optText bitText c.startDropped,
    optText num c.generationsApplied, num s.evs.surveyDrops]
    ++ s.tlb.survey.list.map num
    ++ [optText (fun d => num (d * 144)) c.days, optText (fun d => num (d * 8640)) c.days]

/-- SVQ (R116). -/
def runSvq (fields : List Text) (s : State) : State :=
  if fields ≠ [] then answer .syn [] s else answer .ok (svqFields s) s

/-- The four tests of a verdict, outcome and share in turn (R113). -/
def testFields (b : VerdictBody) : List Text :=
  [b.coverage, b.magnitude, b.hardBand, b.frequency].flatMap (fun r => [r.outcome.text, optText num r.share])

/-- The reply fields of SVV (R113, R117), every one absent where there is no verdict. -/
def svvFields (verdict : Option Verdict) : List Text :=
  match verdict with
  | none => List.replicate 30 absentText
  | some v =>
    [num v.surveyId, v.cause.text, v.overall.text, num v.startMark, num v.endMark, num v.days]
      ++ (match v.body with
        | some b => b.counts.list.map num
        | none => List.replicate 6 absentText)
      ++ [num v.expectedIntervals, num v.expectedFrequencies]
      ++ (match v.body with
        | some b => testFields b
        | none => List.replicate 8 absentText)
      ++ [num v.share, num v.hardshare, num v.fshare, num v.cover,
        optText (fun b : VerdictBody => num b.dropped) v.body,
        optText (fun b : VerdictBody => num b.generationsApplied) v.body, bitText v.startDropped, optText num v.sequence]

/-- SVV (R117). -/
def runSvv (fields : List Text) (s : State) : State :=
  if fields ≠ [] then answer .syn [] s else answer .ok (svvFields s.svc.verdict) s

end Sys2Proof.Machine
end

