-- ==== Sys2Proof/Machine/Events.lean ====
section
/-! DEFINITION. The event detector: per-phase states, opening, progress and closing of records, chains, and the command
EVL (chapter Voltage Events). -/

namespace Sys2Proof.Machine

/-! ## Per-phase states (R26 to R28) -/

/-- The excursion state after a value (R26). -/
def Excursion.after (x : Excursion) (set : Settings) (v : Nat) : Excursion :=
  match x with
  | .normal => if v < set.tdip then .low else if set.tswell < v then .high else .normal
  | .low => if set.tdip + set.hyst ≤ v then .normal else .low
  | .high => if v + set.hyst ≤ set.tswell then .normal else .high

/-- The per-phase state after a value: the excursion state, then the flag (R26, R27). -/
def PhaseState.after (x : PhaseState) (set : Settings) (v : Nat) : PhaseState :=
  let excursion := x.excursion.after set v
  ⟨excursion, if v < set.tint && excursion == .low then true else if set.tint + set.hyst ≤ v then false else x.interrupted⟩

/-- Step 1 of R25: every wired phase of the report; a phase newly wired begins NORMAL and a phase no longer wired is
discarded (R28). -/
def phasesAfter (phases : PerPhase (Option PhaseState)) (set : Settings) (r : Report) : PerPhase (Option PhaseState) :=
  PerPhase.build (fun p => (r.values.get p).map (fun v => ((phases.get p).getD PhaseState.initial).after set v.value))

/-- A phase takes part in a record of a kind (R30). -/
def PhaseState.takesPart (x : PhaseState) : EventKind → Bool
  | .dip => x.excursion == .low
  | .swell => x.excursion == .high
  | .interruption => x.interrupted

/-- The phases that take part, in increasing order (R30). -/
def takingPart (phases : PerPhase (Option PhaseState)) (kind : EventKind) : List Phase :=
  allPhases.filter (fun p => (phases.get p).any (fun x => x.takesPart kind))

/-- The event condition of a kind (R29). -/
def conditionHolds (phases : PerPhase (Option PhaseState)) (kind : EventKind) : Bool :=
  match kind with
  | .dip => takingPart phases .dip != []
  | .swell => takingPart phases .swell != []
  | .interruption => presentValues phases != [] && (presentValues phases).all PhaseState.interrupted

/-! ## Contexts -/

/-- The open record of a kind. -/
def Evd.context (e : Evd) : EventKind → Option Context
  | .dip => e.dip
  | .swell => e.swell
  | .interruption => e.interruption

/-- Put or discard the record of a kind. -/
def Evd.setContext (e : Evd) (kind : EventKind) (c : Option Context) : Evd :=
  match kind with
  | .dip => { e with dip := c }
  | .swell => { e with swell := c }
  | .interruption => { e with interruption := c }

/-- Put or discard the record of a kind in the state. -/
def setContext (kind : EventKind) (c : Option Context) (s : State) : State := { s with evd := s.evd.setContext kind c }

/-- The records open, in the order DIP, SWELL, INTERRUPTION. -/
def Evd.openContexts (e : Evd) : List Context := [EventKind.dip, .swell, .interruption].filterMap e.context

/-- All marks clear. -/
def EventMarks.none : EventMarks := ⟨false, false, false, false, false⟩

/-- The marks of a report entered into a record's marks (R36). -/
def EventMarks.withReport (m : EventMarks) (r : Report) : EventMarks :=
  { m with
    clipped := m.clipped || (presentValues r.values).any PhaseValue.clipped
    synthetic := m.synthetic || r.synthetic }

/-- The duration of a record (R33). -/
def Context.duration (c : Context) : Nat := durationMs c.elapsed

/-- The chain duration with the closing record (R42). -/
def Context.chainTotal (c : Context) : Nat := saturate max32 (c.chainDuration + c.duration)

/-- A value replaces an extreme only if it is strictly lower, or for a SWELL strictly higher (R34). -/
def beyond (kind : EventKind) (v held : Nat) : Bool :=
  match kind with
  | .swell => held < v
  | .dip => v < held
  | .interruption => v < held

/-- An extreme updated by one value (R34). -/
def updateExtreme (kind : EventKind) (x : Option Extreme) (p : Phase) (v : Nat) : Option Extreme :=
  match x with
  | none => some ⟨v, p⟩
  | some e => if beyond kind v e.value then some ⟨v, p⟩ else some e

/-- The ticks of an entry, a running period counted up to an elapsed count (R35). -/
def PhaseEntry.total (e : PhaseEntry) (elapsed : Nat) : Nat := e.ticks + (if e.out then elapsed - e.began else 0)

/-- An entry whose running period ends at an elapsed count (R35). -/
def PhaseEntry.ended (e : PhaseEntry) (elapsed : Nat) : PhaseEntry :=
  { e with ticks := e.total elapsed, out := false }

/-- An entry at a report in which its phase takes part with a value (R34, R35). -/
def PhaseEntry.entered (e : PhaseEntry) (kind : EventKind) (v elapsed : Nat) : PhaseEntry :=
  { e with
    extreme := if beyond kind v e.extreme then v else e.extreme
    began := if e.out then e.began else elapsed
    out := true }

/-- A phase that takes part for the first time (R35). -/
def PhaseEntry.first (p : Phase) (v elapsed : Nat) : PhaseEntry := ⟨p, durationMs elapsed, v, 0, true, elapsed⟩

/-- The phase list at a report, for a phase that takes part (R35). -/
def enterPhase (kind : EventKind) (elapsed : Nat) (entries : List PhaseEntry) (p : Phase) (v : Nat) : List PhaseEntry :=
  if entries.any (fun e => e.phase == p) then
    entries.map (fun e => if e.phase = p then e.entered kind v elapsed else e)
  else entries ++ [PhaseEntry.first p v elapsed]

/-- The phase list at a report, for a phase that does not take part (R35). -/
def leavePhase (elapsed : Nat) (entries : List PhaseEntry) (p : Phase) : List PhaseEntry :=
  entries.map (fun e => if e.phase = p ∧ e.out then e.ended elapsed else e)

/-- A record's extremes and phase list for one phase of a report (R34, R35). -/
def Context.progressPhase (phases : PerPhase (Option PhaseState)) (r : Report) (c : Context) (p : Phase) : Context :=
  match r.values.get p with
  | none => c
  | some v =>
    if (phases.get p).any (fun x => x.takesPart c.kind) then
      { c with
        extreme := updateExtreme c.kind c.extreme p v.value
        chainExtreme := updateExtreme c.kind c.chainExtreme p v.value
        phases := enterPhase c.kind c.elapsed c.phases p v.value }
    else { c with phases := leavePhase c.elapsed c.phases p }

/-- Step 3 of R25 for one record (R34 to R36). -/
def Context.progress (c : Context) (phases : PerPhase (Option PhaseState)) (r : Report) : Context :=
  let c := allPhases.foldl (Context.progressPhase phases r) c
  { c with marks := c.marks.withReport r }

/-- The periods of phases no longer wired end at the last boundary processed before the change (R35). -/
def Context.dropUnwired (c : Context) (r : Report) : Context :=
  { c with phases := c.phases.map (fun e => if (r.values.get e.phase).isNone ∧ e.out then e.ended c.elapsed else e) }

/-- A record open before a report: unwired phases end, the elapsed count goes on, and after a warm resume the mark
RESUMED is set (R33, R35, R49). -/
def Context.advance (c : Context) (r : Report) (ticks : Nat) (resumed : Bool) : Context :=
  let c := c.dropUnwired r
  { c with elapsed := c.elapsed + ticks, marks := { c.marks with resumed := c.marks.resumed || resumed } }

/-! ## Closing (R37 to R40, R43) -/

/-- Where and when a record closes. -/
structure CloseAt where
  cause : CloseCause
  time : Time
  deriving DecidableEq, Repr

/-- A close that keeps the still-out marks: LIMIT and STOP (R35). -/
def CloseCause.keepsStillOut : CloseCause → Bool
  | .limit => true
  | .stop => true
  | .ended => false
  | .resume => false

/-- The event record of a close (R39). -/
def Context.record (c : Context) (k : CloseAt) : EventRecord where
  kind := c.kind
  number := c.number
  continuesFrom := c.continuesFrom
  cause := k.cause
  startTime := c.startTime
  endTime := k.time
  duration := c.duration
  extreme := c.extreme
  entries := c.phases.map (fun e =>
    ⟨e.phase, e.offset, e.extreme, durationMs (e.total c.elapsed), k.cause.keepsStillOut && e.out⟩)
  containedCount := if c.kind = .dip then c.containedCount else 0
  firstContained := if c.kind = .dip then c.firstContained else none
  chain := if c.continuesFrom.isSome then some ⟨c.chainStart, c.chainTotal, c.chainExtreme⟩ else none
  marks := c.marks

/-- The chain classification of a final close (R43). -/
def Context.classification (c : Context) (cause : CloseCause) : ChainClassification :=
  ⟨c.kind, c.number, cause, c.chainStart, c.chainTotal, c.chainExtreme.getD ⟨0, .l1⟩, c.chainContained⟩

/-- An extreme and its phase as two fields. -/
def extremeFields (x : Option Extreme) : List Text :=
  [optText (fun e : Extreme => num e.value) x, optText (fun e : Extreme => phaseText e.phase) x]

/-- The EVC notice (R51). -/
def postClose (c : Context) (k : CloseAt) (sequence : Option Nat) (s : State) : State :=
  postNotice .evc ([c.kind.text, num c.number.toNat, k.cause.text, timeText k.time, num c.duration]
    ++ extremeFields c.extreme ++ [optText num sequence]) s

/-- A close, whatever its cause (R37): the record, the notice, the classification of a final close, and the context
discarded. -/
def closeRecord (c : Context) (k : CloseAt) (s : State) : State :=
  let posted := postClose c k (offeredSequence s) (offer .evt (c.record k).payload s)
  let classified := if k.cause = .limit then posted else handItem (.evt (c.classification k.cause)) posted
  setContext c.kind none classified

/-- Step 2 of R25, closing: the record of a kind whose condition no longer holds (R29, R38, R49). -/
def closeEnded (phases : PerPhase (Option PhaseState)) (r : Report) (cause : CloseCause) (s : State) (kind : EventKind) :
    State :=
  match s.evd.context kind with
  | some c =>
    if conditionHolds phases kind then s
    else
      let left := { c with phases := c.phases.map (fun e => e.ended c.elapsed), marks := c.marks.withReport r }
      closeRecord left ⟨cause, r.time⟩ s
  | none => s

/-! ## Opening (R31, R32, R41) -/

/-- The EVO notice (R51). -/
def postOpen (c : Context) (phases : PerPhase (Option PhaseState)) (s : State) : State :=
  postNotice .evo [c.kind.text, num c.number.toNat, optText (fun n : BitVec 32 => num n.toNat) c.continuesFrom,
    timeText c.startTime, phaseSetText (takingPart phases c.kind)] s

/-- Issue the next event number (R46). -/
def issueNumber (s : State) : State := { s with evd := { s.evd with counter := s.evd.counter + 1 } }

/-- The first record of a chain as it opens (R31). -/
def Context.opening (kind : EventKind) (number : BitVec 32) (r : Report) : Context where
  kind := kind
  number := number
  continuesFrom := none
  startTime := r.time
  startTick := r.tick
  elapsed := 0
  extreme := none
  phases := []
  containedCount := 0
  firstContained := none
  chainStart := r.time
  chainDuration := 0
  chainExtreme := none
  chainContained := 0
  marks := EventMarks.none

/-- The open dip counts an interruption chain (R32). -/
def Context.containing (c : Context) (number : BitVec 32) : Context :=
  { c with
    containedCount := saturate 255 (c.containedCount + 1)
    firstContained := if c.containedCount = 0 then some number else c.firstContained
    chainContained := saturate 255 (c.chainContained + 1) }

/-- The first record of a chain opens (R31, R32). -/
def openRecord (kind : EventKind) (phases : PerPhase (Option PhaseState)) (r : Report) (s : State) : State :=
  let issued := issueNumber s
  let c := Context.opening kind issued.evd.counter r
  let placed := setContext kind (some c) issued
  let counted := if kind = .interruption then
      { placed with evd := { placed.evd with dip := placed.evd.dip.map (fun d => d.containing c.number) } }
    else placed
  postOpen c phases counted

/-- Step 2 of R25, opening: a kind whose condition holds and that has no open record (R29). -/
def openHolding (phases : PerPhase (Option PhaseState)) (r : Report) (s : State) (kind : EventKind) : State :=
  match s.evd.context kind with
  | some _ => s
  | none => if conditionHolds phases kind then openRecord kind phases r s else s

/-- The continuation of a record closed by LIMIT (R41, R42). -/
def Context.continuation (c : Context) (number : BitVec 32) (phases : PerPhase (Option PhaseState)) (r : Report)
    (contained : Option (BitVec 32)) : Context :=
  let fresh := { Context.opening c.kind number r with
    continuesFrom := some c.number
    containedCount := if contained.isSome then 1 else 0
    firstContained := contained
    chainStart := c.chainStart
    chainDuration := c.chainTotal
    chainExtreme := c.chainExtreme
    chainContained := c.chainContained }
  fresh.progress phases r

/-- Step 4 of R25 for one kind: a record that has reached Lmax closes with LIMIT and is continued (R41). -/
def limitRecord (phases : PerPhase (Option PhaseState)) (r : Report) (s : State) (kind : EventKind) : State :=
  match s.evd.context kind with
  | some c =>
    if s.svc.active.lmax * 32768 ≤ c.elapsed then
      let issued := issueNumber (closeRecord c ⟨.limit, r.time⟩ s)
      let contained := if kind = .dip then issued.evd.interruption.map Context.number else none
      let next := c.continuation issued.evd.counter phases r contained
      postOpen next phases (setContext kind (some next) issued)
    else s
  | none => s

/-! ## A report (R25, R47, R49) -/

/-- What EVD tells IVA of a report (R47). -/
structure Indications where
  anyOpen : Bool
  closes : Nat
  deriving DecidableEq, Repr

/-- The number of records open. -/
def Evd.openCount (e : Evd) : Nat := e.openContexts.length

/-- The ticks that a report adds to the records open before it: from the last boundary processed, or, at the first
report after a warm resume, the span that SPM hands over (R33, R174). -/
def reportTicks (e : Evd) (r : Report) (span : Nat) : Nat :=
  if e.resumed then span
  else match e.lastBoundary with
    | some b => tickSpan b.tick r.tick
    | none => 0

/-- The records open before a report go on to its boundary (R33, R49). -/
def Evd.advance (e : Evd) (r : Report) (ticks : Nat) : Evd :=
  { e with
    dip := e.dip.map (fun c => c.advance r ticks e.resumed)
    swell := e.swell.map (fun c => c.advance r ticks e.resumed)
    interruption := e.interruption.map (fun c => c.advance r ticks e.resumed) }

/-- Step 3 of R25. -/
def Evd.progress (e : Evd) (phases : PerPhase (Option PhaseState)) (r : Report) : Evd :=
  { e with
    dip := e.dip.map (fun c => c.progress phases r)
    swell := e.swell.map (fun c => c.progress phases r)
    interruption := e.interruption.map (fun c => c.progress phases r) }

/-- How many kinds have a record whose number is no longer that of an open record of the kind. -/
def recordsGone (before after : Evd) : Nat :=
  ([EventKind.dip, .swell, .interruption].filter (fun k =>
    match before.context k with
    | some c => (after.context k).map Context.number != some c.number
    | none => false)).length

/-- EVD processes a report (R25), with the dormancy span for a first report after a warm resume. -/
def processReport (r : Report) (span : Nat) (s : State) : State × Indications :=
  let before := s.evd
  let phases := phasesAfter s.evd.phases s.svc.active r
  let cause := if s.evd.resumed then CloseCause.resume else .ended
  let advanced := { s with evd := { s.evd.advance r (reportTicks s.evd r span) with phases := phases } }
  let closed := [EventKind.interruption, .dip, .swell].foldl (closeEnded phases r cause) advanced
  let opened := [EventKind.dip, .swell, .interruption].foldl (openHolding phases r) closed
  let progressed := { opened with evd := opened.evd.progress phases r }
  let limited := [EventKind.dip, .swell, .interruption].foldl (limitRecord phases r) progressed
  let noted := { limited with evd := { limited.evd with lastBoundary := some ⟨r.time, r.tick⟩, resumed := false } }
  (noted, ⟨before.openCount != 0 || progressed.evd.openCount != 0, recordsGone before noted.evd⟩)

/-! ## The halt (R40) and the start (R28) of measurement -/

/-- A record closed with STOP at the last boundary processed (R40). -/
def stopRecord (s : State) (kind : EventKind) : State :=
  match s.evd.context kind with
  | some c => closeRecord c ⟨.stop, (s.evd.lastBoundary.map ProcessedBoundary.time).getD c.startTime⟩ s
  | none => s

/-- The STOP closes of a halt (R40). DESIGN CHOICE: after a warm resume the mark RESUMED comes at the first report (R49), so a
halt before it closes the retained records without that mark (log entry 41). -/
def stopRecords (s : State) : State := [EventKind.interruption, .dip, .swell].foldl stopRecord s

/-- Every wired phase NORMAL with its flag clear (R28). -/
def normalPhases (w : Wiring) : PerPhase (Option PhaseState) :=
  PerPhase.build (fun p => if wired w p then some PhaseState.initial else none)

/-- EVD at MEA GO (R28). -/
def Evd.atStart (e : Evd) (w : Wiring) : Evd := { e with phases := normalPhases w, resumed := false }

/-! ## The listing (R48) and EVL (R52) -/

/-- The open records as the DORMANT power record lists them (R48). -/
def Evd.listing (e : Evd) : List ListedEvent :=
  e.openContexts.map (fun c => ⟨c.kind, c.number, c.startTime, c.duration, c.extreme⟩)

/-- A phase-list entry of EVL (R52). -/
def PhaseEntry.field (e : PhaseEntry) (elapsed : Nat) : Text :=
  compound [phaseText e.phase, num e.offset, num e.extreme, num (durationMs (e.total elapsed)), bitText e.out]

/-- The marks as EVL and RDR write them (R201). -/
def EventMarks.text (m : EventMarks) : Text :=
  markGroup [(m.clipped, "CLIPPED"), (m.synthetic, "SYNTHETIC"), (m.settingsChanged, "SETTINGS_CHANGED"),
    (m.timeStep, "TIME_STEP"), (m.resumed, "RESUMED")]

/-- The subfields of one open context in EVL (R52); the entry is one compound field (R201). The contained count and the first
contained number stand in the entry of a DIP alone (log entry 23). -/
def Context.fields (c : Context) : List Text :=
  [c.kind.text, num c.number.toNat, optText (fun n : BitVec 32 => num n.toNat) c.continuesFrom, timeText c.startTime,
    num c.duration]
    ++ extremeFields c.extreme ++ countedList (c.phases.map (fun e => e.field c.elapsed))
    ++ (if c.kind = .dip then
        [num c.containedCount, optText (fun n : BitVec 32 => num n.toNat) c.firstContained]
      else [])
    ++ [timeText c.chainStart, num c.chainTotal] ++ extremeFields c.chainExtreme ++ [c.marks.text]

/-- EVL (R52). -/
def runEvl (fields : List Text) (s : State) : State :=
  if fields ≠ [] then answer .syn [] s
  else answer .ok (countedList (s.evd.openContexts.map (fun c => compound c.fields))) s

end Sys2Proof.Machine
end

