-- ==== Sys2Proof/Machine/Intervals.lean ====
section
/-! DEFINITION. The interval aggregator: windows, intervals, frequency periods, and the commands MVW and MVF (chapter
Windows, Intervals and Frequency). -/

namespace Sys2Proof.Machine

/-- A completed cycle as CYT delivers it (R15). -/
structure Cycle where
  start : Tick
  stop : Tick
  samples : Nat
  deriving DecidableEq, Repr

/-! ## Frequency periods (R66 to R69) -/

/-- The end mark of a period (R66). -/
def Period.endMark (p : Period) : Nat := p.startMark + 10

/-- No reason for which a period is invalid. -/
def PeriodReasons.none : PeriodReasons := ⟨false, false, false, false, false, false⟩

/-- A reason holds, beside a cycle count of 0 (R68). -/
def PeriodReasons.any (r : PeriodReasons) : Bool :=
  r.synthetic || r.referenceChanged || r.timeStep || r.dormancy || r.incompletePeriod || r.halt

/-- The frequency value of an ended period (R67, R68). With no cycle placed it has no span either (log entry 35). -/
def Period.value (p : Period) (fn : NominalFrequency) : FrequencyValue :=
  let span := p.ticks.map (fun t => tickSpan t.1 t.2)
  let raw := if p.cycles = 0 then none else span.map (rawFrequency p.cycles)
  let clamped := raw.map (clampTo (frequencyRange fn))
  { startMark := p.startMark
    cycles := p.cycles
    span := span
    value := clamped
    valid := clamped.isSome && !p.reasons.any
    outOfRange := raw != clamped
    reasons := p.reasons }

/-- The interval takes a valid frequency value (R69). -/
def Interval.takeFrequency (i : Interval) (f : FrequencyValue) : Interval :=
  match f.value with
  | some v =>
    if f.valid then
      { i with
        frequencyCount := i.frequencyCount + 1
        frequencySum := i.frequencySum + v
        frequencyRange := extendRange i.frequencyRange v }
    else i
  | none => i

/-- The period in progress ends (R69): the latest value, the interval's accumulators, and the item to the bank. -/
def endPeriod (s : State) : State :=
  match s.iva.period with
  | some p =>
    let f := p.value s.svc.active.fn
    handItem (.frq f.startMark f.value f.valid f.outOfRange)
      { s with iva := { s.iva with
          period := none
          latestFrequency := some f
          interval := s.iva.interval.map (fun i => i.takeFrequency f) } }
  | none => s

/-- A period begins at a boundary (R66). -/
def beginPeriod (reasons : PeriodReasons) (r : Report) (s : State) : State :=
  { s with iva := { s.iva with period := some ⟨tenSecondMark r.time.seconds, 0, none, reasons⟩ } }

/-- A period takes a boundary: its marks, and the cycle that ends at it (R66, R68). -/
def Period.take (p : Period) (r : Report) (cycle : Option Cycle) : Period :=
  let marked := { p with reasons := { p.reasons with
      synthetic := p.reasons.synthetic || r.synthetic
      referenceChanged := p.reasons.referenceChanged || r.referenceChanged } }
  match cycle with
  | some c =>
    { marked with
      cycles := saturate max16 (p.cycles + 1)
      ticks := some (match p.ticks with
        | some t => (t.1, c.stop)
        | none => (c.start, c.stop)) }
  | none => marked

/-! ## Windows (R54 to R57) -/

/-- The full count of boundaries of a window (R54). -/
def fullWindow : NominalFrequency → Nat
  | .hz50 => 20
  | .hz60 => 24

/-- A window as it begins (R54). -/
def Window.begin (fn : NominalFrequency) : Window := ⟨fullWindow fn, 0, ⟨0, 0, 0⟩, 0, ⟨false, false, false, false⟩⟩

/-- A window takes a boundary: its half and its flag reasons (R55, R56). -/
def Window.take (w : Window) (r : Report) (anyOpen : Bool) : Window :=
  { w with
    count := w.count + 1
    sums := PerPhase.build (fun p => w.sums.get p + ((r.values.get p).map PhaseValue.halfSum).getD 0)
    samples := w.samples + r.count
    flags :=
      { event := w.flags.event || anyOpen
        synthetic := w.flags.synthetic || r.synthetic
        clipped := w.flags.clipped || (presentValues r.values).any PhaseValue.clipped
        oscillator := w.flags.oscillator || r.osc } }

/-- The value of one wired phase of a window, and whether the limit applied (R55). -/
def Window.phaseValue (w : Window) (set : Settings) (p : Phase) : Nat × Bool := rmsValue (w.sums.get p) w.samples (set.k.get p)

/-- The latest window that an ending window becomes (R55 to R57). -/
def Window.finish (w : Window) (set : Settings) (endTime : Time) (startMark : Nat) : LatestWindow where
  endTime := endTime
  count := w.count
  short := w.count < w.full
  samples := w.samples
  values := PerPhase.build (fun p => if wired set.wiring p then some (w.phaseValue set p).1 else none)
  flags := { w.flags with
    clipped := w.flags.clipped || (wiredPhases set.wiring).any (fun p => (w.phaseValue set p).2) }
  startMark := startMark

/-- The window is flagged (R56). -/
def WindowFlags.any (f : WindowFlags) : Bool := f.event || f.synthetic || f.clipped || f.oscillator

/-- A phase's sums with one window value (R57). -/
def PhaseSums.add (x : PhaseSums) (v : Option Nat) : PhaseSums :=
  match v with
  | some w => ⟨x.squares + w * w, extendRange x.range w⟩
  | none => x

/-- The interval takes a window (R57, R61). -/
def Interval.takeWindow (i : Interval) (w : LatestWindow) : Interval :=
  { i with
    windows := saturate max16 (i.windows + 1)
    flagged := saturate max16 (i.flagged + one w.flags.any)
    phases := PerPhase.build (fun p => (i.phases.get p).add (w.values.get p))
    marks := { i.marks with
      event := i.marks.event || w.flags.event
      synthetic := i.marks.synthetic || w.flags.synthetic
      clipped := i.marks.clipped || w.flags.clipped
      clock := i.marks.clock || w.flags.oscillator } }

/-- The window in progress ends (R57): the latest window, the interval, and the item to the bank. -/
def endWindow (endTime : Time) (s : State) : State :=
  match s.iva.window with
  | some w =>
    let latest := w.finish s.svc.active endTime ((s.iva.interval.map Interval.startMark).getD 0)
    handItem (.win latest.values latest.flags.any latest.startMark)
      { s with iva := { s.iva with
          window := none
          latestWindow := some latest
          interval := s.iva.interval.map (fun i => i.takeWindow latest) } }
  | none => s

/-- The window in progress takes a boundary, and ends when it is complete or a closure is due (R53, R54). -/
def windowTakes (r : Report) (anyOpen closureDue : Bool) (s : State) : State :=
  let w := (s.iva.window.getD (Window.begin s.svc.active.fn)).take r anyOpen
  let taken := { s with iva := { s.iva with window := some w } }
  if w.full ≤ w.count ∨ closureDue then endWindow r.time taken else taken

/-! ## Intervals (R59 to R65, R74) -/

/-- The end mark of an interval (R59). -/
def Interval.endMark (i : Interval) : Nat := i.startMark + 600

/-- No mark of an interval. -/
def IntervalMarks.none : IntervalMarks := ⟨false, false, false, false, false, false, false⟩

/-- An interval as it opens (R59). -/
def Interval.begin (startMark : Nat) (marks : IntervalMarks) : Interval :=
  ⟨startMark, 0, 0, ⟨⟨0, none⟩, ⟨0, none⟩, ⟨0, none⟩⟩, 0, 0, none, 0, marks⟩

/-- An interval opens (R59). -/
def openInterval (startMark : Nat) (marks : IntervalMarks) (s : State) : State :=
  { s with iva := { s.iva with interval := some (Interval.begin startMark marks) } }

/-- EVD's close count enters the interval (R63). -/
def addCloses (n : Nat) (s : State) : State :=
  { s with iva := { s.iva with
      interval := s.iva.interval.map (fun i => { i with closes := saturate max16 (i.closes + n) }) } }

/-- The marks of an interval at its closure (R62). -/
def Interval.finalMarks (i : Interval) (halted : Bool) : IntervalMarks :=
  { i.marks with
    incomplete := i.marks.incomplete || i.windows < 2700 || i.marks.resumed || i.marks.timeStep || halted }

/-- The interval is valid (R62). -/
def intervalValid (m : IntervalMarks) (q : Quality) : Bool :=
  !(m.event || m.synthetic || m.clipped || m.clock || m.incomplete) && q != .unset

/-- The membership bit (R63). -/
def isMember (c : SurveyContext) (startMark : Nat) : Bool := c.state == .running && c.contains startMark

/-- The value, minimum and maximum of one phase (R61). -/
def PhaseSums.result (x : PhaseSums) (windows : Nat) : IntervalPhase :=
  ⟨isqrt (x.squares / windows), (x.range.map Prod.fst).getD 0, (x.range.map Prod.snd).getD 0⟩

/-- The phase results of an interval; absent when no window was counted (R61). -/
def Interval.results (i : Interval) (w : Wiring) : Option (PerPhase (Option IntervalPhase)) :=
  if i.windows = 0 then none
  else some (PerPhase.build (fun p => if wired w p then some ((i.phases.get p).result i.windows) else none))

/-- The largest of some values less the smallest. -/
def spreadOf (values : List Nat) : Nat :=
  match values with
  | [] => 0
  | v :: rest => rest.foldl max v - rest.foldl min v

/-- The interval phase values, absent for a phase not wired or when no window was counted. -/
def intervalValues (results : Option (PerPhase (Option IntervalPhase))) : PerPhase (Option Nat) :=
  PerPhase.build (fun p => results.bind (fun x => (x.get p).map IntervalPhase.value))

/-- The frequency fields of an interval (R69). -/
def Interval.frequency (i : Interval) : Option IntervalFrequency :=
  match i.frequencyRange with
  | some (lo, hi) =>
    if i.frequencyCount = 0 then none
    else some ⟨(i.frequencySum + i.frequencyCount / 2) / i.frequencyCount, lo, hi⟩
  | none => none

/-- The interval record (R64). -/
def Interval.record (i : Interval) (closeTime : Time) (halted : Bool) (s : State) : IntervalRecord :=
  let marks := i.finalMarks halted
  let results := i.results s.svc.active.wiring
  { startMark := i.startMark
    closeTime := closeTime
    wiring := s.svc.active.wiring
    phases := results
    spread := spreadOf (presentValues (intervalValues results))
    frequencyCount := i.frequencyCount
    frequency := i.frequency
    windows := i.windows
    flagged := i.flagged
    closes := i.closes
    marks := marks
    valid := intervalValid marks s.tmb.quality
    member := isMember s.svc.survey i.startMark }

/-- The marks of an interval as R201 writes them. -/
def IntervalMarks.text (m : IntervalMarks) : Text :=
  markGroup [(m.event, "EVENT"), (m.synthetic, "SYNTHETIC"), (m.clipped, "CLIPPED"), (m.clock, "CLOCK"),
    (m.incomplete, "INCOMPLETE"), (m.timeStep, "TIME_STEP"), (m.resumed, "RESUMED")]

/-- The IVC notice (R65): one field for the value of each wired phase, without a count field (log entry 23). -/
def postInterval (r : IntervalRecord) (sequence : Option Nat) (s : State) : State :=
  postNotice .ivc ([num r.startMark, timeText r.closeTime]
    ++ (wiredPhases r.wiring).map (fun p => optText num ((intervalValues r.phases).get p))
    ++ [r.marks.text, bitText r.valid, bitText r.member, optText num sequence]) s

/-- The skipped marks of a closure that opens an interval at a mark: the first one and their count (R74). -/
def skippedMarks (startMark : Nat) (opened : Option Nat) : Nat × Nat :=
  match opened with
  | some mark => if startMark + 600 < mark then (startMark + 600, (mark - startMark) / 600 - 1) else (startMark + 600, 0)
  | none => (startMark + 600, 0)

/-- The interval in progress closes (R64): the record, IVC, the item to the bank, and the closure to the settings unit
and survey controller. -/
def closeInterval (cause : ClosureCause) (closeTime : Time) (opened : Option Nat) (s : State) : State :=
  match s.iva.interval with
  | some i =>
    let record := i.record closeTime (cause == .halt) s
    let posted := postInterval record (offeredSequence s) (offer .ivl record.payload s)
    let handed := handItem (.int (intervalValues record.phases) record.valid record.member record.startMark) posted
    takeClosure ⟨i.startMark, i.endMark, closeTime, record.valid, record.member, cause,
      (skippedMarks i.startMark opened).1, (skippedMarks i.startMark opened).2, opened⟩
      { handed with iva := { handed.iva with interval := none } }
  | none => s

/-! ## A boundary (R53, R71, R73, R75) -/

/-- What a boundary brings about beside the adding of its half: whether it ends the period in progress, the reasons a
period beginning there has, and the closure due with the mark and the marks of the interval it opens. -/
structure BoundaryPlan where
  endsPeriod : Bool
  reasons : PeriodReasons
  closure : Option (ClosureCause × Nat × IntervalMarks)
  deriving DecidableEq, Repr

/-- A period that does not follow its predecessor (R66), with the reasons of R68 that a step or a dormancy adds. Every such
period has the reason "partial", not only one that begins at a measurement or a cold start (log entry 35). -/
def brokenPeriod (timeStep dormancy : Bool) : PeriodReasons := ⟨false, false, timeStep, dormancy, true, false⟩

/-- The plan of a boundary, by its time, for an interval in progress: the next boundary after a time step (R73), the
first one after a warm resume (R75), or an ordinary one (R53, R60). -/
def planBoundary (v : Iva) (i : Interval) (seconds : Nat) : BoundaryPlan :=
  let periodDue := v.period.all (fun p => p.endMark ≤ seconds)
  if v.pendingStep then
    ⟨true, brokenPeriod true v.resumed,
      some (.timeStep, tenMinuteMark seconds, ⟨false, false, false, false, true, true, v.resumed⟩)⟩
  else if v.resumed then
    if i.endMark ≤ seconds then
      ⟨true, brokenPeriod false true,
        some (.resume, tenMinuteMark seconds, ⟨false, false, false, false, true, false, true⟩)⟩
    else ⟨periodDue, brokenPeriod false true, none⟩
  else
    ⟨periodDue, PeriodReasons.none,
      if i.endMark ≤ seconds then some (.endMark, i.endMark, IntervalMarks.none) else none⟩

/-- The retained interval takes the marks of the resume and of the step (R73, R75). -/
def markBoundary (v : Iva) : Iva :=
  { v with interval := v.interval.map (fun i =>
      { i with marks := { i.marks with
          timeStep := i.marks.timeStep || v.pendingStep
          resumed := i.marks.resumed || v.resumed
          incomplete := i.marks.incomplete || v.resumed || v.pendingStep } }) }

/-- Step 1 of R53: the period in progress ends where the plan says so, and the boundary belongs to the period in
progress after that. -/
def periodTakes (plan : BoundaryPlan) (r : Report) (cycle : Option Cycle) (s : State) : State :=
  let begun := if plan.endsPeriod then beginPeriod plan.reasons r (endPeriod s) else s
  { begun with iva := { begun.iva with period := begun.iva.period.map (fun p => p.take r cycle) } }

/-- A boundary with its plan: the three steps of R53. -/
def takePlanned (plan : BoundaryPlan) (r : Report) (ind : Indications) (cycle : Option Cycle) (s : State) : State :=
  let counted := addCloses ind.closes (windowTakes r ind.anyOpen plan.closure.isSome (periodTakes plan r cycle s))
  match plan.closure with
  | some (cause, mark, marks) => openInterval mark marks (closeInterval cause r.time (some mark) counted)
  | none => counted

/-- IVA takes a report with EVD's indications as one boundary (R53). With no interval in progress it is the first one
after measurement start or a cold start: an INCOMPLETE interval and a period that is not whole begin with it (R71, R76). -/
def takeBoundary (r : Report) (ind : Indications) (cycle : Option Cycle) (s : State) : State :=
  let taken := match s.iva.interval with
    | some i => takePlanned (planBoundary s.iva i r.time.seconds) r ind cycle { s with iva := markBoundary s.iva }
    | none =>
      takePlanned ⟨true, brokenPeriod s.iva.pendingStep s.iva.resumed, none⟩ r ind cycle
        (openInterval (tenMinuteMark r.time.seconds) { IntervalMarks.none with incomplete := true } s)
  { taken with iva := { taken.iva with pendingStep := false, resumed := false, lastBoundaryTime := some r.time } }

/-! ## Halt, dormancy (R72, R75) -/

/-- The period in progress ends at a halt (R68, R72). -/
def haltPeriod (s : State) : State :=
  endPeriod { s with iva := { s.iva with
      period := s.iva.period.map (fun p => { p with reasons := { p.reasons with halt := true } }) } }

/-- What is in progress at a halt: an interval opened at the reading where there is none (R72). R72 says so of a halt before
the first boundary after MEA GO. DEDUCED for the one before the first boundary after a cold start with measurement restored as
MEASURING, where R76 leaves no interval in progress either: the model opens and closes the same one (log entry 41). -/
def haltOpened (s : State) : State :=
  match s.iva.interval with
  | some _ => s
  | none => openInterval (tenMinuteMark (reading s).seconds) { IntervalMarks.none with incomplete := true } (takeReading s)

/-- The close time of a halt: the last boundary taken, or the reading of R72. -/
def haltTime (s : State) : Time :=
  match s.iva.interval with
  | some _ => s.iva.lastBoundaryTime.getD (reading s)
  | none => reading s

/-- A pending step marks the closing interval TIME_STEP (R72). -/
def haltMarked (s : State) : State :=
  { s with iva := { s.iva with
      interval := s.iva.interval.map (fun i => { i with marks := { i.marks with timeStep := i.marks.timeStep || s.iva.pendingStep } })
      pendingStep := false } }

/-- IVA at MEA HALT, with the number of STOP closes (R72). DESIGN CHOICE: after a warm resume the mark RESUMED comes at the
first boundary (R75), so a halt before it closes the retained interval without that mark (log entry 41). -/
def haltIntervals (stops : Nat) (s : State) : State :=
  let time := haltTime s
  let ended := endWindow time (haltPeriod (haltOpened s))
  let closed := closeInterval .halt time none (haltMarked (addCloses stops ended))
  { closed with iva := { closed.iva with window := none, interval := none, period := none, pendingStep := false, resumed := false } }

/-- IVA at dormancy entry: the period is marked invalid (R75). -/
def Iva.atDormancy (v : Iva) : Iva :=
  { v with period := v.period.map (fun p => { p with reasons := { p.reasons with dormancy := true } }) }

/-! ## Commands (R58, R70) -/

/-- A value in bp and in tenths of a volt, as one group (R1, R201). -/
def voltGroup (ud v : Nat) : Text := compound [num v, num (tenthsOfVolt v ud)]

/-- The reply fields of MVW (R58), with a group for each phase that was wired in the window (log entry 35) and no count
field before the groups (log entry 23). -/
def mvwFields (latest : Option LatestWindow) (set : Settings) : List Text :=
  match latest with
  | some w =>
    [timeText w.endTime, num w.count, bitText w.short, num w.startMark, num w.samples, bitText w.flags.event,
      bitText w.flags.synthetic, bitText w.flags.clipped, bitText w.flags.oscillator]
      ++ (presentValues w.values).map (voltGroup set.ud)
  | none => List.replicate (9 + (wiredPhases set.wiring).length) absentText

/-- MVW (R58). -/
def runMvw (fields : List Text) (s : State) : State :=
  if fields ≠ [] then answer .syn [] s else answer .ok (mvwFields s.iva.latestWindow s.svc.active) s

/-- The reply fields of MVF (R70): each reason of R68 as its own indication, the absence of cycles first. -/
def mvfFields (latest : Option FrequencyValue) : List Text :=
  match latest with
  | some f =>
    [num f.startMark, num f.cycles, optText num f.span, optText num f.value, bitText f.valid, bitText f.outOfRange,
      bitText (f.cycles == 0), bitText f.reasons.synthetic, bitText f.reasons.referenceChanged, bitText f.reasons.timeStep,
      bitText f.reasons.dormancy, bitText f.reasons.incompletePeriod, bitText f.reasons.halt]
  | none => List.replicate 13 absentText

/-- MVF (R70). -/
def runMvf (fields : List Text) (s : State) : State :=
  if fields ≠ [] then answer .syn [] s else answer .ok (mvfFields s.iva.latestFrequency) s

end Sys2Proof.Machine
end

