-- ==== Sys2Proof/Machine/Sampling.lean ====
section
/-! DEFINITION. Samples, calibration, boundaries, half-cycle reports and phase presence, and the commands CAL, MVH and
PHM (chapter Sampling, Cycle Tracking and Half-Cycle Values). -/

namespace Sys2Proof.Machine

/-! ## The start of sampling and the reference phase (R7, R9, R10, R11, R14, R16, R23) -/

/-- A channel as it begins to be followed: NEG, three "neither" entries, and a last change Q samples before the first
sample (R9, R10). -/
def SignState.start (q : Nat) : SignState := ⟨.neg, .neither, .neither, .neither, q - 1⟩

/-- Both halves empty (R16). -/
def HcuChannel.empty : HcuChannel := ⟨Half.empty, Half.empty⟩

/-- The presence entry of a wired phase when sampling begins: the one kept, with run count 0, or a new one (R23). -/
def Presence.resumed (e : Option Presence) : Presence := { e.getD Presence.initial with run := 0 }

/-- The evaluation of R11 on the presence map. -/
def Cyt.evaluated (c : Cyt) : Phase :=
  match (wiredPhases c.wiringInUse).find? (fun p => (c.presence.get p).any Presence.present) with
  | some p => p
  | none => if wired c.wiringInUse c.reference then c.reference else .l1

/-- The reference after an evaluation; a different one brings FREEWHEEL and the mark of the next report (R11). -/
def Cyt.reevaluate (c : Cyt) : Cyt :=
  if c.evaluated = c.reference then c
  else { c with reference := c.evaluated, tracker := .freewheel, referenceChanged := true }

/-- The channels that are followed when sampling begins: those wired under the active WIRING, and under the one in use until
the first boundary (R3, log entry 27). -/
def Cyt.begins (c : Cyt) (set : Settings) (p : Phase) : Bool := wired set.wiring p || wired c.wiringInUse p

/-- The tracker when sampling begins (R14): FREEWHEEL, every channel followed from the start, the reference and the presence
states kept. An FN or a WIRING that became active but met no boundary before a dormancy acts at the first boundary (R3, R14,
log entry 27). -/
def Cyt.atStart (c : Cyt) (set : Settings) : Cyt :=
  { c with
    channels := PerPhase.build (fun p => if c.begins set p then some (SignState.start (quarterCycle c.fnInUse)) else none)
    tracker := .freewheel
    progress := .fresh
    last := none
    beforeLast := none
    presence := PerPhase.build (fun p => if c.begins set p then some (Presence.resumed (c.presence.get p)) else none) }

/-- Sampling begins, and with it a calibration window (R7, R14). -/
def startSampling (s : State) : State :=
  { s with
    ich := { s.ich with windowOpen := true, lastOpen := some s.tmb.tick }
    cyt := s.cyt.atStart s.svc.active
    hcu := { s.hcu with
      channels := PerPhase.build (fun p => if s.cyt.begins s.svc.active p then some HcuChannel.empty else none) } }

/-! ## Calibration (R4 to R7) -/

/-- The ticks between the openings of two calibration windows (R7). -/
abbrev calibrationPeriod : Nat := 1966080

/-- The ticks of a calibration window (R4). -/
abbrev calibrationWindow : Nat := 8192

/-- The ticks since the last window opened. -/
def Ich.sinceOpen (c : Ich) (now : Tick) : Nat := (c.lastOpen.map (fun t => tickSpan t now)).getD 0

/-- A calibration window is due to open (R7). -/
def calibrationDue (s : State) : Bool :=
  sampling s && s.ich.lastOpen.isSome && calibrationPeriod ≤ s.ich.sinceOpen s.tmb.tick

/-- A calibration window opens (R7). -/
def openCalibration (s : State) : State :=
  { s with ich := { s.ich with windowOpen := true, lastOpen := some s.tmb.tick } }

/-- CALIBRATION_WINDOW_OPEN (R7). No effect before it is due (log entry 4). -/
def execCalibrationWindowOpen (s : State) : Host.Outcome State Fault Refusal :=
  .next (if calibrationDue s then openCalibration s else s)

/-- The open window has reached its end (R4). -/
def calibrationEnds (s : State) : Bool :=
  sampling s && s.ich.windowOpen && calibrationWindow ≤ s.ich.sinceOpen s.tmb.tick

/-- What a completed calibration leaves (R4, R5, R6). -/
def Ich.calibrated (c : Ich) (n1 : Nat) : Ich :=
  { c with
    windowOpen := false
    lastN1 := some n1
    osc := divisorClamped (candidateDivisor n1)
    pendingDivisor := some (clampDivisor (candidateDivisor n1)) }

/-- CALIBRATION_COMPLETE (R4). No effect where no window has reached its end (log entry 4). -/
def execCalibrationComplete (n1 : BitVec 32) (s : State) : Host.Outcome State Fault Refusal :=
  .next (if calibrationEnds s then { s with ich := s.ich.calibrated n1.toNat } else s)

/-! ## Sign states (R9, R10) -/

/-- The three entries hold a majority of a class (R9). -/
def SignState.majority (c : SignState) (k : SampleClass) : Bool :=
  (c.newest == k && c.middle == k) || (c.newest == k && c.oldest == k) || (c.middle == k && c.oldest == k)

/-- The channel asks for a change (R9). -/
def SignState.asks (c : SignState) : Bool :=
  match c.sign with
  | .neg => c.majority .positive
  | .pos => c.majority .negative

/-- The other sign state. -/
def Sign.flip : Sign → Sign
  | .pos => .neg
  | .neg => .pos

/-- A sample enters the history and the sample count (R9, R10). -/
def SignState.shift (c : SignState) (x : Int) : SignState :=
  { c with newest := classify x, middle := c.newest, oldest := c.middle, sinceChange := c.sinceChange + 1 }

/-- A channel after a sample, and whether a change was accepted there (R9, R10). -/
def SignState.observe (c : SignState) (q : Nat) (x : Int) : SignState × Bool :=
  let moved := c.shift x
  if moved.asks && q ≤ moved.sinceChange then ({ moved with sign := moved.sign.flip, sinceChange := 0 }, true)
  else (moved, false)

/-- The direction of a change to a sign state (R12). -/
def Sign.direction : Sign → Direction
  | .pos => .positiveGoing
  | .neg => .negativeGoing

/-! ## A sample (R2, R3, R16) -/

/-- A channel is followed: wired under the active setting, or not yet dropped at a boundary (R3). DESIGN CHOICE: a channel
that ceases to be wired and becomes wired again before a boundary goes on with the sign state, the sums and the presence entry
it has, and does not begin anew (log entry 12). -/
def follows (s : State) (p : Phase) : Bool := wired s.svc.active.wiring p || (s.cyt.channels.get p).isSome

/-- One half with one sample more (R16). -/
def Half.add (h : Half) (x : Int × Bool) : Half := ⟨h.sum + x.1.natAbs * x.1.natAbs, h.count + 1, h.clipped || x.2⟩

/-- The conditioned samples of one sample period (R2). -/
def conditionAll (raw : PerPhase (BitVec 16)) (set : Settings) : PerPhase (Int × Bool) :=
  PerPhase.build (fun p => conditionSample (raw.get p) (set.o.get p))

/-- The followed channels after one sample period, each with whether a change was accepted. -/
def observeAll (xs : PerPhase (Int × Bool)) (s : State) : PerPhase (Option (SignState × Bool)) :=
  PerPhase.build (fun p =>
    if follows s p then
      some (((s.cyt.channels.get p).getD (SignState.start (quarterCycle s.cyt.fnInUse))).observe
        (quarterCycle s.cyt.fnInUse) (xs.get p).1)
    else none)

/-- The sample counts go on by one sample (R12 to R14). -/
def Progress.next : Progress → Progress
  | .fresh => .sinceFirst 0
  | .sinceFirst n => .sinceFirst (n + 1)
  | .sinceBoundary n => .sinceBoundary (n + 1)

/-- The state with one sample period counted, before any boundary. -/
def countSample (xs : PerPhase (Int × Bool)) (s : State) : State :=
  { s with
    cyt := { s.cyt with
      channels := PerPhase.build (fun p => ((observeAll xs s).get p).map Prod.fst)
      progress := s.cyt.progress.next
      presence := PerPhase.build (fun p => if follows s p then some ((s.cyt.presence.get p).getD Presence.initial) else none) }
    hcu := { s.hcu with
      channels := PerPhase.build (fun p =>
        if follows s p then
          let c := (s.hcu.channels.get p).getD HcuChannel.empty
          some { c with current := c.current.add (xs.get p) }
        else none) } }

/-- The accepted change of the reference channel at this sample, by its direction (R12, R13). -/
def referenceChange (xs : PerPhase (Int × Bool)) (s : State) : Option Direction :=
  match (observeAll xs s).get s.cyt.reference with
  | some (c, true) => some c.sign.direction
  | some (_, false) => none
  | none => none

/-! ## Where boundaries are placed (R12, R13) -/

/-- A boundary with the tracker state it leaves: real, synthetic, or the synthetic one that ends FREEWHEEL. -/
inductive Placed where
  | real (d : Direction)
  | synthetic
  | leaving
  deriving DecidableEq, Repr

/-- The boundary that a sample places, for a tracker whose counts include that sample (R12, R13, R14). -/
def Cyt.boundary (c : Cyt) (change : Option Direction) : Option Placed :=
  match c.tracker, c.progress with
  | .tracking, .sinceBoundary n =>
    match change with
    | some d => some (.real d)
    | none => if nominalCycle c.fnInUse ≤ n then some .synthetic else none
  | .freewheel, .sinceBoundary n =>
    if change = some .positiveGoing ∧ quarterCycle c.fnInUse ≤ n then some .leaving
    else if halfCycle c.fnInUse ≤ n then some .synthetic
    else none
  | .freewheel, .sinceFirst n => if halfCycle c.fnInUse ≤ n then some .synthetic else none
  | .freewheel, .fresh => none
  | .tracking, .sinceFirst _ => none
  | .tracking, .fresh => none

/-- The boundary is synthetic (R12, R13). -/
def Placed.isSynthetic : Placed → Bool
  | .real _ => false
  | .synthetic => true
  | .leaving => true

/-- The direction of a boundary; none for a synthetic one (R18). -/
def Placed.direction : Placed → Option Direction
  | .real d => some d
  | .synthetic => none
  | .leaving => none

/-- The tracker state after a boundary (R12, R13). -/
def Placed.tracker : Placed → Tracker
  | .real _ => .tracking
  | .synthetic => .freewheel
  | .leaving => .tracking

/-! ## What changes at a boundary before its report (R3, R6, R12 to R14) -/

/-- A pending divisor takes effect (R6). -/
def Ich.atBoundary (c : Ich) : Ich :=
  match c.pendingDivisor with
  | some d => { c with divisor := d, pendingDivisor := none }
  | none => c

/-- The tracker at a boundary: its state, FREEWHEEL where a new FN has become active (R14), the phases not wired dropped, and
for a new WIRING the evaluation it brings (R3, R11, log entry 12). A WIRING changed and changed back since the last boundary
brings no change (log entry 27). -/
def Cyt.atBoundary (c : Cyt) (set : Settings) (kind : Placed) : Cyt :=
  let placed := { c with
    tracker := if c.fnChanged then .freewheel else kind.tracker
    fnInUse := set.fn
    fnChanged := false
    progress := .sinceBoundary 0
    wiringInUse := set.wiring
    channels := PerPhase.build (fun p => if wired set.wiring p then c.channels.get p else none)
    presence := PerPhase.build (fun p => if wired set.wiring p then c.presence.get p else none) }
  if c.wiringInUse = set.wiring then placed else placed.reevaluate

/-- The sums of phases no longer wired are lost (R3). -/
def Hcu.atBoundary (h : Hcu) (w : Wiring) : Hcu :=
  { h with channels := PerPhase.build (fun p => if wired w p then h.channels.get p else none) }

/-- The state at a boundary, before its report is formed; SPM notes the boundary's tick (R174). -/
def settleBoundary (kind : Placed) (s : State) : State :=
  { s with
    ich := s.ich.atBoundary
    cyt := s.cyt.atBoundary s.svc.active kind
    hcu := s.hcu.atBoundary s.svc.active.wiring
    spm := { s.spm with lastBoundary := some (extendedTick s) } }

/-! ## Values, report and cycle (R15 to R18) -/

/-- A channel's value over its two halves (R16, R17). -/
def HcuChannel.value (c : HcuChannel) (k : Nat) : PhaseValue :=
  let v := rmsValue (c.previous.sum + c.current.sum) (c.previous.count + c.current.count) k
  ⟨v.1, v.2 || c.previous.clipped || c.current.clipped, c.current.sum⟩

/-- The values of the followed channels (R17). -/
def Hcu.values (h : Hcu) (set : Settings) : PerPhase (Option PhaseValue) :=
  PerPhase.build (fun p => (h.channels.get p).map (fun c => c.value (set.k.get p)))

/-- The sample count of the latest half: that of L1, which is wired in both connections (R16, R18). -/
def Hcu.halfCount (h : Hcu) : Nat := (h.channels.l1.map (fun c => c.current.count)).getD 0

/-- The report of a boundary (R18). -/
def formReport (kind : Placed) (s : State) : Report where
  time := reading s
  tick := s.tmb.tick
  direction := kind.direction
  synthetic := kind.isSynthetic
  osc := s.ich.osc
  referenceChanged := s.cyt.referenceChanged
  reference := s.cyt.reference
  count := s.hcu.halfCount
  values := s.hcu.values s.svc.active

/-- The cycle that completes at a boundary (R15). -/
def completedCycle (kind : Placed) (s : State) : Option Cycle :=
  match kind, s.cyt.last, s.cyt.beforeLast with
  | .real .positiveGoing, some last, some before =>
    if last.direction.isSome ∧ before.direction.isSome then
      some ⟨before.tick, s.tmb.tick, last.half + s.hcu.halfCount⟩
    else none
  | _, _, _ => none

/-- The current half becomes the previous half (R16). -/
def HcuChannel.shift (c : HcuChannel) : HcuChannel := ⟨c.current, Half.empty⟩

/-- The state once a report is produced: its reading taken, the report kept, the halves and the marks moved on (R16,
R18). -/
def keepReport (kind : Placed) (r : Report) (s : State) : State :=
  let taken := takeReading s
  { taken with
    cyt := { taken.cyt with
      referenceChanged := false
      beforeLast := s.cyt.last
      last := some ⟨kind.direction, s.tmb.tick, r.count⟩ }
    hcu := ⟨PerPhase.build (fun p => (s.hcu.channels.get p).map HcuChannel.shift), some r⟩ }

/-- While MEASURING the report goes to the HALF cells, to EVD and, with EVD's indications, to IVA (R24, R53, R77, log
entry 13). -/
def deliverReport (r : Report) (cycle : Option Cycle) (span : Nat) (s : State) : State :=
  if s.svc.measuring then
    let processed := processReport r span (handItem (.half r) s)
    takeBoundary r processed.2 cycle processed.1
  else s

/-! ## Presence (R20, R21) -/

/-- A presence entry after a value, and whether it flipped (R20). -/
def Presence.after (e : Presence) (v : Nat) : Presence × Bool :=
  if decide (2000 ≤ v) = e.present then ({ e with run := 0 }, false)
  else if e.run + 1 < 10 then ({ e with run := e.run + 1 }, false)
  else if e.present then ({ e with present := false, run := 0, lost := true }, true)
  else ({ e with present := true, run := 0, joined := true }, true)

/-- PRESENT, ABSENT. -/
def presenceText (present : Bool) : Text := if present then "PRESENT".toList else "ABSENT".toList

/-- The presence map after a report, each entry with whether it flipped (R20). -/
def presenceAfter (r : Report) (c : Cyt) : PerPhase (Option (Presence × Bool)) :=
  PerPhase.build (fun p =>
    match c.presence.get p, r.values.get p with
    | some e, some v => some (e.after v.value)
    | some e, none => some (e, false)
    | none, _ => none)

/-- The phases whose entries flip at a report. -/
def flippedPhases (r : Report) (c : Cyt) : List Phase :=
  allPhases.filter (fun p => ((presenceAfter r c).get p).any Prod.snd)

/-- The presence map after a report, with the one evaluation that any flip brings (R20, R11). -/
def Cyt.afterReport (c : Cyt) (r : Report) : Cyt :=
  let updated := { c with presence := PerPhase.build (fun p => ((presenceAfter r c).get p).map Prod.fst) }
  if flippedPhases r c = [] then updated else updated.reevaluate

/-- A PHN notice (R21). -/
def postPresence (r : Report) (s : State) (p : Phase) : State :=
  postNotice .phn [phaseText p, presenceText ((s.cyt.presence.get p).any Presence.present), timeText r.time,
    phaseText s.cyt.reference] s

/-- The presence map takes a report: entries, reference, and a notice for every flip (R20, R21). Several flips of one report
are told in increasing phase order (log entry 34). -/
def updatePresence (r : Report) (s : State) : State :=
  (flippedPhases r s.cyt).foldl (postPresence r) { s with cyt := s.cyt.afterReport r }

/-! ## A boundary and a sample whole -/

/-- The ticks from SPM's last boundary to now, across any dormancy (R174). -/
def boundarySpan (s : State) : Nat := (s.spm.lastBoundary.map (fun b => extendedTick s - b)).getD 0

/-- A boundary at the sample just counted (R3, R6, R14 to R18, R20). -/
def placeBoundary (kind : Placed) (s : State) : State :=
  let settled := settleBoundary kind s
  let r := formReport kind settled
  updatePresence r (deliverReport r (completedCycle kind settled) (boundarySpan s) (keepReport kind r settled))

/-- One sample period whole (R2, R9, R10, R12, R13, R16). -/
def takeSample (raw : PerPhase (BitVec 16)) (s : State) : State :=
  let xs := conditionAll raw s.svc.active
  let counted := countSample xs s
  match counted.cyt.boundary (referenceChange xs s) with
  | some kind => placeBoundary kind counted
  | none => counted

/-- SAMPLE (R2). No effect where no samples are taken (section 1, log entry 4). -/
def execSample (r1 r2 r3 : BitVec 16) (s : State) : Host.Outcome State Fault Refusal :=
  .next (if sampling s then takeSample ⟨r1, r2, r3⟩ s else s)

/-- The next sample completes one nominal cycle in TRACKING (R12). -/
def timeoutDue (s : State) : Bool :=
  sampling s && s.cyt.tracker == .tracking &&
    match s.cyt.progress with
    | .sinceBoundary n => nominalCycle s.cyt.fnInUse ≤ n + 1
    | .sinceFirst _ => false
    | .fresh => false

/-- TRACKING_TIMEOUT (R12): the sample that completes the count. No effect at another sample (log entries 4 and 5). -/
def execTrackingTimeout (r1 r2 r3 : BitVec 16) (s : State) : Host.Outcome State Fault Refusal :=
  .next (if timeoutDue s then takeSample ⟨r1, r2, r3⟩ s else s)

/-- The next sample completes the FREEWHEEL schedule (R13, R14). -/
def scheduleDue (s : State) : Bool :=
  sampling s && s.cyt.tracker == .freewheel &&
    match s.cyt.progress with
    | .sinceBoundary n => halfCycle s.cyt.fnInUse ≤ n + 1
    | .sinceFirst n => halfCycle s.cyt.fnInUse ≤ n + 1
    | .fresh => false

/-- SYNTHETIC_BOUNDARY (R13): the sample at which the schedule expires. No effect at another sample (log entries 4
and 5). -/
def execSyntheticBoundary (r1 r2 r3 : BitVec 16) (s : State) : Host.Outcome State Fault Refusal :=
  .next (if scheduleDue s then takeSample ⟨r1, r2, r3⟩ s else s)

/-! ## Commands (R8, R19, R22) -/

/-- The ticks to the next calibration window (R8). -/
def Ich.ticksToNext (c : Ich) (now : Tick) : Nat := if c.windowOpen then 0 else calibrationPeriod - c.sinceOpen now

/-- CAL (R8). -/
def runCal (fields : List Text) (s : State) : State :=
  if fields ≠ [] then answer .syn [] s
  else answer .ok [num s.ich.divisor, optText num s.ich.pendingDivisor, optText num s.ich.lastN1, bitText s.ich.osc,
    num (s.ich.ticksToNext s.tmb.tick)] s

/-- POSITIVE_GOING, NEGATIVE_GOING (log entry 23). -/
def Direction.text : Direction → Text
  | .positiveGoing => "POSITIVE_GOING".toList
  | .negativeGoing => "NEGATIVE_GOING".toList

/-- A phase value of MVH: bp, tenths of a volt, clipped, as one group (R19, R201). -/
def PhaseValue.field (ud : Nat) (v : PhaseValue) : Text :=
  compound [num v.value, num (tenthsOfVolt v.value ud), bitText v.clipped]

/-- The reply fields of MVH (R19). The direction of a synthetic boundary, none by R18, is written as an absent field, and the
groups of the wired phases stand without a count field (log entry 23). -/
def mvhFields (latest : Option Report) (set : Settings) : List Text :=
  match latest with
  | some r =>
    [timeText r.time, num r.tick.toNat, optText Direction.text r.direction, bitText r.synthetic, bitText r.osc,
      bitText r.referenceChanged, phaseText r.reference] ++ (presentValues r.values).map (PhaseValue.field set.ud)
  | none => List.replicate (7 + (wiredPhases set.wiring).length) absentText

/-- MVH (R19). -/
def runMvh (fields : List Text) (s : State) : State :=
  if fields ≠ [] then answer .syn [] s else answer .ok (mvhFields s.hcu.latest s.svc.active) s

/-- A presence entry of PHM as one group (R22, R201). -/
def Presence.field (e : Presence) : Text :=
  compound [presenceText e.present, num e.run, bitText e.joined, bitText e.lost]

/-- A presence entry with its marks cleared (R22). -/
def Presence.cleared (e : Presence) : Presence := { e with joined := false, lost := false }

/-- PHM (R22); the groups of the wired phases stand without a count field (log entry 23). -/
def runPhm (fields : List Text) (s : State) : State :=
  if fields ≠ [] then answer .syn [] s
  else answer .ok (phaseText s.cyt.reference :: (presentValues s.cyt.presence).map Presence.field)
    { s with cyt := { s.cyt with
        presence := PerPhase.build (fun p => (s.cyt.presence.get p).map Presence.cleared) } }

end Sys2Proof.Machine
end

