-- ==== Sys2Proof/Machine/Measurement.lean ====
section
/-! DEFINITION. The start and halt of measurement: the command MEA (section 5.4). -/

namespace Sys2Proof.Machine

/-- An accepted MEA GO (R104): EVD starts its phases (R28), and IVA begins at the first boundary taken (R71). -/
def startMeasurement (s : State) : State :=
  answer .ok [] (offer .mea (measurementPayload true)
    { s with
      svc := { s.svc with measuring := true }
      evd := s.evd.atStart s.svc.active.wiring
      iva := { s.iva with pendingStep := false, resumed := false } })

/-- Steps 1 to 4 of R105: the STOP closes, the closure of the interval, and the state STOPPED. -/
def stopBlocks (s : State) : State :=
  let halted := haltIntervals s.evd.openCount (stopRecords s)
  { halted with svc := { halted.svc with measuring := false } }

/-- An accepted MEA HALT (R105). -/
def stopMeasurement (s : State) : State := answer .ok [] (offer .mea (measurementPayload false) (stopBlocks s))

/-- MEA GO (R104). -/
def runGo (s : State) : State := if s.svc.measuring then answer .stt [] s else startMeasurement s

/-- MEA HALT (R105). -/
def runHalt (s : State) : State :=
  if surveyLocks s then answer .lck [] s
  else if ¬ s.svc.measuring then answer .stt [] s
  else stopMeasurement s

/-- MEA (R104, R105). -/
def runMea (fields : List Text) (s : State) : State :=
  if fields = ["GO".toList] then runGo s
  else if fields = ["HALT".toList] then runHalt s
  else answer .syn [] s

end Sys2Proof.Machine
end

