-- ==== Sys2Proof/Machine/Timebase.lean ====
section
/-! DEFINITION. The timebase: clock counts, time quality, reference pulses, time steps, and the commands TIS, TRF and
TIM (chapter Timebase and Reference Discipline). -/

namespace Sys2Proof.Machine

/-! ## Time quality (R125, R136) -/

/-- Why the quality changed (R136). -/
inductive QualityCause where
  | tis
  | pulse
  | step
  | timeout
  | trf
  | wrap
  | resume
  deriving DecidableEq, Repr

/-- The causes of a TQN notice. -/
def QualityCause.text : QualityCause → Text
  | .tis => "TIS".toList
  | .pulse => "PULSE".toList
  | .step => "STEP".toList
  | .timeout => "TIMEOUT".toList
  | .trf => "TRF".toList
  | .wrap => "WRAP".toList
  | .resume => "RESUME".toList

/-- The TQN notice of a change from one quality to another; none where they are equal (R125, R136). -/
def postQuality (before : Quality) (cause : QualityCause) (s : State) : State :=
  if s.tmb.quality = before then s
  else postWithReading .tqn (fun t => [before.text, s.tmb.quality.text, cause.text, timeText t]) s

/-- Change the quality, with its notice (R125, R136). -/
def changeQuality (after : Quality) (cause : QualityCause) (s : State) : State :=
  postQuality s.tmb.quality cause { s with tmb := { s.tmb with quality := after } }

/-- The quality after an accepted TIS (R125). -/
def Quality.afterTis : Quality → Quality
  | .unset => .free
  | q => q

/-- The quality after a corrected pulse with this error (R125, R128). -/
def Quality.afterPulse (q : Quality) (error : Int) : Quality :=
  if q = .unset then .unset
  else if error.natAbs ≤ 33 then .locked
  else if q = .holdover then .locked
  else q

/-- The quality after an automatic step (R125, R130). -/
def Quality.afterStep : Quality → Quality
  | .unset => .unset
  | _ => .locked

/-! ## Time steps (R131) -/

/-- The event detector marks an open record TIME_STEP (R45). -/
def Context.withTimeStep (c : Context) : Context := { c with marks := { c.marks with timeStep := true } }

/-- The signal of a step to the event detector and the interval aggregator (R45, R73); while STOPPED both leave their
state as it is. -/
def signalStep (s : State) : State :=
  if s.svc.measuring then
    { s with
      evd := { s.evd with
        dip := s.evd.dip.map Context.withTimeStep
        swell := s.evd.swell.map Context.withTimeStep
        interruption := s.evd.interruption.map Context.withTimeStep }
      iva := { s.iva with
        interval := s.iva.interval.map (fun i => { i with marks := { i.marks with timeStep := true } })
        period := s.iva.period.map (fun p => { p with reasons := { p.reasons with timeStep := true } })
        pendingStep := true } }
  else s

/-- The cause of the TQN notice of a step. -/
def StepCause.qualityCause : StepCause → QualityCause
  | .host => .tis
  | .broadcast => .tis
  | .reference => .step
  | .wrap => .wrap

/-- In a warm STARTING no block runs but the timebase and the host link (R178). -/
def blocksRun (s : State) : Bool := s.spm.power != .starting || s.spm.startKind != some .warm

/-- Steps 5 and 6 of a time step: its record is offered to the store, and the event detector and the interval aggregator are
signalled (R131). -/
def deliverStep (step : OwedStep) (s : State) : State :=
  signalStep (offerTimeRecord step.payload step.time step.quality s)

/-- The step is owed to the store and to the receivers of its signal until the warm resume (R178, R179, log entry 18). -/
def oweStep (step : OwedStep) (s : State) : State := { s with tmb := { s.tmb with owed := some step } }

/-- Steps 5 and 6 of a time step, at once where the blocks run (R131, R178). -/
def reportStep (step : OwedStep) (s : State) : State := if blocksRun s then deliverStep step s else oweStep step s

/-- An owed step is delivered (log entry 18). -/
def deliverOwed (s : State) : State :=
  match s.tmb.owed with
  | some step => deliverStep step { s with tmb := { s.tmb with owed := none } }
  | none => s

/-- A time step, whatever its cause (R131). The new time in the record's header is the first reading given after the step
(section 6.2, R123, log entry 33). In a warm STARTING, where neither the store nor the receivers of its signal run (R178),
the record and the signals wait for the resume (log entry 18). -/
def timeStep (cause : StepCause) (seconds sub : Nat) (after : Quality) (errors : List Int) (s : State) : State :=
  let old := s.tmb.formed
  let before := s.tmb.quality
  let stepped := { s with tmb := { s.tmb with seconds := seconds, sub := sub, held := false, run := [], quality := after } }
  let new := stepped.tmb.formed
  let step : OwedStep := ⟨timePayload cause old new before after s.tmb.tick errors, new, after⟩
  postQuality before cause.qualityCause (reportStep step (takeReading stepped))

/-! ## The crystal (R121, R122, R174) -/

/-- The clocks run in every power state except OFF (R122). -/
def clocksRun (s : State) : Bool := s.spm.power != .off

/-- The tick counter goes up by 1 and wraps, and with its wrap SPM's wrap count goes up (R122, R174). -/
def countTick (s : State) : State :=
  { s with
    tmb := { s.tmb with tick := s.tmb.tick + 1 }
    spm := { s.spm with
      wrapCount := if s.tmb.tick = 0xFFFFFFFF#32 then saturate max16 (s.spm.wrapCount + 1) else s.spm.wrapCount } }

/-- The RTC goes on by one tick (R121). Its wrap is a time step with cause WRAP; in DORMANT, where no block runs, the count
alone becomes 0 (log entry 18). -/
def countRtc (s : State) : State :=
  if s.tmb.sub < 32767 then { s with tmb := { s.tmb with sub := s.tmb.sub + 1 } }
  else if s.tmb.seconds < max32 then { s with tmb := { s.tmb with seconds := s.tmb.seconds + 1, sub := 0 } }
  else if s.spm.power = .dormant then { s with tmb := { s.tmb with seconds := 0, sub := 0 } }
  else timeStep .wrap 0 0 .unset [] s

/-- One crystal tick (R121, R122, R174). -/
def crystalTick (s : State) : State := if clocksRun s then countRtc (countTick s) else s

/-- The next crystal tick wraps the RTC (R121). -/
def rtcWrapDue (s : State) : Bool := clocksRun s && 32767 ≤ s.tmb.sub && max32 ≤ s.tmb.seconds

/-- The next crystal tick wraps the tick counter (R174). -/
def tickWrapDue (s : State) : Bool := clocksRun s && s.tmb.tick == 0xFFFFFFFF#32

/-- RTC_WRAP (R121): the crystal tick at which the RTC seconds pass 4,294,967,295. No effect at another tick (log
entry 4). -/
def execRtcWrap (s : State) : Host.Outcome State Fault Refusal := .next (if rtcWrapDue s then crystalTick s else s)

/-- TICK_COUNTER_WRAP (R122, R174): the crystal tick at which the tick counter wraps. No effect at another tick (log
entry 4). -/
def execTickCounterWrap (s : State) : Host.Outcome State Fault Refusal := .next (if tickWrapDue s then crystalTick s else s)

/-! ## Reference pulses (R126 to R130) -/

/-- The phase error of a pulse (R127). -/
def phaseError (sub : Nat) : Int := if sub < 16384 then sub else (sub : Int) - 32768

/-- The pulse is a first pulse (R126): no anchor, or more than 36,045 ticks since it. -/
def Tmb.firstPulse (t : Tmb) : Bool :=
  match t.anchor with
  | none => true
  | some a => t.anchorExpired || 36045 < tickSpan a t.tick

/-- The pulse is rejected (R126): less than 29,491 ticks from an anchor that has not expired. -/
def Tmb.rejectsPulse (t : Tmb) : Bool :=
  match t.anchor with
  | none => false
  | some a => !t.firstPulse && tickSpan a t.tick < 29491

/-- What an accepted pulse sets before its error is judged (R126, R127). -/
def Tmb.acceptPulse (t : Tmb) : Tmb :=
  { t with
    anchor := some t.tick
    anchorExpired := false
    watchFrom := some t.tick
    run := if t.firstPulse then [] else t.run
    lastError := some (phaseError t.sub) }

/-- The formed value lies below the last reading given. -/
def Tmb.belowLast (t : Tmb) : Bool :=
  match t.lastReading with
  | some last => t.formed.lt last
  | none => false

/-- The clock after a phase correction: the sub-second count 0, with the seconds and the hold of R128. -/
def correctClock (error : Int) (s : State) : State :=
  if error < 0 then
    if s.tmb.seconds < max32 then { s with tmb := { s.tmb with seconds := s.tmb.seconds + 1, sub := 0 } }
    else timeStep .wrap 0 0 .unset [] s
  else if 0 < error then
    let back := { s.tmb with sub := 0 }
    { s with tmb := { back with held := back.held || back.belowLast } }
  else { s with tmb := { s.tmb with sub := 0 } }

/-- A phase correction (R128). -/
def correctPhase (error : Int) (s : State) : State :=
  let corrected := correctClock error s
  let emptied := { corrected with tmb := { corrected.tmb with run := [] } }
  changeQuality (emptied.tmb.quality.afterPulse error) .pulse emptied

/-- The largest less the smallest of some errors. -/
def errorSpread (errors : List Int) : Int :=
  match errors with
  | [] => 0
  | e :: rest => rest.foldl max e - rest.foldl min e

/-- The disagree run with a new error (R129). -/
def extendRun (run : List Int) (error : Int) : List Int :=
  if run ≠ [] ∧ errorSpread (run ++ [error]) ≤ 66 then run ++ [error] else [error]

/-- The seconds and the quality that an automatic step sets (R130). DESIGN CHOICE: seconds that pass 4,294,967,295 become 0
and leave the quality UNSET, as at the wrap of R121 (log entry 18). -/
def stepTarget (error : Int) (t : Tmb) : Nat × Quality :=
  if error < 0 then
    if t.seconds < max32 then (t.seconds + 1, t.quality.afterStep) else (0, .unset)
  else (t.seconds, t.quality.afterStep)

/-- A disagreeing pulse (R129), and the automatic step of the one that completes a run (R130). DESIGN CHOICE: a step past the
last second stays one step, with cause REFERENCE and its errors in the record and STEP in the notice (log entry 18). -/
def disagree (error : Int) (s : State) : State :=
  let run := extendRun s.tmb.run error
  if run.length < 3 then { s with tmb := { s.tmb with run := run } }
  else timeStep .reference (stepTarget error s.tmb).1 0 (stepTarget error s.tmb).2 run s

/-- An edge of RPS that is a pulse (R126, R127). -/
def takePulse (s : State) : State :=
  if s.tmb.rejectsPulse then { s with tmb := { s.tmb with rejected := saturate max16 (s.tmb.rejected + 1) } }
  else
    let error := phaseError s.tmb.sub
    let accepted := { s with tmb := s.tmb.acceptPulse }
    if error.natAbs ≤ 3277 then correctPhase error accepted else disagree error accepted

/-- An edge is a pulse (R126). -/
def isPulse (edge : Polarity) (s : State) : Bool := s.tmb.enabled && sampling s && edge == s.tmb.polarity

/-- REFERENCE_PULSE (R126): an edge on RPS. An edge that is no pulse changes nothing. -/
def execReferencePulse (edge : Polarity) (s : State) : Host.Outcome State Fault Refusal :=
  .next (if isPulse edge s then takePulse s else s)

/-! ## Timed events -/

/-- The pulse anchor expires: more than 36,045 ticks have passed since it was set (R126, log entry 19). -/
def anchorExpiryDue (s : State) : Bool :=
  match s.tmb.anchor with
  | some a => !s.tmb.anchorExpired && 36045 < tickSpan a s.tmb.tick
  | none => false

/-- The anchor stays present; the next accepted pulse is a first pulse (R126). -/
def expireAnchor (s : State) : State := { s with tmb := { s.tmb with anchorExpired := true } }

/-- PULSE_ANCHOR_EXPIRY (R126). No effect before the expiry is due (log entry 4). -/
def execPulseAnchorExpiry (s : State) : Host.Outcome State Fault Refusal :=
  .next (if anchorExpiryDue s then expireAnchor s else s)

/-- 98,304 ticks have passed without an accepted pulse while LOCKED (R132). -/
def holdoverDue (s : State) : Bool :=
  match s.tmb.watchFrom with
  | some w => s.tmb.quality == .locked && sampling s && 98304 ≤ tickSpan w s.tmb.tick
  | none => false

/-- The quality becomes HOLDOVER (R132). -/
def enterHoldover (s : State) : State := changeQuality .holdover .timeout s

/-- HOLDOVER_TIMEOUT (R132). No effect before it is due (log entry 4). -/
def execHoldoverTimeout (s : State) : Host.Outcome State Fault Refusal :=
  .next (if holdoverDue s then enterHoldover s else s)

/-! ## Commands (R133 to R135) -/

/-- The text of the reference settings: ON or OFF. -/
def enabledText (enabled : Bool) : Text := if enabled then "ON".toList else "OFF".toList

/-- RISE, FALL. -/
def polarityText : Polarity → Text
  | .rise => "RISE".toList
  | .fall => "FALL".toList

/-- An accepted TIS (R133). -/
def setTime (broadcast : Bool) (seconds ms : Nat) (s : State) : State :=
  let stepped :=
    timeStep (if broadcast then .broadcast else .host) seconds (msToSub ms) s.tmb.quality.afterTis [] s
  answer .ok [timeText stepped.tmb.formed, stepped.tmb.quality.text] stepped

/-- The numbers of TIS's fields; a missing ms part is 0 (R133). -/
def readTisFields : List Text → Option (Nat × Nat)
  | [seconds] => (readNat seconds).map (fun n => (n, 0))
  | [seconds, ms] => (readNat seconds).bind (fun n => (readNat ms).map (fun m => (n, m)))
  | _ => none

/-- TIS (R133). -/
def runTis (broadcast : Bool) (fields : List Text) (s : State) : State :=
  match readTisFields fields with
  | none => answer .syn [] s
  | some (seconds, ms) =>
    if seconds ≤ max32 ∧ ms ≤ 999 then setTime broadcast seconds ms s else answer .rng [] s

/-- The fields of TRF (R134). -/
def readTrfFields (fields : List Text) : Option (Bool × Polarity) :=
  match fields with
  | [state, polarity] =>
    (if state = "ON".toList then some true else if state = "OFF".toList then some false else none).bind (fun e =>
      (if polarity = "RISE".toList then some (e, .rise) else if polarity = "FALL".toList then some (e, .fall) else none))
  | _ => none

/-- The timebase with new reference settings and its pulse state reset (R134, steps 1 and 2). After it the holdover
count runs from this tick (R132). -/
def Tmb.withReference (t : Tmb) (enabled : Bool) (polarity : Polarity) : Tmb :=
  { t with
    enabled := enabled
    polarity := polarity
    anchor := none
    anchorExpired := false
    run := []
    lastError := none
    rejected := 0
    watchFrom := some t.tick }

/-- An accepted TRF (R134). -/
def setReference (enabled : Bool) (polarity : Polarity) (s : State) : State :=
  let written := { s with tmb := s.tmb.withReference enabled polarity }
  let judged := if ¬ enabled ∧ s.tmb.quality = .locked then changeQuality .holdover .trf written else written
  answer .ok [enabledText enabled, polarityText polarity] (offerSettings .reference judged)

/-- TRF (R134). -/
def runTrf (fields : List Text) (s : State) : State :=
  match readTrfFields fields with
  | none => answer .syn [] s
  | some (enabled, polarity) => setReference enabled polarity s

/-- The reply fields of TIM (R135), from the reading handed out and the timebase after it. -/
def timFields (given : Time) (t : Tmb) : List Text :=
  [timeText given, bitText t.held, num t.seconds, num t.sub, num t.tick.toNat, t.quality.text, enabledText t.enabled,
    polarityText t.polarity, optText int t.lastError, optText (fun a => num (tickSpan a t.tick)) t.anchor]
    ++ countedList (t.run.map int) ++ [num t.rejected]

/-- TIM (R135): its reading counts as a reading given. -/
def runTim (fields : List Text) (s : State) : State :=
  if fields ≠ [] then answer .syn [] s
  else
    let taken := takeReading s
    answer .ok (timFields (reading s) taken.tmb) taken

end Sys2Proof.Machine
end

