-- ==== Sys2Proof/Machine/Power.lean ====
section
/-! DEFINITION. The supply monitor: ride-through, commitment, dormancy, OFF and the restarts (chapter Supply Loss,
Ride-Through and Restart). -/

namespace Sys2Proof.Machine

/-! ## Notices (R181) -/

/-- A PWN notice (R181). -/
def postPower (event : String) (further : List Text) (s : State) : State :=
  postWithReading .pwn (fun t => [event.toList, timeText t, s.spm.backup.text, num s.evs.pwq.length] ++ further) s

/-! ## Link settings put in force, and the link switched off (R186, R195, R197) -/

/-- The receive buffer and any frame in reception are discarded. -/
def Hlk.discardFrames (h : Hlk) : Hlk := { h with buffer := [], reception := none }

/-- Link settings come into force (R186, R197). -/
def Hlk.inForce (h : Hlk) (l : LinkSettings) : Hlk := { h.discardFrames with settings := l }

/-- Settings chosen at a cold start take effect once the transmitter is IDLE (R186). -/
def Hlk.adopt (h : Hlk) : Hlk :=
  match h.adoption with
  | some l => { h.inForce l with adoption := none }
  | none => h

/-- The notice queue with a notice put back at its head (R195). -/
def Hlk.putBack (h : Hlk) (n : Notice) : Hlk :=
  { h with notices := (n :: h.notices).take 16, overflow := h.overflow || 16 ≤ h.notices.length }

/-- A notice whose transmission is cut off is put back (R195). -/
def Hlk.cutOff (h : Hlk) : Hlk :=
  match h.transmitter with
  | .notice n _ => h.putBack n
  | .reply _ _ => h
  | .idle => h

/-- The link switched off (R195, R178). Settings that waited for the transmitter are in force from here. -/
def Hlk.switchedOff (h : Hlk) : Hlk :=
  Hlk.adopt { h.cutOff.discardFrames with inProgress := none, reply := none, transmitter := .idle }

/-! ## Starting (R177, R178, R180) -/

/-- The ticks of the restart qualification (section 8.1). -/
abbrev qualificationTicks : Tick := 3277#32

/-- SPM at the entry to a cold start (R180, R184). -/
def Spm.cold (m : Spm) (reason : ColdReason) (backup : Indication) : Spm :=
  { Spm.coldPowerUp backup with
    coldReason := some reason
    abortedRestarts := match reason with
      | .powerUp => 0
      | .context => m.abortedRestarts }

/-- The entry to a cold start (R180): every block takes its cold-start values, the medium stays, and the link comes up
with the strap as sampled (R186). -/
def coldStart (reason : ColdReason) (s : State) : State where
  ich := Ich.cold
  cyt := Cyt.cold
  hcu := Hcu.cold
  evd := Evd.cold
  iva := Iva.cold
  tlb := Tlb.cold
  svc := Svc.cold
  tmb := Tmb.cold
  evs := Evs.cold s.evs.medium
  spm := s.spm.cold reason (match reason with
    | .powerUp => s.pins.backup
    | .context => s.spm.backup)
  hlk := Hlk.cold s.pins.defcomLow
  pins := s.pins
  pending := s.pending

/-- STARTING for a warm start (R178, R195): the link goes on with what it kept, and the backup cell holds the retained
context as it is. -/
def warmStart (s : State) : State :=
  transmit { s with spm := { s.spm with
      power := .starting
      supply := .good
      startKind := some .warm
      kept := some ⟨s.tmb, s.hlk⟩
      qualification := some (s.tmb.tick + qualificationTicks) } }

/-- The check word of bytes (R176): the CRC-32 of R144 with the preset 0xFFFFFFFF. -/
def checkWordOf (bytes : List Byte) : BitVec 32 := crc32 0xFFFFFFFF#32 bytes

/-- The retained context as it stands on the backup cell: the bytes found there, else those of the context as the blocks
keep it (log entry 6). -/
def contextBytes (found : Option (List Byte)) (s : State) : List Byte := found.getD (Config.contextImage s.retained)

/-- The check word agrees with the context as it stands (R176). -/
def contextAgrees (found : Option (List Byte)) (s : State) : Bool := s.spm.checkWord == some (checkWordOf (contextBytes found s))

/-- The check word is computed over the retained context and stored with it (R175, R176, R178). -/
def storeCheckWord (s : State) : State :=
  { s with spm := { s.spm with checkWord := some (checkWordOf (Config.contextImage s.retained)) } }

/-- A supply-good in DORMANT (R176, R178, R180). -/
def wake (found : Option (List Byte)) (s : State) : State :=
  if contextAgrees found s then warmStart s else coldStart .context s

/-- SPM in OFF (R177). -/
def Spm.off (m : Spm) : Spm :=
  { Spm.coldPowerUp m.backup with
    power := .off
    supply := m.supply
    startKind := none
    qualification := none
    coldReason := none }

/-- OFF (R177): the clocks and the retained context are lost; the medium stays (log entry 32). -/
def wiped (s : State) : State where
  ich := Ich.cold
  cyt := Cyt.cold
  hcu := Hcu.cold
  evd := Evd.cold
  iva := Iva.cold
  tlb := Tlb.cold
  svc := Svc.cold
  tmb := Tmb.cold
  evs := Evs.cold s.evs.medium
  spm := s.spm.off
  hlk := Hlk.cold false
  pins := s.pins
  pending := s.pending

/-- The entry to OFF, which a GOOD supply turns into a cold start at once (R177). -/
def enterOff (s : State) : State := if s.spm.supply = .good then coldStart .powerUp (wiped s) else wiped s

/-! ## Dormancy (R174, R175) -/

/-- What each block keeps at dormancy entry (R7, R75, R137, R160, R168, R195). -/
def blocksAtDormancy (s : State) : State :=
  { s with
    ich := { s.ich with windowOpen := false }
    iva := s.iva.atDormancy
    tmb := { s.tmb with anchor := none, anchorExpired := false }
    evs := { s.evs with waitingRead := none, steWaiting := false }
    hlk := s.hlk.switchedOff }

/-- SPM notes the dormancy entry (R174). -/
def noteDormancy (s : State) : State :=
  let taken := takeReading s
  { taken with spm := { taken.spm with dormancyEntry := some ⟨extendedTick s, reading s⟩ } }

/-- The entry to DORMANT with the dormancy entry noted and the context sealed (R174, R175). -/
def sealContext (s : State) : State :=
  let kept := blocksAtDormancy (noteDormancy s)
  storeCheckWord { kept with spm := { kept.spm with
      power := .dormant
      rideTimer := none
      committed := false
      commitWaiting := false } }

/-- The end of the drain (R173, R175, R177, R178). -/
def enterDormant (s : State) : State :=
  if s.spm.backup = .failed then enterOff s
  else
    let dormant := sealContext s
    if s.spm.supply = .good then wake none dormant else dormant

/-- The timebase and the host link take their part of the retained context back from the backup cell; the clocks ran on
(R176, R178, R195). -/
def takeBackKept (s : State) : State :=
  match s.spm.kept with
  | some k => { s with tmb := { k.tmb with seconds := s.tmb.seconds, sub := s.tmb.sub, tick := s.tmb.tick }, hlk := k.hlk }
  | none => s

/-- DORMANT again: the link is switched off, and no start is in progress (R178, R180). -/
def fallDormant (s : State) : State :=
  { s with
    hlk := s.hlk.switchedOff
    spm := { s.spm with power := .dormant, startKind := none, coldReason := none, abortPending := false, kept := none } }

/-- DORMANT again after a start given up: a warm one has the retained context as it was, with the new count of aborted
restarts, its check word computed again and its dormancy entry kept; a cold one notes the entry and has no check word that
agrees (R174, R178, R180, R195). -/
def returnDormant (s : State) : State :=
  if s.spm.startKind = some .warm then storeCheckWord (fallDormant (takeBackKept s))
  else
    let dormant := fallDormant s
    noteDormancy { dormant with spm := { dormant.spm with checkWord := none } }

/-- A start given up (R178, R180): DORMANT, or OFF. -/
def giveUpStart (s : State) : State :=
  if s.spm.backup = .failed then enterOff s
  else if s.spm.supply = .good then wake none (returnDormant s)
  else returnDormant s

/-! ## SUPPLY_FAIL (R170, R178, R180) -/

/-- The ticks of the ride-through window (section 8.1). -/
abbrev rideTicks : Tick := 65536#32

/-- A supply-fail in RUN (R170). -/
def beginRideThrough (s : State) : State :=
  let taken := takeReading s
  postPower "FAIL" [] { taken with
    evs := { taken.evs with mode := .drain }
    spm := { taken.spm with
      power := .rideThrough
      supply := .failed
      rideTimer := some (s.tmb.tick + rideTicks)
      committed := false
      failTime := reading s } }

/-- SPM when a start is given up: one more aborted restart (R178, R180). -/
def Spm.abort (m : Spm) : Spm :=
  { m with
    supply := .failed
    qualification := none
    abortedRestarts := saturate max16 (m.abortedRestarts + 1) }

/-- A supply-fail in STARTING (R178, R180). A program or erase in flight is completed first; a scan read is abandoned. -/
def abortStart (s : State) : State :=
  let aborted := { s with spm := s.spm.abort }
  match s.evs.activity with
  | .program _ _ _ => { aborted with spm := { aborted.spm with abortPending := true } }
  | .erase _ => { aborted with spm := { aborted.spm with abortPending := true } }
  | .scan => giveUpStart { aborted with evs := { aborted.evs with activity := .idle } }
  | .read _ _ => giveUpStart aborted
  | .idle => giveUpStart aborted

/-- The supply indication alone changes. -/
def noteSupply (i : Indication) (s : State) : State := { s with spm := { s.spm with supply := i } }

/-- A supply-fail (R170, R178, R180). A further one while a start given up waits for its program or erase sets the supply
indication alone: it is not counted again (log entry 39). -/
def supplyFails (s : State) : State :=
  match s.spm.power with
  | .run => beginRideThrough s
  | .rideThrough => noteSupply .failed s
  | .starting => if s.spm.abortPending then noteSupply .failed s else abortStart s
  | .dormant => s
  | .off => s

/-- SUPPLY_FAIL (R170, R178, R180). -/
def execSupplyFail (s : State) : Host.Outcome State Fault Refusal := .next (supplyFails s)

/-! ## SUPPLY_GOOD (R171, R177, R178) -/

/-- The ticks spent in RIDE_THROUGH, which began one window before its timer (R170, R171). -/
def rideSpan (s : State) : Nat := (s.spm.rideTimer.map (fun t => tickSpan (t - rideTicks) s.tmb.tick)).getD 0

/-- A supply-good before the window ends (R171). -/
def recover (s : State) : State :=
  let back := { s with
    evs := { s.evs with mode := modeAtRun s.evs }
    spm := { s.spm with power := .run, supply := .good, rideTimer := none } }
  postPower "RECOVERED" [num (ticksToMs (rideSpan s))] back

/-- A supply-good (R171, R177, R178), with the strap as it stands and the context as the backup cell holds it (log entry 6). -/
def supplyReturns (contextFound : Option (List Byte)) (defcomLow : Bool) (s : State) : State :=
  let s := { s with pins := { s.pins with defcomLow := defcomLow } }
  match s.spm.power with
  | .run => noteSupply .good s
  | .rideThrough => if s.spm.committed then noteSupply .good s else recover s
  | .starting => noteSupply .good s
  | .dormant => wake contextFound s
  | .off => coldStart .powerUp s

/-- SUPPLY_GOOD (R171, R177, R178). -/
def execSupplyGood (contextFound : Option (List Byte)) (defcomLow : Bool) (s : State) : Host.Outcome State Fault Refusal :=
  .next (supplyReturns contextFound defcomLow s)

/-! ## BACKUP_FAIL and BACKUP_GOOD (R169) -/

/-- The backup comparator changes; SPM keeps the indication in every power state except OFF (R169). -/
def noteBackup (i : Indication) (s : State) : State :=
  { s with
    pins := { s.pins with backup := i }
    spm := { s.spm with backup := if s.spm.power = .off then s.spm.backup else i } }

/-- BACKUP_FAIL (R169): in DORMANT the power state becomes OFF. -/
def execBackupFail (s : State) : Host.Outcome State Fault Refusal :=
  .next (if s.spm.power = .dormant then enterOff (noteBackup .failed s) else noteBackup .failed s)

/-- BACKUP_GOOD (R169). -/
def execBackupGood (s : State) : Host.Outcome State Fault Refusal := .next (noteBackup .good s)

/-! ## RIDE_THROUGH_WINDOW_END (R172, R173) -/

/-- The store cannot drain further: its queue is empty, or it is FULL or FAULT (R173). -/
def drained (e : Evs) : Bool := e.pwq == [] || e.state == .full || e.state == .fault

/-- The drain ends here where no operation is in flight and the store is drained (R173). -/
def endDrain (s : State) : State := if s.evs.activity = .idle ∧ drained s.evs then enterDormant s else s

/-- The DORMANT power record (R183). -/
def dormantRecord (s : State) : List Byte :=
  dormantPayload s.spm.failTime s.spm.windowEndTime s.evs.pwq.length s.evs.state s.svc.measuring s.svc.survey.state
    s.spm.backup s.evd.listing

/-- Steps 2 to 4 of the commitment (R172). -/
def commit (s : State) : State :=
  endDrain (postPower "COMMIT" [optText num (offeredSequence s)]
    (offer .pwr (dormantRecord s) { s with spm := { s.spm with commitWaiting := false } }))

/-- The window ends (R172): step 1 waits for an operation in flight. -/
def endWindowOfRide (s : State) : State :=
  let taken := takeReading s
  let committed := { taken with spm := { taken.spm with
      committed := true
      commitWaiting := true
      rideTimer := none
      windowEndTime := reading s } }
  if s.evs.activity = .idle then commit committed else committed

/-- The tick counter has reached the ride-through timer (R172). -/
def windowEndDue (s : State) : Bool :=
  s.spm.power == .rideThrough && s.spm.rideTimer.any (fun t => tickReached s.tmb.tick t)

/-- RIDE_THROUGH_WINDOW_END (R172). No effect before the window ends (log entry 4). -/
def execRideThroughWindowEnd (s : State) : Host.Outcome State Fault Refusal :=
  .next (if windowEndDue s then endWindowOfRide s else s)

/-! ## QUALIFICATION_END (R178 to R180) -/

/-- The tick counter has reached the qualification timer (R178). -/
def qualificationDue (s : State) : Bool :=
  s.spm.power == .starting && s.spm.qualification.any (fun t => tickReached s.tmb.tick t)

/-- The dormancy span of a warm resume, in ms (R182). -/
def dormancySpan (s : State) : Nat :=
  durationMs ((s.spm.dormancyEntry.map (fun d => extendedTick s - d.extended)).getD 0)

/-- The time of the dormancy entry. -/
def dormancyTime (s : State) : Time := (s.spm.dormancyEntry.map DormancyEntry.time).getD ⟨0, 0⟩

/-- The RESUMED power record (R183), with the time of the entry to RUN. -/
def resumedRecord (entry : Time) (s : State) : List Byte :=
  resumedPayload (dormancyTime s) entry (dormancySpan s) s.spm.abortedRestarts s.evd.openCount s.svc.measuring
    s.svc.survey.state s.spm.backup

/-- The power state becomes RUN: no start kind, qualification timer or cold reason is left (R184), and the copy on the backup
cell has ceased to be the retained context (R176). -/
def Spm.running (m : Spm) : Spm :=
  { m with
    power := .run
    supply := .good
    startKind := none
    qualification := none
    coldReason := none
    checkWord := none
    kept := none }

/-- Step 2 of the warm resume (R137, R179). -/
def resumeTimebase (s : State) : State := if s.tmb.quality = .locked then changeQuality .holdover .resume s else s

/-- Step 3 of the warm resume (R147, R168, R179). The medium's next choice falls here, before the RESUMED record is queued
(log entry 37). -/
def resumeStore (s : State) : State := mediumChoice { s with evs := { s.evs with mode := modeAtRun s.evs } }

/-- Steps 4 to 6 of the warm resume (R179). -/
def announceResume (s : State) : State :=
  let queued := offer .pwr (resumedRecord (reading s) s) (takeReading s)
  let posted := postPower "RESUMED"
    [num (dormancySpan s), num s.spm.abortedRestarts, optText num (offeredSequence s)] queued
  { posted with spm := { posted.spm with abortedRestarts := 0 } }

/-- The warm resume (R179). A time step owed since the STARTING is delivered once the store runs, and before the RESUMED
record (R131, log entry 18). The next report and the next boundary are the first after it (R49, R75). -/
def warmResume (s : State) : State :=
  let started := startSampling (announceResume (deliverOwed (resumeStore (resumeTimebase { s with spm := s.spm.running }))))
  { started with
    evd := { started.evd with resumed := true }
    iva := { started.iva with resumed := true } }

/-- The scan begins when a cold qualification ends (R165, R180). -/
def startScan (s : State) : State :=
  { s with
    spm := { s.spm with qualification := none }
    evs := { s.evs with activity := .scan } }

/-- The end of the qualification, by the start kind (R178). -/
def endQualification (s : State) : State :=
  match s.spm.startKind with
  | some .warm => warmResume s
  | some .cold => startScan s
  | none => s

/-- QUALIFICATION_END (R178). No effect before it is due (log entry 4). -/
def execQualificationEnd (s : State) : Host.Outcome State Fault Refusal :=
  .next (if qualificationDue s then endQualification s else s)

end Sys2Proof.Machine
end

