-- ==== Sys2Proof/Machine/Store.lean ====
section
/-! DEFINITION. The evidence store: completions of the medium, the ring, erase-all, the cold-start scan with what is
restored from it, and the commands RDR, RDX, RDN, STQ and STE (chapter Evidence Store). -/

namespace Sys2Proof.Machine

/-! ## STE and the erase-all (R161, R162) -/

/-- The range of sequences that an erase-all erases (R161, step 1). -/
def heldRange (e : Evs) : Option (Nat × Nat) := e.oldestSequence.map (fun q => (q, e.lastStored.getD 0))

/-- The sector at which an erase-all begins (R161, step 4). -/
def eraseAllStart (e : Evs) : Nat := sectorOf (e.oldest.getD e.writePosition)

/-- EVS as an accepted STE leaves it (R161). -/
def Evs.erasingAll (e : Evs) : Evs :=
  { e with
    erasedRange := heldRange e
    sectors := List.replicate 1024 { Sector.empty with condition := .closed }
    oldest := none
    oldestSequence := none
    missing := []
    writePosition := 32 * eraseAllStart e
    front := eraseAllStart e
    erasedCount := 0
    due := none
    state := .erasingAll }

/-- An STE is accepted (R161). -/
def Evs.acceptsSte (e : Evs) : Bool := e.state == .ready && e.protectionStart.isNone

/-- STE taken with the medium IDLE (R161). The first erase of one that is accepted is left to the medium's next choice, so
at a completion the end of the drain is judged before it (R173, log entry 33). -/
def takeSte (s : State) : State :=
  match s.evs.state with
  | .ready => if s.evs.acceptsSte then answer .ok [] { s with evs := s.evs.erasingAll } else answer .lck [] s
  | .full => answer .lck [] s
  | .fault => answer .stt [] s
  | .erasingAll => answer .stt [] s
  | .scanning => answer .stt [] s

/-- STE (R161): with an operation in flight it waits for the completion. -/
def runSte (fields : List Text) (s : State) : State :=
  if fields ≠ [] then answer .syn [] s
  else if s.evs.activity = .idle then (if s.evs.acceptsSte then mediumChoice (takeSte s) else takeSte s)
  else { s with evs := { s.evs with steWaiting := true } }

/-- The STO record (R162). -/
def offerErased (normal : Bool) (s : State) : State :=
  offer .sto (erasedPayload s.evs.erasedRange s.evs.erasedCount normal) s

/-- The store enters FAULT; an erase-all ends there with its record (R155, R162). -/
def enterFault (reason : String) (s : State) : State :=
  let entered := postStore "ENTER" .fault reason { s with evs := { s.evs with state := .fault } }
  if s.evs.state = .erasingAll then offerErased false entered else entered

/-! ## What follows a completion (R148, R161, R172, R173, R180) -/

/-- A waiting STE is taken on the state that the completion leaves (R161). -/
def takeWaitingSte (s : State) : State :=
  if s.evs.steWaiting then takeSte { s with evs := { s.evs with steWaiting := false } } else s

/-- The supply monitor's part in a completion: a start given up ends, a waiting commitment is made, or the drain is
judged; otherwise the medium's next operation is chosen (log entry 33). -/
def superviseCompletion (s : State) : State :=
  if s.spm.abortPending then giveUpStart s
  else if s.spm.commitWaiting then mediumChoice (commit s)
  else if s.spm.committed ∧ s.evs.activity = .idle ∧ drained s.evs then enterDormant s
  else mediumChoice s

/-- The medium becomes IDLE, and what waited for it goes on. -/
def completed (s : State) : State :=
  superviseCompletion (takeWaitingSte { s with evs := { s.evs with activity := .idle } })

/-! ## PROGRAM_COMPLETE (R149, R150) -/

/-- Change one entry of the sector table. -/
def Evs.updateSector (e : Evs) (sector : Nat) (f : Sector → Sector) : Evs :=
  { e with sectors := e.sectors.set sector (f (sectorAt e sector)) }

/-- The write position lies at the first slot of a CLOSED sector whose erase is due and held (R149, step 8). -/
def atHeldSector (e : Evs) : Bool :=
  e.writePosition % 32 == 0 && (sectorAt e (sectorOf e.writePosition)).condition == .closed
    && e.due == some (sectorOf e.writePosition) && eraseHeld e (sectorOf e.writePosition)

/-- Step 8 of R149: READY becomes FULL (R153). -/
def judgeFull (s : State) : State :=
  if s.evs.state = .ready ∧ atHeldSector s.evs then
    postStore "ENTER" .full "PROTECTION" { s with evs := { s.evs with state := .full } }
  else s

/-- Steps 1 to 6 of R149. -/
def Evs.programmed (e : Evs) (slot : Nat) (r : Record) (check : BitVec 32) : Evs :=
  let counted := e.updateSector (sectorOf slot) (fun x =>
    { x with valid := x.valid + 1, first := some (x.first.getD r.sequence) })
  { counted with
    pwq := e.pwq.tail
    lastStored := some r.sequence
    lastCheck := check
    oldest := some (e.oldest.getD slot)
    oldestSequence := if e.oldest = none then some r.sequence else e.oldestSequence
    failures := 0
    writePosition := nextSlot slot }

/-- Step 7 of R149: the mode is judged again (R147). -/
def modeAfterProgram (power : PowerState) (e : Evs) : StoreMode :=
  if e.mode = .drain ∧ e.pwq.length ≤ 8 ∧ power = .run then .normal else e.mode

/-- A successful program (R149). -/
def programSucceeds (slot : Nat) (check : BitVec 32) (s : State) : State :=
  match s.evs.pwq with
  | [] => s
  | r :: _ =>
    let stored := s.evs.programmed slot r check
    judgeFull { s with evs := { stored with mode := modeAfterProgram s.spm.power stored } }

/-- A failed program (R150). -/
def programFails (slot : Nat) (s : State) : State :=
  let voided := s.evs.updateSector (sectorOf slot) (fun x => { x with voids := x.voids ++ [slot % 32] })
  let moved := { s with evs := { voided with writePosition := nextSlot slot } }
  if s.evs.failures = 0 then judgeFull { moved with evs := { moved.evs with failures := 1 } }
  else enterFault "PROGRAM_FAILURE" moved

/-- The end of a program with what the slot reads back (R140, R149, R150). -/
def programEnds (slot : Nat) (image : List Byte) (check : BitVec 32) (readBack : Option (List Byte)) (s : State) : State :=
  let bytes := readBack.getD image
  let written := { s with evs := { s.evs with medium := s.evs.medium.writeSlot slot bytes } }
  completed (if bytes = image then programSucceeds slot check written else programFails slot written)

/-- PROGRAM_COMPLETE (R149, R150). No effect where no program is in flight (log entry 4). -/
def execProgramComplete (readBack : Option (List Byte)) (s : State) : Host.Outcome State Fault Refusal :=
  .next (match s.evs.activity with
    | .program slot image check => programEnds slot image check readBack s
    | .idle => s
    | .read _ _ => s
    | .scan => s
    | .erase _ => s)

/-! ## The cold-start scan (R165 to R167) -/

/-- The programmed slots of a medium in rising order (R140). -/
def programmedSlots : Memory → List Nat
  | [] => []
  | c :: rest =>
    match programmedSlots rest with
    | [] => [c.1 / 128]
    | n :: more => if n = c.1 / 128 then n :: more else c.1 / 128 :: n :: more

/-- The well-formed slot with the lowest sequence number (R165); the first of several in ring order (log entry 16). -/
def anchorOf (m : Memory) (slots : List Nat) : Option Nat :=
  ((slots.filter (fun n => slotWellFormed (m.slot n))).foldl (fun (best : Option (Nat × Nat)) n =>
    let q := slotSequence (m.slot n)
    if best.all (fun b => q < b.1) then some (q, n) else best) none).map Prod.snd

/-- Where the walk stands: the valid slots so far with the newest first, the void slots, the chain breaks, the check of
the last valid slot and, where the slot before is void, that slot's stored check (R165). -/
structure Walk where
  valid : List Nat
  voids : List Nat
  breaks : Nat
  check : BitVec 32
  voidCheck : Option (BitVec 32)
  deriving DecidableEq, Repr

/-- A slot is valid. -/
def Walk.accept (w : Walk) (n : Nat) (check : BitVec 32) (breaks : Nat) : Walk :=
  { w with valid := n :: w.valid, breaks := w.breaks + breaks, check := check, voidCheck := none }

/-- A slot is void. -/
def Walk.reject (w : Walk) (n : Nat) (check : BitVec 32) : Walk := { w with voids := n :: w.voids, voidCheck := some check }

/-- One programmed slot after the anchor is judged (R165). -/
def Walk.judge (m : Memory) (w : Walk) (n : Nat) : Walk :=
  let bytes := m.slot n
  let check := slotCheck bytes
  if ¬ slotWellFormed bytes then w.reject n check
  else if check = crc32 w.check (bytes.take 124) then w.accept n check 0
  else if w.voidCheck.any (fun preset => check == crc32 preset (bytes.take 124)) then w.accept n check 1
  else w.reject n check

/-- The walk over the whole ring (R165). -/
def walkRing (m : Memory) (slots : List Nat) : Walk :=
  match anchorOf m slots with
  | some a =>
    (slots.filter (fun n => a < n) ++ slots.filter (fun n => n < a)).foldl (Walk.judge m)
      ⟨[a], [], 0, slotCheck (m.slot a), none⟩
  | none => ⟨[], slots, 0, 0xFFFFFFFF#32, none⟩

/-- The write position after a newest valid record (R166). -/
def scannedWritePosition (slots : List Nat) (newest : Nat) : Nat :=
  let inSector := (slots.filter (fun n => sectorOf n = sectorOf newest)).foldl max newest
  if sectorOf (inSector + 1) = sectorOf newest then inSector + 1 else 32 * nextSector (sectorOf newest)

/-- The entry of one sector after the walk (R166). A sector that holds the write position at its first slot and is not
erased is CLOSED (log entry 16). -/
def scannedSector (m : Memory) (slots : List Nat) (w : Walk) (writePosition sector : Nat) : Sector :=
  let programmed := slots.filter (fun n => sectorOf n = sector)
  let valid := programmed.filter w.valid.contains
  { condition :=
      if programmed = [] then .erased
      else if sectorOf writePosition = sector ∧ writePosition % 32 ≠ 0 then .writing
      else .closed
    first := valid.head?.map (fun n => slotSequence (m.slot n))
    valid := valid.length
    voids := (programmed.filter w.voids.contains).map (fun n => n % 32) }

/-- The sector table after the walk (R166): a sector with no programmed slot is ERASED. -/
def scannedSectors (m : Memory) (slots : List Nat) (w : Walk) (writePosition : Nat) : List Sector :=
  ((slots.map sectorOf).dedup).foldl (fun table sector => table.set sector (scannedSector m slots w writePosition sector))
    (List.replicate 1024 Sector.empty)

/-- The runs of sequences between two records that are neighbours on the medium, from the sequences of the valid records
with the newest first (R156). -/
def missingRuns : List Nat → List (Nat × Nat)
  | [] => []
  | [_] => []
  | later :: earlier :: rest =>
    let more := missingRuns (earlier :: rest)
    if earlier + 1 < later then (earlier + 1, later - 1) :: more else more

/-- EVS after the walk (R166). -/
def scanned (e : Evs) (slots : List Nat) (w : Walk) : Evs :=
  let found := { e with voidFound := w.voids.length, breaksFound := w.breaks }
  let sequences := w.valid.map (fun n => slotSequence (e.medium.slot n))
  match w.valid with
  | [] => found
  | newest :: _ =>
    { found with
      lastStored := some (slotSequence (e.medium.slot newest))
      lastIssued := some (slotSequence (e.medium.slot newest))
      lastCheck := w.check
      oldest := w.valid.getLast?
      oldestSequence := sequences.getLast?
      missing := missingRuns sequences
      writePosition := scannedWritePosition slots newest
      sectors := scannedSectors e.medium slots w (scannedWritePosition slots newest) }

/-- A stored record as the other blocks recover from it (R167). -/
def storedRecord (m : Memory) (n : Nat) : Option StoredRecord :=
  let bytes := m.slot n
  (recordKindOf (fieldAt bytes 4 1)).map (fun k =>
    ⟨slotSequence bytes, k, BitVec.ofNat 16 (fieldAt bytes 12 2), slotProducer bytes⟩)

/-- The newest record of some kinds among the valid slots (R167, step 2). -/
def newestOf (m : Memory) (valid : List Nat) (kinds : List RecordKind) : Option StoredRecord :=
  (valid.filterMap (storedRecord m)).find? (fun r => kinds.contains r.kind)

/-- The last event number of the newest valid record (R46, R167 step 1). -/
def recoveredCounter (m : Memory) (valid : List Nat) : BitVec 32 :=
  match valid with
  | n :: _ => BitVec.ofNat 32 (fieldAt (m.slot n) 8 4)
  | [] => 0

/-- An SVY record is a START (R108); any other subtype is taken as a RELEASE (log entry 38). -/
def StoredRecord.isStart (r : StoredRecord) : Bool := r.kind == .svy && fieldAt r.payload 0 1 == 1

/-- The protection start that a survey or verdict record gives (R120, R167 step 3). -/
def recoveredProtection (r : Option StoredRecord) : Option Nat :=
  match r with
  | some x => if x.kind = .vdt then some (fieldAt x.payload 1 4) else if x.isStart then some x.sequence else none
  | none => none

/-- The erase due after a scan (R167, step 4). -/
def scannedDue (e : Evs) : Option Nat :=
  let sector := sectorOf e.writePosition
  if e.writePosition % 32 = 0 ∧ (sectorAt e sector).condition ≠ .erased then some sector
  else if (sectorAt e (nextSector sector)).condition ≠ .erased then some (nextSector sector)
  else none

/-- Steps 1 to 4 of R167, on the walk. -/
def handOverScan (w : Walk) (s : State) : State :=
  let m := s.evs.medium
  let recovery : Recovery :=
    ⟨newestOf m w.valid [.cfg], newestOf m w.valid [.mea], newestOf m w.valid [.svy, .vdt]⟩
  let kept := { s.evs with recovery := recovery, protectionStart := recoveredProtection recovery.survey }
  { s with
    evd := { s.evd with counter := recoveredCounter m w.valid }
    evs := { kept with due := scannedDue kept } }

/-! ## The restore (R119, R186), the recovery (R120) and the end of a cold start (R180) -/

/-- The link settings chosen at a cold start and the configuration mark (R186). -/
def chooseLink (defcomLow : Bool) (stored : Option StoredRecord) : LinkSettings × Bool :=
  if defcomLow then (LinkSettings.fallback, false)
  else match stored with
    | none => (LinkSettings.factory, false)
    | some r =>
      if (linkOfPayload r.payload).inRange && maskValid r.payload then (linkOfPayload r.payload, false)
      else (LinkSettings.fallback, true)

/-- The link settings handed to HLK: in force at once where the transmitter is IDLE (R186). -/
def Hlk.restored (h : Hlk) (stored : Option StoredRecord) : Hlk :=
  let chosen := chooseLink h.defcomAtStart stored
  let waiting := { h with adoption := some chosen.1, configMark := chosen.2 }
  if h.transmitter = .idle then waiting.adopt else waiting

/-- The settings and the generation restored (R119). -/
def Svc.restored (v : Svc) (e : Recovery) : Svc :=
  { v with
    active := match e.settings with
      | some r => settingsOfPayload r.payload
      | none => Settings.default
    generation := match e.settings with
      | some r => r.generation
      | none => 0
    staged := []
    measuring := e.measurement.any (fun r => measuringOfPayload r.payload) }

/-- The reference-pulse settings restored (R119, R138). -/
def Tmb.restored (t : Tmb) (stored : Option StoredRecord) : Tmb :=
  match stored with
  | some r => { t with enabled := (referenceOfPayload r.payload).1, polarity := (referenceOfPayload r.payload).2 }
  | none => t

/-- FN and WIRING as restored are in use from the start of sampling (R119, log entry 27). -/
def Cyt.restored (c : Cyt) (set : Settings) : Cyt := { c with fnInUse := set.fn, fnChanged := false, wiringInUse := set.wiring }

/-- Stage 3 of a cold start (R119, R180), with EVD's phases for the WIRING restored (R28, R50). -/
def restore (s : State) : State :=
  let service := s.svc.restored s.evs.recovery
  { s with
    svc := service
    cyt := s.cyt.restored service.active
    evd := { s.evd with phases := normalPhases service.active.wiring }
    tmb := s.tmb.restored s.evs.recovery.settings
    hlk := s.hlk.restored s.evs.recovery.settings }

/-- The survey context recovered from a START record (R120). -/
def contextOfStart (r : StoredRecord) : SurveyContext :=
  let p := r.payload
  { SurveyContext.idle with
    state := .running
    requestedStart := some (fieldAt p 1 4)
    armedMark := some (fieldAt p 5 4)
    days := some (fieldAt p 9 1)
    startMark := some (fieldAt p 10 4)
    endMark := some (fieldAt p 14 4)
    id := some r.sequence
    protectionStart := some r.sequence }

/-- The survey context recovered with a verdict (R120). -/
def contextOfVerdict (v : Verdict) : SurveyContext :=
  { SurveyContext.idle with
    state := if v.cause = .complete then .complete else .aborted
    days := some v.days
    startMark := some v.startMark
    endMark := some v.endMark
    id := some v.surveyId
    protectionStart := some v.surveyId
    startDropped := some v.startDropped
    generationsApplied := v.body.map VerdictBody.generationsApplied }

/-- Stage 4 of a cold start: the survey recovered from the newest survey or verdict record (R120). An SVY record whose
subtype is not START leaves it IDLE, as a RELEASE does (log entry 38). -/
def recoverSurvey (s : State) : State :=
  match s.evs.recovery.survey with
  | some r =>
    if r.kind = .vdt then
      let v := verdictOfPayload r.payload r.sequence
      { s with svc := { s.svc with survey := contextOfVerdict v, verdict := some v } }
    else if r.isStart then
      concludeSurvey .cold .aborted { s with svc := { s.svc with survey := contextOfStart r } }
    else s
  | none => s

/-- The COLD power record (R183). -/
def coldRecord (s : State) : List Byte :=
  coldPayload (s.spm.coldReason.getD .powerUp) s.spm.abortedRestarts s.evs.voidFound s.evs.breaksFound
    s.evs.oldestSequence s.evs.lastStored s.svc.measuring s.svc.survey.state s.spm.backup

/-- Stage 5 of a cold start (R180). -/
def announceCold (s : State) : State :=
  postPower "COLD" [optText ColdReason.text s.spm.coldReason, num s.spm.abortedRestarts, optText num (offeredSequence s)]
    (offer .pwr (coldRecord s) s)

/-- Stage 6 of a cold start (R180). -/
def runAfterCold (s : State) : State := startSampling { s with spm := { s.spm.running with abortedRestarts := 0 } }

/-- Stages 3 to 6 of a cold start (R180). -/
def finishColdStart (s : State) : State := runAfterCold (announceCold (recoverSurvey (restore s)))

/-- The state of the store at the end of a scan (R167). -/
def stateAfterScan (eraseFailed : Bool) (e : Evs) : StoreState :=
  if eraseFailed then .fault else if atHeldSector e then .full else .ready

/-- The STN notice that a scan's end brings (R153, R155, R164). -/
def postScanState (s : State) : State :=
  match s.evs.state with
  | .full => postStore "ENTER" .full "PROTECTION" s
  | .fault => postStore "ENTER" .fault "ERASE_FAILURE" s
  | .ready => s
  | .scanning => s
  | .erasingAll => s

/-- The end of the scan (R167) and of the cold start (R180). -/
def endScan (eraseFailed : Bool) (s : State) : State :=
  let left := { s with evs := { s.evs with activity := .idle, state := stateAfterScan eraseFailed s.evs } }
  mediumChoice (finishColdStart (postScanState left))

/-- The scan read delivers the medium (R165 to R167): the walk, and a due erase that is not held within the scan. -/
def scanDelivered (s : State) : State :=
  let slots := programmedSlots s.evs.medium
  let w := walkRing s.evs.medium slots
  let handed := handOverScan w { s with evs := scanned s.evs slots w }
  match freeErase handed.evs with
  | some sector => startErase sector handed
  | none => endScan false handed

/-- SCAN_READ_COMPLETE (R165). No effect where no scan read is in flight (log entry 4). -/
def execScanReadComplete (s : State) : Host.Outcome State Fault Refusal :=
  .next (if s.evs.activity = .scan then scanDelivered s else s)

/-! ## ERASE_COMPLETE (R152, R162, R167) -/

/-- The sectors that follow a sector in ring order, up to the write position's (R152). -/
def sectorsAfter (e : Evs) (sector : Nat) : List Nat :=
  let distance := (sectorOf e.writePosition + 1024 - sector) % 1024
  (List.range (if distance = 0 then 1023 else distance)).map (fun i => (sector + 1 + i) % 1024)

/-- The sector of the first valid record after an erased sector (R152). -/
def nextHolding (e : Evs) (sector : Nat) : Option Nat := (sectorsAfter e sector).find? (fun x => 0 < (sectorAt e x).valid)

/-- The oldest position and the oldest sequence move to the first valid record after an erased sector, found from the
sector table, or become absent (R152). -/
def Evs.moveOldest (e : Evs) (sector : Nat) : Evs :=
  { e with
    oldest := (nextHolding e sector).bind (fun x => (recordSlots e x).head?)
    oldestSequence := (nextHolding e sector).bind (fun x => (sectorAt e x).first) }

/-- The sector table and the oldest position after a successful erase (R152). -/
def Evs.erased (e : Evs) (sector : Nat) : Evs :=
  let cleared := { e with
    sectors := e.sectors.set sector Sector.empty
    due := if e.due = some sector then none else e.due }
  if e.oldest.map sectorOf = some sector then cleared.moveOldest sector else cleared

/-- One sector of an erase-all is erased (R162). -/
def Evs.frontErased (e : Evs) : Evs := { e with erasedCount := e.erasedCount + 1, front := nextSector e.front }

/-- The end of an erase-all (R162). -/
def endEraseAll (s : State) : State :=
  let recorded := offerErased true { s with evs := { s.evs with state := .ready } }
  { recorded with evs := { recorded.evs with due := some (nextSector (sectorOf recorded.evs.writePosition)) } }

/-- A successful erase within an erase-all (R162). -/
def frontAdvances (s : State) : State :=
  let moved := { s with evs := s.evs.frontErased }
  if 1024 ≤ moved.evs.erasedCount then endEraseAll moved else moved

/-- A successful erase (R152), by the store state. -/
def eraseSucceeds (sector : Nat) (s : State) : State :=
  let erased := { s with evs := s.evs.erased sector }
  match s.evs.state with
  | .scanning => if s.spm.abortPending then completed erased else endScan false erased
  | .erasingAll => completed (frontAdvances erased)
  | .ready => completed erased
  | .full => completed erased
  | .fault => completed erased

/-- The entry of a sector whose erase failed (R152). -/
def Evs.eraseFailed (e : Evs) (sector : Nat) : Evs := e.updateSector sector (fun x => { x with condition := .closed })

/-- A failed erase (R152, R155), by the store state. -/
def eraseFails (sector : Nat) (s : State) : State :=
  let failed := { s with evs := s.evs.eraseFailed sector }
  match s.evs.state with
  | .scanning => if s.spm.abortPending then completed failed else endScan true failed
  | .erasingAll => completed (enterFault "ERASE_FAILURE" failed)
  | .ready => completed (enterFault "ERASE_FAILURE" failed)
  | .full => completed (enterFault "ERASE_FAILURE" failed)
  | .fault => completed (enterFault "ERASE_FAILURE" failed)

/-- The bytes that an erase leaves: every one 0xFF but for a residue (R140, log entry 6). -/
def Memory.erasedLeaving (m : Memory) (sector : Nat) (residue : List Host.Cell) : Memory :=
  (residue.filter (fun c => c.1 < 4096)).foldl (fun m c => m.write (4096 * sector + c.1) c.2) (m.eraseSector sector)

/-- The sector's slots all read back 0xFF (R140). -/
def sectorErased (m : Memory) (sector : Nat) : Bool := m.all (fun c => c.1 / 4096 ≠ sector)

/-- The end of an erase with what does not read back as erased (R140, R152). -/
def eraseEnds (sector : Nat) (residue : List Host.Cell) (s : State) : State :=
  let medium := s.evs.medium.erasedLeaving sector residue
  let written := { s with evs := { s.evs with medium := medium } }
  if sectorErased medium sector then eraseSucceeds sector written else eraseFails sector written

/-- ERASE_COMPLETE (R152, R162, R167). No effect where no erase is in flight (log entry 4). -/
def execEraseComplete (residue : List Host.Cell) (s : State) : Host.Outcome State Fault Refusal :=
  .next (match s.evs.activity with
    | .erase sector => eraseEnds sector residue s
    | .idle => s
    | .read _ _ => s
    | .scan => s
    | .program _ _ _ => s)

/-! ## Reads (R156 to R160) -/

/-- SLOT_READ_COMPLETE (R156). No effect where no slot read is in flight (log entry 4). -/
def execSlotReadComplete (s : State) : Host.Outcome State Fault Refusal :=
  .next (match s.evs.activity with
    | .read slot request =>
      let bytes := s.evs.medium.slot slot
      completed (answerRead request bytes (num slot) (slotSequence bytes != request.sequence) s)
    | .idle => s
    | .scan => s
    | .program _ _ _ => s
    | .erase _ => s)

/-- A read by sequence number (R156): a hit is answered at once, a medium read waits for the medium. -/
def read (request : ReadRequest) (s : State) : State :=
  match locate s.evs request.sequence with
  | .pending image => answerRead request image "PENDING".toList false s
  | .slot _ => mediumChoice { s with evs := { s.evs with waitingRead := some request } }
  | .unavailable => answerUnavailable s

/-- RDR and RDX, in their forms (R157, R158). -/
def runReadOf (form : ReadForm) (fields : List Text) (s : State) : State :=
  match fields with
  | [t] =>
    match readNat t with
    | some q => if q ≤ max32 then read ⟨form, q⟩ s else answer .rng [] s
    | none => answer .syn [] s
  | _ => answer .syn [] s

/-- RDR (R157). -/
def runRdr (fields : List Text) (s : State) : State := runReadOf .decoded fields s

/-- RDX (R158). -/
def runRdx (fields : List Text) (s : State) : State := runReadOf .raw fields s

/-- The sequence that RDN asks for (R159). -/
def nextAsked (e : Evs) : Option Nat :=
  match e.lastRead, e.oldestSequence with
  | some q, _ => some (q + 1)
  | none, some q => some q
  | none, none => e.pwq.head?.map Record.sequence

/-- RDN (R159). -/
def runRdn (fields : List Text) (s : State) : State :=
  if fields ≠ [] then answer .syn [] s
  else match nextAsked s.evs with
    | some q => read ⟨.decoded, q⟩ s
    | none => answerUnavailable s

/-! ## STQ (R163) -/

/-- The number of void slots in the sector table. -/
def voidSlots (e : Evs) : Nat := (e.sectors.map (fun x => x.voids.length)).sum

/-- The reply fields of STQ (R163). -/
def stqFields (e : Evs) : List Text :=
  let erasing := e.state == .erasingAll
  [e.state.text, e.mode.text, e.activity.text, num e.pwq.length, optText num e.oldestSequence, optText num e.lastStored,
    optText num e.lastIssued, num e.writePosition, optText num e.oldest, optText num e.due,
    optText (fun d => bitText (eraseHeld e d)) e.due, optText num e.protectionStart, num e.gapCount, num e.surveyDrops,
    num e.coldDrops, num e.failures, checkText e.lastCheck, num (voidSlots e), num e.voidFound, num e.breaksFound,
    presentText erasing (num e.front), presentText erasing (num e.erasedCount)]

/-- STQ (R163). -/
def runStq (fields : List Text) (s : State) : State :=
  if fields ≠ [] then answer .syn [] s else answer .ok (stqFields s.evs) s

end Sys2Proof.Machine
end

