-- ==== Sys2Proof/WellFormed.lean ====
section
/-! DEFINITION. Which commands have operands the part's interfaces can carry. -/

namespace Sys2Proof

/-- A character that a field of a request may hold: printable (R187), no field separator, and not the start character,
at which a new frame begins (R188). -/
abbrev fieldChar (c : Char) : Bool :=
  0x20 ≤ c.toNat && c.toNat ≤ 0x7E && c != ',' && c != '>'

/-- The characters of a request frame with these fields, its final LF not counted (R187). -/
abbrev requestLength (fields : List Text) : Nat :=
  9 + (fields.map (fun f => f.length + 1)).sum

/-- Fields that a request frame can carry: every character allowed, no lone empty field (R190), and a frame of at most
120 characters with its LF (R187). -/
abbrev wellFormedFields (fields : List Text) : Bool :=
  fields.all (fun f => f.all fieldChar) && fields != [[]] && requestLength fields ≤ 119

/-- Bytes that a failed program may leave in a slot: 128 of them (R139). -/
abbrev wellFormedReadBack (readBack : Option (List Byte)) : Bool :=
  match readBack with
  | none => true
  | some bytes => bytes.length == 128

/-- Bytes that a failed erase may leave in a sector: offsets below 4096, each named once, none of them erased. -/
abbrev wellFormedResidue (residue : List Host.Cell) : Bool :=
  residue.all (fun cell => cell.1 < 4096 && cell.2 != 0xFF#8) && (residue.map Prod.fst).Nodup

/-- The checks on a command. -/
def wellFormed : Instr → Bool
  | .sample _ _ _ => true
  | .trackingTimeout _ _ _ => true
  | .syntheticBoundary _ _ _ => true
  | .calibrationWindowOpen => true
  | .calibrationComplete _ => true
  | .referencePulse _ => true
  | .rtcWrap => true
  | .pulseAnchorExpiry => true
  | .holdoverTimeout => true
  | .programComplete readBack => wellFormedReadBack readBack
  | .eraseComplete residue => wellFormedResidue residue
  | .slotReadComplete => true
  | .scanReadComplete => true
  | .supplyFail => true
  | .supplyGood _ _ => true
  | .backupFail => true
  | .backupGood => true
  | .rideThroughWindowEnd => true
  | .tickCounterWrap => true
  | .qualificationEnd => true
  | .characterReceived _ _ => true
  | .frameTimeout => true
  | .replyEligible => true
  | .frameSent => true
  | .cal fields => wellFormedFields fields
  | .mvh fields => wellFormedFields fields
  | .phm fields => wellFormedFields fields
  | .evl fields => wellFormedFields fields
  | .mvw fields => wellFormedFields fields
  | .mvf fields => wellFormedFields fields
  | .tlc fields => wellFormedFields fields
  | .tlr fields => wellFormedFields fields
  | .tlx fields => wellFormedFields fields
  | .tlf fields => wellFormedFields fields
  | .tlu fields => wellFormedFields fields
  | .tlm fields => wellFormedFields fields
  | .set fields => wellFormedFields fields
  | .get fields => wellFormedFields fields
  | .meaGo => true
  | .meaHalt => true
  | .svs fields => wellFormedFields fields
  | .sva fields => wellFormedFields fields
  | .svr fields => wellFormedFields fields
  | .svq fields => wellFormedFields fields
  | .svv fields => wellFormedFields fields
  | .tis _ fields => wellFormedFields fields
  | .trf fields => wellFormedFields fields
  | .tim fields => wellFormedFields fields
  | .rdr fields => wellFormedFields fields
  | .rdx fields => wellFormedFields fields
  | .rdn fields => wellFormedFields fields
  | .stq fields => wellFormedFields fields
  | .ste fields => wellFormedFields fields
  | .idn fields => wellFormedFields fields
  | .lnk fields => wellFormedFields fields
  | .sta fields => wellFormedFields fields

end Sys2Proof
end

