-- ==== Sys2Proof/Machine/Link.lean ====
section
/-! DEFINITION. The host link: reception, the taking of frames, transmission, the commands IDN, LNK and STA, and the
meaning of every request row (chapter Host Link). -/

namespace Sys2Proof.Machine

/-! ## IDN, LNK and STA (R196 to R198) -/

/-- A number in so many decimal digits. -/
def fixedDigits : Nat → Nat → Text
  | 0, _ => []
  | k + 1, n => digitChar (n / 10 ^ k % 10) :: fixedDigits k n

/-- The reply fields of IDN (R196). -/
def idnFields : List Text :=
  ["TASFORA VQ-340".toList, num (Config.hardwareRevision.val + 1), fixedDigits 10 Config.serialNumber.val,
    "32768".toList, "12".toList, "6".toList]

/-- IDN (R196). -/
def runIdn (fields : List Text) (s : State) : State := if fields ≠ [] then answer .syn [] s else answer .ok idnFields s

/-- The four link settings as reply fields (R197). -/
def LinkSettings.fields (l : LinkSettings) : List Text := [num l.rate, num l.station, num l.delay, l.mask.text]

/-- The link settings that LNK's four fields spell (R197). -/
def readLink (fields : List Text) : Option LinkSettings :=
  match fields with
  | [rate, station, delay, mask] =>
    match readNat rate, readNat station, readNat delay, readMask mask with
    | some r, some st, some d, some m => some ⟨r, st, d, m⟩
    | _, _, _, _ => none
  | _ => none

/-- LNK (R197): accepted settings take effect when the reply has been sent. -/
def runLnk (fields : List Text) (s : State) : State :=
  if fields = [] then answer .ok (s.hlk.settings.fields ++ [bitText s.hlk.configMark]) s
  else match readLink fields with
    | none => answer .syn [] s
    | some l => if l.inRange then placeReply Command.lnk.text .ok l.fields (some l) s else answer .rng [] s

/-- STARTING, RUN, RIDE_THROUGH, DORMANT, OFF. -/
def PowerState.text : PowerState → Text
  | .off => "OFF".toList
  | .starting => "STARTING".toList
  | .run => "RUN".toList
  | .rideThrough => "RIDE_THROUGH".toList
  | .dormant => "DORMANT".toList

/-- WARM, COLD. -/
def StartKind.text : StartKind → Text
  | .warm => "WARM".toList
  | .cold => "COLD".toList

/-- TRACKING, FREEWHEEL. -/
def Tracker.text : Tracker → Text
  | .tracking => "TRACKING".toList
  | .freewheel => "FREEWHEEL".toList

/-- The wired phases that are PRESENT (R198). -/
def presentPhases (c : Cyt) : List Phase := allPhases.filter (fun p => (c.presence.get p).any Presence.present)

/-- The reply fields of STA (R198). -/
def staFields (s : State) : List Text :=
  [s.spm.power.text, optText StartKind.text s.spm.startKind, measurementText s.svc.measuring, s.svc.survey.state.text,
    s.evs.state.text, s.evs.mode.text, num s.evs.pwq.length, s.tmb.quality.text, s.cyt.tracker.text,
    phaseText s.cyt.reference, phaseSetText (presentPhases s.cyt), bitText (s.svc.staged != []), bitText s.hlk.configMark]

/-- STA (R198). -/
def runSta (fields : List Text) (s : State) : State := if fields ≠ [] then answer .syn [] s else answer .ok (staFields s) s

/-! ## Taking a request (R190, R191) -/

/-- The block that owns a command carries it out (R190). -/
def runCommand : Command → List Text → State → State
  | .cal => runCal
  | .mvh => runMvh
  | .phm => runPhm
  | .evl => runEvl
  | .mvw => runMvw
  | .mvf => runMvf
  | .tlc => runTlc
  | .tlr => runTlr
  | .tlx => runTlx
  | .tlf => runTlf
  | .tlu => runTlu
  | .tlm => runTlm
  | .set => runSet
  | .get => runGet
  | .mea => runMea
  | .svs => runSvs
  | .sva => runSva
  | .svr => runSvr
  | .svq => runSvq
  | .svv => runSvv
  | .tis => runTis false
  | .trf => runTrf
  | .tim => runTim
  | .rdr => runRdr
  | .rdx => runRdx
  | .rdn => runRdn
  | .stq => runStq
  | .ste => runSte
  | .idn => runIdn
  | .lnk => runLnk
  | .sta => runSta

/-- A request in the form of R187 reaches its owning block, or is answered BSY in STARTING (R190, R191). -/
def handOver (c : Command) (fields : List Text) (s : State) : State :=
  let taken := { s with hlk := { s.hlk with inProgress := some c } }
  if s.spm.power = .starting ∧ c ≠ .sta then answer .bsy [] taken else runCommand c fields taken

/-- A broadcast frame is discarded unless it is a TIS and the power state is not STARTING (R190). No command is then
in progress, so nothing is answered. -/
def handBroadcast (c : Command) (fields : List Text) (s : State) : State :=
  if c = .tis ∧ s.spm.power ≠ .starting then runTis true fields s else s

/-- The checks of R190 on a frame taken from the receive buffer, and what they lead to. -/
def takeFrame (f : Frame) (s : State) : State :=
  match readFrame f with
  | .refused status characters => if f.station = 0 then s else placeReply characters status [] none s
  | .request c fields => if f.station = 0 then handBroadcast c fields s else handOver c fields s

/-- HLK may take a frame (R190). -/
def canTake (s : State) : Bool := s.hlk.inProgress.isNone && s.hlk.reply.isNone

/-- Frames are taken from the receive buffer, oldest first, as long as they may be (R190). -/
def takeFrames : Nat → State → State
  | 0, s => s
  | n + 1, s =>
    match s.hlk.buffer with
    | [] => s
    | f :: rest =>
      if canTake s then takeFrames n (takeFrame f { s with hlk := { s.hlk with buffer := rest } }) else s

/-- Every frame that may be taken is taken (R190). -/
def takeWaiting (s : State) : State := takeFrames s.hlk.buffer.length s

/-! ## Reception (R188, R189) -/

/-- A complete frame to this station or to 00 joins the receive buffer, or sets O where it is full (R189). -/
def frameKept (f : Frame) (s : State) : State :=
  if s.hlk.buffer.length < 2 then takeWaiting { s with hlk := { s.hlk with buffer := s.hlk.buffer ++ [f] } }
  else { s with hlk := { s.hlk with overrun := true } }

/-- The station of a frame, none where its second and third characters are not two digits (R189). -/
def Reception.station (r : Reception) : Option Nat :=
  match r.chars with
  | _ :: a :: b :: _ => if isDigit a && isDigit b then some (digitsValue [a, b]) else none
  | _ => none

/-- A frame that completes at its LF (R189). -/
def frameCompletes (r : Reception) (s : State) : State :=
  let ended := { s with hlk := { s.hlk with reception := none } }
  if r.framingError then ended
  else match r.station with
    | none => ended
    | some station =>
      if station = s.hlk.settings.station ∨ station = 0 then
        frameKept ⟨station, if r.overLong then [] else r.chars.drop 3, r.overLong⟩ ended
      else ended

/-- A frame in reception with one character more (R188). The count of the received characters includes the '>'. -/
def Reception.add (r : Reception) (c : Char) : Reception :=
  if r.overLong ∨ 119 < r.received + 1 then
    { r with received := r.received + 1, overLong := true, chars := r.chars.take 3 }
  else { r with received := r.received + 1, chars := r.chars ++ [c] }

/-- A character with a framing error (R188). -/
def badCharacter (s : State) : State :=
  { s with hlk := { s.hlk with
      framing := true
      reception := s.hlk.reception.map (fun r => { r with framingError := true }) } }

/-- A character without a framing error (R188). -/
def goodCharacter (c : Char) (s : State) : State :=
  if c = '>' then { s with hlk := { s.hlk with reception := some ⟨s.tmb.tick, ['>'], 1, false, false⟩ } }
  else match s.hlk.reception with
    | none => s
    | some r =>
      if c = '\n' then frameCompletes r s else { s with hlk := { s.hlk with reception := some (r.add c) } }

/-- CHARACTER_RECEIVED (R188). No effect while the link is off (log entry 4). -/
def execCharacterReceived (code : BitVec 8) (framingError : Bool) (s : State) : Host.Outcome State Fault Refusal :=
  .next (if linkOn s then (if framingError then badCharacter s else goodCharacter (Char.ofNat code.toNat) s) else s)

/-- The frame in reception is not complete 32,768 ticks after its start tick (R188). -/
def frameTimeoutDue (s : State) : Bool :=
  linkOn s && s.hlk.reception.any (fun r => 32768 ≤ tickSpan r.startTick s.tmb.tick)

/-- The frame in reception is discarded (R188). -/
def dropReception (s : State) : State := { s with hlk := { s.hlk with reception := none } }

/-- FRAME_TIMEOUT (R188). No effect before it is due (log entry 4). -/
def execFrameTimeout (s : State) : Host.Outcome State Fault Refusal :=
  .next (if frameTimeoutDue s then dropReception s else s)

/-! ## Transmission (R191, R192, R197) -/

/-- The reply delay has expired and the reply is not marked eligible yet (R191). -/
def replyEligibleDue (s : State) : Bool :=
  linkOn s && s.hlk.reply.any (fun r => !r.eligible && r.due s.tmb.tick)

/-- The reply becomes eligible, and an IDLE transmitter starts it (R191, R192). -/
def makeEligible (s : State) : State :=
  transmit { s with hlk := { s.hlk with reply := s.hlk.reply.map (fun r => { r with eligible := true }) } }

/-- REPLY_ELIGIBLE (R191). No effect before it is due (log entry 4). -/
def execReplyEligible (s : State) : Host.Outcome State Fault Refusal :=
  .next (if replyEligibleDue s then makeEligible s else s)

/-- An accepted LNK takes effect (R197). -/
def linkTakesEffect (l : LinkSettings) (s : State) : State :=
  offerSettings .link { s with hlk := { s.hlk.inForce l with configMark := false } }

/-- The end of a reply empties the reply slot, and an LNK that it accepted takes effect (R191, R197). -/
def endReply (s : State) : State :=
  let emptied := { s with hlk := { s.hlk with reply := none } }
  match s.hlk.reply.bind Reply.link with
  | some l => linkTakesEffect l emptied
  | none => emptied

/-- The transmitter becomes IDLE: link settings that waited for it come into force (R186), the next frame of the
receive buffer is taken (R190), and the next frame is started (R192). -/
def transmitterIdle (s : State) : State :=
  let taken := takeWaiting { s with hlk := s.hlk.adopt }
  transmit { taken with hlk := { taken.hlk with transmitter := .idle } }

/-- FRAME_SENT (R192, R202). No effect where no frame is being sent (log entry 4). -/
def execFrameSent (s : State) : Host.Outcome State Fault Refusal :=
  .next (match s.hlk.transmitter with
    | .idle => s
    | .notice _ _ => transmitterIdle s
    | .reply _ (next :: rest) => { s with hlk := { s.hlk with transmitter := .reply next rest } }
    | .reply _ [] => transmitterIdle (endReply s))

/-! ## The request rows (log entry 3) -/

/-- A request frame as it stands in the receive buffer; an over-long one as R189 keeps it. -/
def bufferedRequest (station : Nat) (c : Command) (fields : List Text) : Frame :=
  if requestLength fields ≤ 119 then requestFrame station c fields else ⟨station, [], true⟩

/-- The request can be taken as it arrives: no command in progress, no reply in the slot, no frame waiting (R190). -/
def takenAtOnce (fields : List Text) (s : State) : Bool := canTake s && s.hlk.buffer.isEmpty && wellFormedFields fields

/-- A whole request frame to the station in force arrives (R188 to R190). -/
def request (c : Command) (fields : List Text) (s : State) : State :=
  if ¬ linkOn s then s
  else if takenAtOnce fields s then handOver c fields (dropReception s)
  else frameKept (bufferedRequest s.hlk.settings.station c fields) (dropReception s)

/-- A whole TIS frame to the broadcast address arrives (R190). -/
def broadcastTis (fields : List Text) (s : State) : State :=
  if ¬ linkOn s then s
  else if takenAtOnce fields s then handBroadcast .tis fields (dropReception s)
  else frameKept (bufferedRequest 0 .tis fields) (dropReception s)

/-- CAL (R8). -/
def execCal (fields : List Text) (s : State) : Host.Outcome State Fault Refusal := .next (request .cal fields s)

/-- MVH (R19). -/
def execMvh (fields : List Text) (s : State) : Host.Outcome State Fault Refusal := .next (request .mvh fields s)

/-- PHM (R22). -/
def execPhm (fields : List Text) (s : State) : Host.Outcome State Fault Refusal := .next (request .phm fields s)

/-- EVL (R52). -/
def execEvl (fields : List Text) (s : State) : Host.Outcome State Fault Refusal := .next (request .evl fields s)

/-- MVW (R58). -/
def execMvw (fields : List Text) (s : State) : Host.Outcome State Fault Refusal := .next (request .mvw fields s)

/-- MVF (R70). -/
def execMvf (fields : List Text) (s : State) : Host.Outcome State Fault Refusal := .next (request .mvf fields s)

/-- TLC (R85). -/
def execTlc (fields : List Text) (s : State) : Host.Outcome State Fault Refusal := .next (request .tlc fields s)

/-- TLR (R86). -/
def execTlr (fields : List Text) (s : State) : Host.Outcome State Fault Refusal := .next (request .tlr fields s)

/-- TLX (R87). -/
def execTlx (fields : List Text) (s : State) : Host.Outcome State Fault Refusal := .next (request .tlx fields s)

/-- TLF (R84). -/
def execTlf (fields : List Text) (s : State) : Host.Outcome State Fault Refusal := .next (request .tlf fields s)

/-- TLU (R84). -/
def execTlu (fields : List Text) (s : State) : Host.Outcome State Fault Refusal := .next (request .tlu fields s)

/-- TLM (R94). -/
def execTlm (fields : List Text) (s : State) : Host.Outcome State Fault Refusal := .next (request .tlm fields s)

/-- SET (R98). -/
def execSet (fields : List Text) (s : State) : Host.Outcome State Fault Refusal := .next (request .set fields s)

/-- GET (R101). -/
def execGet (fields : List Text) (s : State) : Host.Outcome State Fault Refusal := .next (request .get fields s)

/-- MEA GO (R104). -/
def execMeaGo (s : State) : Host.Outcome State Fault Refusal := .next (request .mea ["GO".toList] s)

/-- MEA HALT (R105). -/
def execMeaHalt (s : State) : Host.Outcome State Fault Refusal := .next (request .mea ["HALT".toList] s)

/-- SVS (R107). -/
def execSvs (fields : List Text) (s : State) : Host.Outcome State Fault Refusal := .next (request .svs fields s)

/-- SVA (R114). -/
def execSva (fields : List Text) (s : State) : Host.Outcome State Fault Refusal := .next (request .sva fields s)

/-- SVR (R115). -/
def execSvr (fields : List Text) (s : State) : Host.Outcome State Fault Refusal := .next (request .svr fields s)

/-- SVQ (R116). -/
def execSvq (fields : List Text) (s : State) : Host.Outcome State Fault Refusal := .next (request .svq fields s)

/-- SVV (R117). -/
def execSvv (fields : List Text) (s : State) : Host.Outcome State Fault Refusal := .next (request .svv fields s)

/-- TIS (R133), addressed or broadcast. -/
def execTis (broadcast : Bool) (fields : List Text) (s : State) : Host.Outcome State Fault Refusal :=
  .next (if broadcast then broadcastTis fields s else request .tis fields s)

/-- TRF (R134). -/
def execTrf (fields : List Text) (s : State) : Host.Outcome State Fault Refusal := .next (request .trf fields s)

/-- TIM (R135). -/
def execTim (fields : List Text) (s : State) : Host.Outcome State Fault Refusal := .next (request .tim fields s)

/-- RDR (R157). -/
def execRdr (fields : List Text) (s : State) : Host.Outcome State Fault Refusal := .next (request .rdr fields s)

/-- RDX (R158). -/
def execRdx (fields : List Text) (s : State) : Host.Outcome State Fault Refusal := .next (request .rdx fields s)

/-- RDN (R159). -/
def execRdn (fields : List Text) (s : State) : Host.Outcome State Fault Refusal := .next (request .rdn fields s)

/-- STQ (R163). -/
def execStq (fields : List Text) (s : State) : Host.Outcome State Fault Refusal := .next (request .stq fields s)

/-- STE (R161). -/
def execSte (fields : List Text) (s : State) : Host.Outcome State Fault Refusal := .next (request .ste fields s)

/-- IDN (R196). -/
def execIdn (fields : List Text) (s : State) : Host.Outcome State Fault Refusal := .next (request .idn fields s)

/-- LNK (R197). -/
def execLnk (fields : List Text) (s : State) : Host.Outcome State Fault Refusal := .next (request .lnk fields s)

/-- STA (R198). -/
def execSta (fields : List Text) (s : State) : Host.Outcome State Fault Refusal := .next (request .sta fields s)

end Sys2Proof.Machine
end

