-- ==== Sys2Proof/Machine/Dispatch.lean ====
section
/-! DEFINITION. One arm per command: the call of its meaning. -/

namespace Sys2Proof.Machine

/-- The effect of a command on everything but the queue of waiting commands. -/
def exec (i : Instr) (s : State) : Host.Outcome State Fault Refusal :=
  match i with
  | .sample r1 r2 r3 => Sys2Proof.Machine.execSample r1 r2 r3 s
  | .trackingTimeout r1 r2 r3 => Sys2Proof.Machine.execTrackingTimeout r1 r2 r3 s
  | .syntheticBoundary r1 r2 r3 => Sys2Proof.Machine.execSyntheticBoundary r1 r2 r3 s
  | .calibrationWindowOpen => Sys2Proof.Machine.execCalibrationWindowOpen s
  | .calibrationComplete n1 => Sys2Proof.Machine.execCalibrationComplete n1 s
  | .referencePulse edge => Sys2Proof.Machine.execReferencePulse edge s
  | .rtcWrap => Sys2Proof.Machine.execRtcWrap s
  | .pulseAnchorExpiry => Sys2Proof.Machine.execPulseAnchorExpiry s
  | .holdoverTimeout => Sys2Proof.Machine.execHoldoverTimeout s
  | .programComplete readBack => Sys2Proof.Machine.execProgramComplete readBack s
  | .eraseComplete residue => Sys2Proof.Machine.execEraseComplete residue s
  | .slotReadComplete => Sys2Proof.Machine.execSlotReadComplete s
  | .scanReadComplete => Sys2Proof.Machine.execScanReadComplete s
  | .supplyFail => Sys2Proof.Machine.execSupplyFail s
  | .supplyGood contextFound defcomLow => Sys2Proof.Machine.execSupplyGood contextFound defcomLow s
  | .backupFail => Sys2Proof.Machine.execBackupFail s
  | .backupGood => Sys2Proof.Machine.execBackupGood s
  | .rideThroughWindowEnd => Sys2Proof.Machine.execRideThroughWindowEnd s
  | .tickCounterWrap => Sys2Proof.Machine.execTickCounterWrap s
  | .qualificationEnd => Sys2Proof.Machine.execQualificationEnd s
  | .characterReceived code framingError => Sys2Proof.Machine.execCharacterReceived code framingError s
  | .frameTimeout => Sys2Proof.Machine.execFrameTimeout s
  | .replyEligible => Sys2Proof.Machine.execReplyEligible s
  | .frameSent => Sys2Proof.Machine.execFrameSent s
  | .cal fields => Sys2Proof.Machine.execCal fields s
  | .mvh fields => Sys2Proof.Machine.execMvh fields s
  | .phm fields => Sys2Proof.Machine.execPhm fields s
  | .evl fields => Sys2Proof.Machine.execEvl fields s
  | .mvw fields => Sys2Proof.Machine.execMvw fields s
  | .mvf fields => Sys2Proof.Machine.execMvf fields s
  | .tlc fields => Sys2Proof.Machine.execTlc fields s
  | .tlr fields => Sys2Proof.Machine.execTlr fields s
  | .tlx fields => Sys2Proof.Machine.execTlx fields s
  | .tlf fields => Sys2Proof.Machine.execTlf fields s
  | .tlu fields => Sys2Proof.Machine.execTlu fields s
  | .tlm fields => Sys2Proof.Machine.execTlm fields s
  | .set fields => Sys2Proof.Machine.execSet fields s
  | .get fields => Sys2Proof.Machine.execGet fields s
  | .meaGo => Sys2Proof.Machine.execMeaGo s
  | .meaHalt => Sys2Proof.Machine.execMeaHalt s
  | .svs fields => Sys2Proof.Machine.execSvs fields s
  | .sva fields => Sys2Proof.Machine.execSva fields s
  | .svr fields => Sys2Proof.Machine.execSvr fields s
  | .svq fields => Sys2Proof.Machine.execSvq fields s
  | .svv fields => Sys2Proof.Machine.execSvv fields s
  | .tis broadcast fields => Sys2Proof.Machine.execTis broadcast fields s
  | .trf fields => Sys2Proof.Machine.execTrf fields s
  | .tim fields => Sys2Proof.Machine.execTim fields s
  | .rdr fields => Sys2Proof.Machine.execRdr fields s
  | .rdx fields => Sys2Proof.Machine.execRdx fields s
  | .rdn fields => Sys2Proof.Machine.execRdn fields s
  | .stq fields => Sys2Proof.Machine.execStq fields s
  | .ste fields => Sys2Proof.Machine.execSte fields s
  | .idn fields => Sys2Proof.Machine.execIdn fields s
  | .lnk fields => Sys2Proof.Machine.execLnk fields s
  | .sta fields => Sys2Proof.Machine.execSta fields s

end Sys2Proof.Machine
end

