-- ==== Sys2Proof/Machine/Idle.lean ====
section
/-! DEFINITION. What time brings while no command waits. -/

namespace Sys2Proof.Machine

/-- What an empty queue brings: the first timed event that is due, and with none due one crystal tick (log entry 2). -/
def idle (s : State) : Host.Outcome State Fault Refusal :=
  if qualificationDue s then Sys2Proof.Machine.execQualificationEnd s
  else if windowEndDue s then Sys2Proof.Machine.execRideThroughWindowEnd s
  else if frameTimeoutDue s then Sys2Proof.Machine.execFrameTimeout s
  else if replyEligibleDue s then Sys2Proof.Machine.execReplyEligible s
  else if holdoverDue s then Sys2Proof.Machine.execHoldoverTimeout s
  else if anchorExpiryDue s then Sys2Proof.Machine.execPulseAnchorExpiry s
  else if calibrationDue s then Sys2Proof.Machine.execCalibrationWindowOpen s
  else .next (crystalTick s)

end Sys2Proof.Machine
end

