-- ==== Sys2Proof/Safety.lean ====
section
/-! DEFINITION. What a state that the machine keeps well looks like: the ranges and bounds that the manual gives its
clocks, its divisor, its queues and the form of its medium. -/

namespace Sys2Proof.Machine

/-- The bounds that every step keeps. -/
structure State.Sound (s : State) : Prop where
  /-- The medium's list of bytes is in its canonical form (R139, R140). -/
  medium : s.evs.medium.wf = true
  /-- The pending-write queue holds at most 32 records (R145). -/
  queue : s.evs.pwq.length ≤ 32
  /-- The notice queue holds at most 16 notices (R194). -/
  notices : s.hlk.notices.length ≤ 16
  /-- The receive buffer holds at most 2 frames (R189). -/
  buffer : s.hlk.buffer.length ≤ 2
  /-- The divisor in use is 950..1050 (R5, R8). -/
  divisor : 950 ≤ s.ich.divisor ∧ s.ich.divisor ≤ 1050
  /-- So is a pending divisor (R5, R8). -/
  pendingDivisor : ∀ d, s.ich.pendingDivisor = some d → 950 ≤ d ∧ d ≤ 1050
  /-- The sub-second count is 0..32,767 (R121). -/
  sub : s.tmb.sub < 32768
  /-- The RTC seconds are 0..4,294,967,295 (R121). -/
  seconds : s.tmb.seconds ≤ max32
  /-- The link that the backup cell holds keeps to its bounds (R189, R194, R195). -/
  kept : ∀ k, s.spm.kept = some k → k.hlk.notices.length ≤ 16 ∧ k.hlk.buffer.length ≤ 2

/-- What the event detector keeps: the record open for a kind is of that kind (R30), and a flagged phase is LOW (R27). -/
structure Evd.Regular (e : Evd) : Prop where
  kinds : ∀ k c, e.context k = some c → c.kind = k
  flagged : ∀ p x, e.phases.get p = some x → x.interrupted = true → x.excursion = .low

/-- Every active and every staged value lies in its range (R97, R98), and the staged set holds its names once each in the order
of R97 (R100, R101). -/
structure Svc.InRange (v : Svc) : Prop where
  active : ∀ n : Setting, n.inRange (v.active.get n) = true
  staged : ∀ nv ∈ v.staged, nv.1.inRange nv.2 = true
  ordered : (v.staged.map Prod.fst).Sublist allSettings

/-- The tables have the sizes the manual gives them: 12 general cells (R78), the matrices and the pair (R92), and 1024
sectors (R139). -/
structure State.Sized (s : State) : Prop where
  cells : s.tlb.cells.length = 12
  dip : s.tlb.dip.counts.length = 24
  swell : s.tlb.swell.counts.length = 18
  pair : s.tlb.pair.counts.length = 2
  sectors : s.evs.sectors.length = 1024

/-- The order of the survey cells (R90). -/
structure SurveyCells.Ordered (c : SurveyCells) : Prop where
  s1 : c.s1 ≤ c.s0
  s2 : c.s2 ≤ c.s1
  s3 : c.s3 ≤ c.s1
  s5 : c.s5 ≤ c.s4

/-- The command in progress is a read of one record (R157 to R159). -/
def State.readInProgress (s : State) : Prop :=
  s.hlk.inProgress = some .rdr ∨ s.hlk.inProgress = some .rdx ∨ s.hlk.inProgress = some .rdn

/-- One host request is handled at a time (R160, R161, R190, R191): a waiting read, a read in flight or a waiting STE is the
command in progress, the reply slot is empty while a command is in progress, none of them outlives the link (R168, R195),
and a start that is being given up waits for a program or an erase (R178, R180). -/
structure State.OneRequest (s : State) : Prop where
  waiting : s.evs.waitingRead ≠ none → s.readInProgress
  flight : ∀ n q, s.evs.activity = .read n q → s.readInProgress ∧ s.evs.waitingRead = none
  ste : s.evs.steWaiting = true → s.hlk.inProgress = some .ste
  slot : s.hlk.inProgress ≠ none → s.hlk.reply = none
  off : s.spm.power ≠ .run → s.spm.power ≠ .rideThrough →
    s.evs.waitingRead = none ∧ s.evs.steWaiting = false ∧ ∀ n q, s.evs.activity ≠ .read n q
  abort : s.spm.abortPending = true → s.spm.power = .starting ∧ s.spm.qualification = none ∧
    ((∃ n x c, s.evs.activity = .program n x c) ∨ ∃ n, s.evs.activity = .erase n)

/-- What a command that queues one record leaves of the store (R142, R143, R145): the record at the end of the queue with
the next sequence number, or, where it is dropped, the queue as it was and the gap count raised. -/
structure Queues (s t : State) (kind : RecordKind) (payload : List Byte) (generation : BitVec 16) : Prop where
  medium : t.evs.medium = s.evs.medium
  taken : recordTaken s = true → ∃ x, t.evs.pwq = s.evs.pwq ++ [x] ∧ t.evs.lastIssued = some x.sequence ∧
    t.evs.gapCount = 0 ∧ x.sequence = nextSequence s.evs ∧ x.kind = kind ∧ x.payload = payload ∧
    x.generation = generation ∧ x.time = reading s ∧ x.quality = s.tmb.quality ∧ x.lastEvent = s.evd.counter ∧
    x.gap = (if s.evs.gapCount = 0 then none else some s.evs.gapCount)
  dropped : recordTaken s = false → t.evs.pwq = s.evs.pwq ∧ t.evs.lastIssued = s.evs.lastIssued ∧
    t.evs.gapCount = saturate max16 (s.evs.gapCount + 1)

/-! ## What the statements say of a sample -/

/-- The state with the sample counted, before any boundary it places (R9, R10, R16). -/
def State.counted (s : State) (r1 r2 r3 : BitVec 16) : State :=
  countSample (conditionAll ⟨r1, r2, r3⟩ s.svc.active) s

/-- The accepted change of the reference channel at the sample (R12). -/
def State.change (s : State) (r1 r2 r3 : BitVec 16) : Option Direction :=
  referenceChange (conditionAll ⟨r1, r2, r3⟩ s.svc.active) s

/-- The boundary that the sample places (R12, R13). -/
def State.places (s : State) (r1 r2 r3 : BitVec 16) : Option Placed :=
  (s.counted r1 r2 r3).cyt.boundary (s.change r1 r2 r3)

/-! ## What the statements say of a request and its reply -/

/-- A request can be taken as it arrives: RUN or RIDE_THROUGH, no command in progress, the reply slot empty, no frame
waiting (R190). -/
structure State.LinkFree (s : State) : Prop where
  power : s.spm.power = .run ∨ s.spm.power = .rideThrough
  inProgress : s.hlk.inProgress = none
  reply : s.hlk.reply = none
  buffer : s.hlk.buffer = []

/-- The reply slot holds this reply, formed at this tick with its delay in ticks, and no command is in progress (R191). -/
structure Answered (t : State) (c : Command) (status : Status) (fields : List Text) : Prop where
  reply : ∃ eligible, t.hlk.reply =
    some ⟨c.text, status, fields, t.tmb.tick, (t.hlk.settings.delay * 32768 + 999) / 1000, eligible, none⟩
  released : t.hlk.inProgress = none

/-- What the link keeps when a command is answered and no notice is posted: all but the frame in reception and the reply
slot, where the transmitter is busy; else it may have begun a frame, for which one notice at most has left the queue. -/
structure LinkKept (s t : State) : Prop where
  settings : t.hlk.settings = s.hlk.settings
  configMark : t.hlk.configMark = s.hlk.configMark
  adoption : t.hlk.adoption = s.hlk.adoption
  buffer : t.hlk.buffer = s.hlk.buffer
  reception : t.hlk.reception = none
  notices : t.hlk.notices = s.hlk.notices ∨ t.hlk.notices = s.hlk.notices.tail
  busy : s.hlk.transmitter ≠ .idle → t.hlk = { s.hlk with reception := none, reply := t.hlk.reply }

/-- The notice queue with a notice put to it: it joins where its kind is in the mask and the queue holds fewer than 16
(R194). -/
def noticeJoins (mask : NoticeMask) (queue : List Notice) (n : Notice) : List Notice :=
  if mask.has n.kind = true ∧ queue.length < 16 then queue ++ [n] else queue

/-- What a command that posts these notices, in this order, leaves of the notice queue (R192, R194): while a frame is being
sent they join the queue, and one that finds no room sets the overflow mark; with the transmitter IDLE the first may have
left the queue and be on the line. -/
structure Posts (s t : State) (posted : List Notice) : Prop where
  busy : s.hlk.transmitter ≠ .idle → t.hlk.transmitter = s.hlk.transmitter ∧
    t.hlk.notices = posted.foldl (noticeJoins t.hlk.settings.mask) s.hlk.notices ∧
    (t.hlk.overflow = true ↔ s.hlk.overflow = true ∨ t.hlk.notices.length <
      s.hlk.notices.length + (posted.filter (fun n => t.hlk.settings.mask.has n.kind)).length)
  idle : s.hlk.transmitter = .idle → s.hlk.notices.length + posted.length ≤ 16 →
    let queue := posted.foldl (noticeJoins t.hlk.settings.mask) s.hlk.notices
    t.hlk.notices = queue ∨
      ∃ n, queue = n :: t.hlk.notices ∧ t.hlk.transmitter = .notice n (noticeFrame t.hlk.settings.station n)

/-- A command is answered, and it changes nothing but the link. -/
structure AnsweredOnly (s t : State) (c : Command) (status : Status) (fields : List Text) : Prop where
  answered : Answered t c status fields
  kept : LinkKept s t
  others : t = { s with hlk := t.hlk }

/-- What a cold start restores from the newest settings, measurement and survey or verdict records that the scan found (R119,
R120, R180, R186): the settings with their generation and the reference-pulse settings, the measurement, the tracker in
FREEWHEEL with the constants of the FN restored (R14), every wired phase NORMAL, the link settings, and the survey with its
verdict, for a START record a COLD one that is queued first. -/
structure Restored (s t : State) (settings measurement survey : Option StoredRecord) : Prop where
  active : t.svc.active = (match settings with
    | some r => settingsOfPayload r.payload
    | none => Settings.default)
  generation : t.svc.generation = (match settings with
    | some r => r.generation
    | none => 0#16)
  staged : t.svc.staged = []
  measuring : t.svc.measuring = (match measurement with
    | some r => fieldAt r.payload 0 1 == 2
    | none => false)
  reference : ∀ r, settings = some r → t.tmb.enabled = bitAt (fieldAt r.payload 50 1) 0 ∧
    t.tmb.polarity = if bitAt (fieldAt r.payload 50 1) 1 then .fall else .rise
  noReference : settings = none → t.tmb.enabled = s.tmb.enabled ∧ t.tmb.polarity = s.tmb.polarity
  tracker : t.cyt = { s.cyt with
    channels := t.cyt.channels
    tracker := .freewheel
    progress := .fresh
    last := none
    beforeLast := none
    fnInUse := t.svc.active.fn
    fnChanged := false
    wiringInUse := t.svc.active.wiring
    presence := t.cyt.presence }
  channels : ∀ p, t.cyt.channels.get p = if wired t.svc.active.wiring p then
      some ⟨.neg, .neither, .neither, .neither, match t.svc.active.fn with
        | .hz50 => 95
        | .hz60 => 79⟩
    else none
  phases : ∀ p, t.evd.phases.get p = if wired t.svc.active.wiring p then some ⟨.normal, false⟩ else none
  link : s.hlk.transmitter = .idle → s.hlk.settings.mask.stn = false → (t.hlk.settings, t.hlk.configMark) =
    if s.hlk.defcomAtStart = true then (LinkSettings.fallback, false)
    else match settings with
      | none => (LinkSettings.factory, false)
      | some r =>
        if (linkOfPayload r.payload).inRange = true ∧ fieldAt r.payload 48 2 < 512 then (linkOfPayload r.payload, false)
        else (LinkSettings.fallback, true)
  survey : match survey with
    | none => t.svc.survey = s.svc.survey ∧ t.svc.verdict = s.svc.verdict
    | some r =>
      if r.kind = .vdt then
        let v := verdictOfPayload r.payload r.sequence
        t.svc.verdict = some v ∧ t.svc.survey = { SurveyContext.idle with
          state := if v.cause = .complete then .complete else .aborted
          days := some v.days
          startMark := some v.startMark
          endMark := some v.endMark
          id := some v.surveyId
          protectionStart := some v.surveyId
          startDropped := some v.startDropped
          generationsApplied := v.body.map VerdictBody.generationsApplied }
      else if r.kind = .svy ∧ fieldAt r.payload 0 1 = 1 then
        t.svc.survey = { SurveyContext.idle with
          state := .aborted
          requestedStart := some (fieldAt r.payload 1 4)
          armedMark := some (fieldAt r.payload 5 4)
          days := some (fieldAt r.payload 9 1)
          startMark := some (fieldAt r.payload 10 4)
          endMark := some (fieldAt r.payload 14 4)
          id := some r.sequence
          protectionStart := some r.sequence } ∧
        ∃ v x, t.svc.verdict = some v ∧ v.surveyId = r.sequence ∧ v.cause = .cold ∧ v.overall = .inconclusive ∧
          v.body = none ∧ v.startMark = fieldAt r.payload 10 4 ∧ v.endMark = fieldAt r.payload 14 4 ∧
          v.days = fieldAt r.payload 9 1 ∧ v.expectedIntervals = v.days * 144 ∧ v.expectedFrequencies = v.days * 8640 ∧
          v.share = t.svc.active.share ∧ v.hardshare = t.svc.active.hardshare ∧ v.fshare = t.svc.active.fshare ∧
          v.cover = t.svc.active.cover ∧ t.evs.pwq.head? = some x ∧ x.kind = .vdt ∧ x.payload = v.payload
      else t.svc.survey = s.svc.survey ∧ t.svc.verdict = s.svc.verdict

/-- Nothing but the next operation waits for the medium to become IDLE: no STE (R161), no commitment or drain (R172, R173)
and no start given up (R180). -/
structure State.PlainCompletion (s : State) : Prop where
  ste : s.evs.steWaiting = false
  commit : s.spm.commitWaiting = false
  committed : s.spm.committed = false
  abort : s.spm.abortPending = false

/-- The command and the fields of a request row that is addressed to the station in force; none for an event and for the
broadcast TIS. -/
def requestForm : Instr → Option (Command × List Text)
  | .cal fields => some (.cal, fields)
  | .mvh fields => some (.mvh, fields)
  | .phm fields => some (.phm, fields)
  | .evl fields => some (.evl, fields)
  | .mvw fields => some (.mvw, fields)
  | .mvf fields => some (.mvf, fields)
  | .tlc fields => some (.tlc, fields)
  | .tlr fields => some (.tlr, fields)
  | .tlx fields => some (.tlx, fields)
  | .tlf fields => some (.tlf, fields)
  | .tlu fields => some (.tlu, fields)
  | .tlm fields => some (.tlm, fields)
  | .set fields => some (.set, fields)
  | .get fields => some (.get, fields)
  | .meaGo => some (.mea, ["GO".toList])
  | .meaHalt => some (.mea, ["HALT".toList])
  | .svs fields => some (.svs, fields)
  | .sva fields => some (.sva, fields)
  | .svr fields => some (.svr, fields)
  | .svq fields => some (.svq, fields)
  | .svv fields => some (.svv, fields)
  | .tis broadcast fields => if broadcast then none else some (.tis, fields)
  | .trf fields => some (.trf, fields)
  | .tim fields => some (.tim, fields)
  | .rdr fields => some (.rdr, fields)
  | .rdx fields => some (.rdx, fields)
  | .rdn fields => some (.rdn, fields)
  | .stq fields => some (.stq, fields)
  | .ste fields => some (.ste, fields)
  | .idn fields => some (.idn, fields)
  | .lnk fields => some (.lnk, fields)
  | .sta fields => some (.sta, fields)
  | .sample _ _ _ => none
  | .trackingTimeout _ _ _ => none
  | .syntheticBoundary _ _ _ => none
  | .calibrationWindowOpen => none
  | .calibrationComplete _ => none
  | .referencePulse _ => none
  | .rtcWrap => none
  | .pulseAnchorExpiry => none
  | .holdoverTimeout => none
  | .programComplete _ => none
  | .eraseComplete _ => none
  | .slotReadComplete => none
  | .scanReadComplete => none
  | .supplyFail => none
  | .supplyGood _ _ => none
  | .backupFail => none
  | .backupGood => none
  | .rideThroughWindowEnd => none
  | .tickCounterWrap => none
  | .qualificationEnd => none
  | .characterReceived _ _ => none
  | .frameTimeout => none
  | .replyEligible => none
  | .frameSent => none

/-- Characters received one after the other, none with a framing error (R188). -/
def receiveAll : Text → State → Host.Outcome State Fault Refusal
  | [], s => .next s
  | c :: rest, s =>
    match exec (.characterReceived (BitVec.ofNat 8 c.toNat) false) s with
    | .next t => receiveAll rest t
    | .fault f => .fault f
    | .refused r => .refused r

/-- A request frame as it stands on the line, from its '>' to its LF (R187). -/
def lineFrame (station : Nat) (c : Command) (fields : List Text) : Text :=
  '>' :: twoDigits station ++ (requestFrame station c fields).body ++ ['\n']

end Sys2Proof.Machine
end

