-- ==== Sys2Proof/Certificates/Slice0/Obligations.lean ====
section
/-! DEFINITION. The statements for the provers. -/

section ObligationStatements

open Sys2Proof Sys2Proof.Machine

/-! ## Sampling, cycle tracking and half-cycle values -/

/-- R2, for every channel, raw code and offset. -/
def Obligations.EverySampleIsOffsetAndLimited : Prop :=
  ∀ (raw : PerPhase (BitVec 16)) (set : Settings) (p : Phase), -2048 ≤ set.o.get p → set.o.get p ≤ 2047 →
    ((conditionAll raw set).get p).1 = max (-32767) (min 32767 ((raw.get p).toInt - set.o.get p)) ∧
    (((conditionAll raw set).get p).2 = true ↔
      (raw.get p).toInt = -32768 ∨ (raw.get p).toInt - set.o.get p < -32767 ∨ 32767 < (raw.get p).toInt - set.o.get p)

/-- SAMPLE (R2, R3, R9, R10, R16): what a sample makes of each followed channel, its half, its sign state and its presence
entry, with nothing outside the tracker and the half-cycle unit changed; where it places no boundary, that is the next
state. That a channel which is wired again before a boundary goes on with what it has is the model's choice (log entry 12). -/
def Obligations.SampleJoinsTheCurrentHalves : Prop :=
  ∀ (s : State) (r1 r2 r3 : BitVec 16), sampling s = true →
    let t := s.counted r1 r2 r3
    let q := match s.cyt.fnInUse with
      | .hz50 => 96
      | .hz60 => 80
    (s.places r1 r2 r3 = none → exec (.sample r1 r2 r3) s = .next t) ∧
    t = { s with cyt := t.cyt, hcu := t.hcu } ∧ t.hcu.latest = s.hcu.latest ∧
    t.cyt = { s.cyt with channels := t.cyt.channels, progress := t.cyt.progress, presence := t.cyt.presence } ∧
    t.cyt.progress = (match s.cyt.progress with
      | .fresh => .sinceFirst 0
      | .sinceFirst n => .sinceFirst (n + 1)
      | .sinceBoundary n => .sinceBoundary (n + 1)) ∧
    ∀ p, if wired s.svc.active.wiring p = true ∨ s.cyt.channels.get p ≠ none then
        let x := (conditionAll ⟨r1, r2, r3⟩ s.svc.active).get p
        let h := (s.hcu.channels.get p).getD HcuChannel.empty
        let c := (s.cyt.channels.get p).getD ⟨.neg, .neither, .neither, .neither, q - 1⟩
        let k : SampleClass := if 64 < x.1 then .positive else if x.1 < -64 then .negative else .neither
        let asked : SampleClass := match c.sign with
          | .neg => .positive
          | .pos => .negative
        t.hcu.channels.get p = some ⟨h.previous,
          ⟨h.current.sum + x.1.natAbs * x.1.natAbs, h.current.count + 1, h.current.clipped || x.2⟩⟩ ∧
        t.cyt.channels.get p = some (if 2 ≤ [k, c.newest, c.middle].count asked ∧ q ≤ c.sinceChange + 1 then
            ⟨c.sign.flip, k, c.newest, c.middle, 0⟩
          else ⟨c.sign, k, c.newest, c.middle, c.sinceChange + 1⟩) ∧
        t.cyt.presence.get p = some ((s.cyt.presence.get p).getD ⟨false, 0, false, false⟩)
      else t.hcu.channels.get p = none ∧ t.cyt.channels.get p = none ∧ t.cyt.presence.get p = none

/-- SAMPLE at a boundary (R3, R6, R11 to R21, R24, R53, R77, R174): the report's content, the halves and the tracker moved
on, the reference evaluated for a new WIRING and for the flips of the presence map, a PHN notice for every flip, and, while
MEASURING, the report given to the HALF cells, to the event detector, and with its indications and the cycle that completes
to the interval aggregator, in this order (log entries 12, 13, 27 and 34). -/
def Obligations.BoundaryFormsTheReport : Prop :=
  ∀ (s : State) (r1 r2 r3 : BitVec 16) (kind : Placed), sampling s = true → s.places r1 r2 r3 = some kind →
    let set := s.svc.active
    let c := s.counted r1 r2 r3
    let kept (p : Phase) : Option Presence := if wired set.wiring p then c.cyt.presence.get p else none
    let chosen (held : Phase) (presence : Phase → Option Presence) : Phase :=
      (([Phase.l1, .l2, .l3].filter (wired set.wiring)).find? (fun p => (presence p).any Presence.present)).getD
        (if wired set.wiring held then held else .l1)
    ∃ t r, exec (.sample r1 r2 r3) s = .next t ∧ t.hcu.latest = some r ∧
      r.time = reading s ∧ r.tick = s.tmb.tick ∧ r.osc = s.ich.osc ∧ r.synthetic = kind.isSynthetic ∧
      r.direction = kind.direction ∧ r.count = (c.hcu.channels.l1.map (fun h => h.current.count)).getD 0 ∧
      r.reference = (if s.cyt.wiringInUse = set.wiring then s.cyt.reference else chosen s.cyt.reference kept) ∧
      r.referenceChanged = (s.cyt.referenceChanged || r.reference != s.cyt.reference) ∧
      (∀ p, if wired set.wiring p = true then
          ∃ h, c.hcu.channels.get p = some h ∧
            r.values.get p = some
              ⟨min 20000 ((isqrt ((h.previous.sum + h.current.sum) / (h.previous.count + h.current.count)) *
                  set.k.get p + 32768) / 65536),
                decide (20000 < (isqrt ((h.previous.sum + h.current.sum) / (h.previous.count + h.current.count)) *
                  set.k.get p + 32768) / 65536) || h.previous.clipped || h.current.clipped,
                h.current.sum⟩ ∧
            t.hcu.channels.get p = some ⟨h.current, Half.empty⟩ ∧ t.cyt.channels.get p = c.cyt.channels.get p
        else r.values.get p = none ∧ t.hcu.channels.get p = none ∧ t.cyt.channels.get p = none) ∧
      t.ich = { s.ich with divisor := s.ich.pendingDivisor.getD s.ich.divisor, pendingDivisor := none } ∧
      t.spm = { s.spm with lastBoundary := some (s.spm.wrapCount * 4294967296 + s.tmb.tick.toNat) } ∧
      t.cyt.fnInUse = set.fn ∧ t.cyt.wiringInUse = set.wiring ∧
      t.cyt.progress = .sinceBoundary 0 ∧
      t.cyt.last = some ⟨r.direction, r.tick, r.count⟩ ∧ t.cyt.beforeLast = s.cyt.last ∧
      let tracker : Tracker := if s.cyt.fnChanged = false ∧ r.reference = s.cyt.reference then
          (match kind with
            | .real _ => .tracking
            | .synthetic => .freewheel
            | .leaving => .tracking)
        else .freewheel
      let cycle : Option Cycle := match kind, s.cyt.last, s.cyt.beforeLast with
        | .real .positiveGoing, some last, some before =>
          if last.direction.isSome ∧ before.direction.isSome then some ⟨before.tick, s.tmb.tick, last.half + r.count⟩ else none
        | _, _, _ => none
      let span := (s.spm.lastBoundary.map (fun b => s.spm.wrapCount * 4294967296 + s.tmb.tick.toNat - b)).getD 0
      let made : State := { s with
        ich := t.ich
        cyt := { t.cyt with
          fnChanged := false
          presence := PerPhase.build kept
          reference := r.reference
          referenceChanged := false
          tracker := tracker }
        hcu := t.hcu
        tmb := s.tmb.afterReading
        spm := t.spm }
      let told := if s.svc.measuring then
          let processed := processReport r span (handItem (.half r) made)
          takeBoundary r processed.2 cycle processed.1
        else made
      let flips (p : Phase) : Bool := match kept p, r.values.get p with
        | some e, some v => (e.after v.value).2
        | _, _ => false
      (∀ p, t.cyt.presence.get p = match kept p, r.values.get p with
        | some e, some v => some (e.after v.value).1
        | e, _ => e) ∧
      t.cyt.reference = (if [Phase.l1, .l2, .l3].any flips then chosen r.reference t.cyt.presence.get else r.reference) ∧
      t.cyt.referenceChanged = (t.cyt.reference != r.reference) ∧
      t.cyt.tracker = (if t.cyt.reference = r.reference then tracker else .freewheel) ∧
      t.cyt.fnChanged = (told.svc.active.fn != set.fn) ∧
      t = ([Phase.l1, .l2, .l3].filter flips).foldl (fun x p => postNotice .phn [phaseText p,
          presenceText ((t.cyt.presence.get p).any Presence.present), timeText r.time, phaseText t.cyt.reference] x)
        { told with cyt := t.cyt }

/-- TRACKING_TIMEOUT (R12): with no accepted change the boundary is synthetic and the tracker enters FREEWHEEL; a change
on that sample makes it a real boundary. SYNTHETIC_BOUNDARY (R13): the schedule places one boundary, synthetic and without
direction; it stays in FREEWHEEL unless the reference changes to POS there. Which boundary any sample places (R12 to R14), and
what change of the reference it carries. That these rows carry a sample is the model's reading (log entry 5). -/
def Obligations.TimeoutAndSchedulePlaceBoundaries : Prop :=
  (∀ (s : State) (r1 r2 r3 : BitVec 16), timeoutDue s = true →
     ∃ t r, exec (.trackingTimeout r1 r2 r3) s = .next t ∧ t.hcu.latest = some r ∧ t.cyt.progress = .sinceBoundary 0 ∧
       r.tick = s.tmb.tick ∧ r.direction = s.change r1 r2 r3 ∧ r.synthetic = (s.change r1 r2 r3).isNone ∧
       (s.change r1 r2 r3 = none → t.cyt.tracker = .freewheel) ∧
       t.evs.medium = s.evs.medium ∧ t.spm.power = s.spm.power ∧ t.pending = s.pending) ∧
  (∀ (s : State) (r1 r2 r3 : BitVec 16), scheduleDue s = true →
     ∃ t r, exec (.syntheticBoundary r1 r2 r3) s = .next t ∧ t.hcu.latest = some r ∧ t.cyt.progress = .sinceBoundary 0 ∧
       r.tick = s.tmb.tick ∧ r.direction = none ∧ r.synthetic = true ∧
       (s.change r1 r2 r3 ≠ some .positiveGoing → t.cyt.tracker = .freewheel) ∧
       t.evs.medium = s.evs.medium ∧ t.spm.power = s.spm.power ∧ t.pending = s.pending) ∧
  (∀ (s : State) (r1 r2 r3 : BitVec 16),
     let cycle := match s.cyt.fnInUse with
       | .hz50 => 384
       | .hz60 => 320
     s.change r1 r2 r3 = ((s.counted r1 r2 r3).cyt.channels.get s.cyt.reference).bind (fun c =>
       if c.sinceChange = 0 then some (match c.sign with
         | .pos => .positiveGoing
         | .neg => .negativeGoing)
       else none) ∧
     s.places r1 r2 r3 = match s.cyt.tracker, s.cyt.progress with
       | .tracking, .sinceBoundary n =>
         (match s.change r1 r2 r3 with
           | some d => some (.real d)
           | none => if cycle ≤ n + 1 then some .synthetic else none)
       | .freewheel, .sinceBoundary n =>
         if s.change r1 r2 r3 = some .positiveGoing ∧ cycle / 4 ≤ n + 1 then some .leaving
         else if cycle / 2 ≤ n + 1 then some .synthetic
         else none
       | .freewheel, .sinceFirst n => if cycle / 2 ≤ n + 1 then some .synthetic else none
       | _, _ => none) ∧
  (∀ (s : State) (r1 r2 r3 : BitVec 16),
     (timeoutDue s = true → exec (.trackingTimeout r1 r2 r3) s = exec (.sample r1 r2 r3) s) ∧
     (scheduleDue s = true → exec (.syntheticBoundary r1 r2 r3) s = exec (.sample r1 r2 r3) s))

/-- CALIBRATION_WINDOW_OPEN and CALIBRATION_COMPLETE (R4, R5, R6, R7), each with everything else unchanged. That a window due
while one is open begins anew is the model's choice (log entry 28). -/
def Obligations.CalibrationSetsThePendingDivisor : Prop :=
  (∀ s : State, sampling s = true → (∃ o, s.ich.lastOpen = some o ∧ 1966080 ≤ tickSpan o s.tmb.tick) →
    exec .calibrationWindowOpen s =
      .next { s with ich := { s.ich with windowOpen := true, lastOpen := some s.tmb.tick } }) ∧
  (∀ (s : State) (n1 : BitVec 32), sampling s = true → s.ich.windowOpen = true →
    (∃ o, s.ich.lastOpen = some o ∧ 8192 ≤ tickSpan o s.tmb.tick) →
    exec (.calibrationComplete n1) s =
      .next { s with ich := { s.ich with
        windowOpen := false
        lastN1 := some n1.toNat
        osc := decide ((n1.toNat + 2400) / 4800 < 950 ∨ 1050 < (n1.toNat + 2400) / 4800)
        pendingDivisor := some (max 950 (min 1050 ((n1.toNat + 2400) / 4800))) } })

/-- R5, R7: OSC changes at the completion of a calibration, and a cold start clears it; nothing else moves it. -/
def Obligations.OnlyCalibrationsAndColdStartsMoveOsc : Prop :=
  ∀ (i : Instr) (s t : State), exec i s = .next t → t.ich.osc ≠ s.ich.osc →
    (∃ n1, i = .calibrationComplete n1) ∨ t.ich = Ich.cold

/-- CAL (R8). -/
def Obligations.CalReportsTheSampleClock : Prop :=
  ∀ (s : State) (fields : List Text), s.LinkFree → wellFormedFields fields = true →
    ∃ t, exec (.cal fields) s = .next t ∧
      if fields = [] then
        AnsweredOnly s t .cal .ok [num s.ich.divisor, optText num s.ich.pendingDivisor, optText num s.ich.lastN1,
          bitText s.ich.osc,
          num (if s.ich.windowOpen then 0
            else 1966080 - (s.ich.lastOpen.map (fun o => tickSpan o s.tmb.tick)).getD 0)]
      else AnsweredOnly s t .cal .syn []

/-- PHM (R22): the map as it stands, and then the joined and lost marks cleared and nothing else of the map changed. That the
groups of the wired phases stand without a count field is the model's choice (log entry 23). -/
def Obligations.PhmReportsAndClearsTheMarks : Prop :=
  ∀ (s : State) (fields : List Text), s.LinkFree → wellFormedFields fields = true →
    ∃ t, exec (.phm fields) s = .next t ∧
      if fields ≠ [] then AnsweredOnly s t .phm .syn []
      else
        Answered t .phm .ok (phaseText s.cyt.reference ::
          ([s.cyt.presence.l1, s.cyt.presence.l2, s.cyt.presence.l3].filterMap id).map (fun e =>
            compound [presenceText e.present, num e.run, bitText e.joined, bitText e.lost])) ∧
        LinkKept s t ∧
        t = { s with
          cyt := { s.cyt with presence := PerPhase.build (fun p => (s.cyt.presence.get p).map (fun e =>
            { e with joined := false, lost := false })) }
          hlk := t.hlk }

/-- R20: a value that agrees empties the run, one that contradicts lengthens it, and the tenth in a row flips the entry
and sets the mark of its direction. -/
def Obligations.TenthContradictionFlipsPresence : Prop :=
  ∀ (e : Presence) (v : Nat),
    (decide (2000 ≤ v) = e.present → e.after v = ({ e with run := 0 }, false)) ∧
    (decide (2000 ≤ v) ≠ e.present → e.run < 9 → e.after v = ({ e with run := e.run + 1 }, false)) ∧
    (decide (2000 ≤ v) ≠ e.present → 9 ≤ e.run →
      e.after v = (⟨!e.present, 0, e.joined || !e.present, e.lost || e.present⟩, true))

/-! ## Voltage events -/

/-- R27, R30: under an interruption threshold not above the dip threshold, every command and every step keep the detector
regular. R97, R98, R100: every step keeps the active and the staged settings in their ranges, the staged ones in order, where
those restored at the end of a scan are, and in their ranges the interruption threshold is not above the dip threshold. -/
def Obligations.EveryCommandKeepsTheDetectorRegular : Prop :=
  (∀ (i : Instr) (s t : State), s.svc.active.tint ≤ s.svc.active.tdip → s.evd.Regular → exec i s = .next t →
    t.evd.Regular) ∧
  (∀ s t : State, s.svc.active.tint ≤ s.svc.active.tdip → s.evd.Regular → step s = .next t → t.evd.Regular) ∧
  (∀ s t : State, s.svc.InRange →
    (∀ (r : StoredRecord) (n : Setting), t.evs.recovery.settings = some r →
      n.inRange ((settingsOfPayload r.payload).get n) = true) →
    step s = .next t → t.svc.InRange) ∧
  (∀ v : Svc, v.InRange → v.active.tint ≤ v.active.tdip)

/-- R29, R38: after a report a kind has an open record exactly where its condition holds on the per-phase states that the
report leaves, and an interruption is open only inside an open dip. R26 to R29: the thresholds that move a phase's excursion
and its flag, and the three conditions. R31, R32, R34 to R36, R46, R51: the records that a report opens, with their numbers
and first values, the dip's contained count and the notices. R37 to R40, R42, R43, R47, R49, R51: what the close of a record
queues, tells the tally bank and posts, at a report that ends its condition and at a halt. That a halt between a warm resume and
its first report closes a record without the mark RESUMED and without the span of the dormancy is the model's choice (log entry
41). -/
def Obligations.RecordsAreOpenWhileTheirConditionHolds : Prop :=
  (∀ (before : PerPhase (Option PhaseState)) (set : Settings) (r : Report),
    let after := phasesAfter before set r
    (∀ p, r.values.get p = none → after.get p = none) ∧
    (∀ p v, r.values.get p = some v →
      let x := (before.get p).getD ⟨.normal, false⟩
      let excursion : Excursion := match x.excursion with
        | .normal => if v.value < set.tdip then .low else if set.tswell < v.value then .high else .normal
        | .low => if set.tdip + set.hyst ≤ v.value then .normal else .low
        | .high => if v.value + set.hyst ≤ set.tswell then .normal else .high
      after.get p = some ⟨excursion,
        if v.value < set.tint ∧ excursion = .low then true
        else if set.tint + set.hyst ≤ v.value then false
        else x.interrupted⟩) ∧
    (conditionHolds after .dip = true ↔ ∃ p x, after.get p = some x ∧ x.excursion = .low) ∧
    (conditionHolds after .swell = true ↔ ∃ p x, after.get p = some x ∧ x.excursion = .high) ∧
    (conditionHolds after .interruption = true ↔
      (∃ p x, after.get p = some x) ∧ ∀ p x, after.get p = some x → x.interrupted = true)) ∧
  (∀ (s : State) (r : Report) (span : Nat), s.evd.Regular → s.svc.active.tint ≤ s.svc.active.tdip → 0 < s.svc.active.lmax →
    let phases := phasesAfter s.evd.phases s.svc.active r
    let ticks := if s.evd.resumed then span else (s.evd.lastBoundary.map (fun b => tickSpan b.tick r.tick)).getD 0
    let opening := [EventKind.dip, .swell, .interruption].filter (fun k =>
      (s.evd.context k).isNone && conditionHolds phases k)
    let number (n : Nat) : BitVec 32 := s.evd.counter + BitVec.ofNat 32 (n + 1)
    let taking (k : EventKind) : List Phase := [Phase.l1, .l2, .l3].filter (fun p => match phases.get p, k with
      | some x, .dip => x.excursion == .low
      | some x, .swell => x.excursion == .high
      | some x, .interruption => x.interrupted
      | none, _ => false)
    (∀ k d, s.evd.context k = some d → conditionHolds phases k = true → d.elapsed + ticks < s.svc.active.lmax * 32768) →
    let t := (processReport r span s).1
    t.evd.counter = s.evd.counter + BitVec.ofNat 32 opening.length ∧
    (∀ n kind, opening[n]? = some kind → ∃ c e, t.evd.context kind = some c ∧ c.kind = kind ∧ c.number = number n ∧
      c.continuesFrom = none ∧ c.startTime = r.time ∧ c.startTick = r.tick ∧ c.elapsed = 0 ∧ c.chainStart = r.time ∧
      c.chainDuration = 0 ∧ c.extreme = some e ∧ c.chainExtreme = some e ∧ e.phase ∈ taking kind ∧
      (r.values.get e.phase).map PhaseValue.value = some e.value ∧
      (∀ p v, p ∈ taking kind → r.values.get p = some v → (match kind with
        | .swell => v.value ≤ e.value
        | .dip => e.value ≤ v.value
        | .interruption => e.value ≤ v.value) ∧ (v.value = e.value → phaseDigit e.phase ≤ phaseDigit p)) ∧
      c.phases = (taking kind).map (fun p => ⟨p, 0, ((r.values.get p).map PhaseValue.value).getD 0, 0, true, 0⟩) ∧
      c.marks = ⟨([r.values.l1, r.values.l2, r.values.l3].filterMap id).any PhaseValue.clipped, r.synthetic, false, false,
        false⟩ ∧
      (kind ≠ .dip ∨ .interruption ∉ opening → c.containedCount = 0 ∧ c.firstContained = none ∧ c.chainContained = 0)) ∧
    (∀ n, opening[n]? = some .interruption → ∃ d, t.evd.dip = some d ∧
      (s.evd.dip = none → d.containedCount = 1 ∧ d.firstContained = some (number n) ∧ d.chainContained = 1) ∧
      ∀ old, s.evd.dip = some old → d.containedCount = min 255 (old.containedCount + 1) ∧
        d.firstContained = (if old.containedCount = 0 then some (number n) else old.firstContained) ∧
        d.chainContained = min 255 (old.chainContained + 1)) ∧
    ((∀ k c, s.evd.context k = some c → conditionHolds phases k = true) → t.evs = s.evs ∧ t.tlb = s.tlb ∧
      (s.hlk.settings.mask.evo = true → s.hlk.transmitter ≠ .idle → s.hlk.notices.length + opening.length ≤ 16 →
        t.hlk = { s.hlk with notices := s.hlk.notices ++ opening.mapIdx (fun n k =>
          ⟨.evo, [k.text, num (number n).toNat, [], timeText r.time, phaseSetText (taking k)]⟩) }))) ∧
  (∀ (s : State) (r : Report) (span : Nat), s.evd.Regular → s.svc.active.tint ≤ s.svc.active.tdip →
    (∀ kind, ((processReport r span s).1.evd.context kind).isSome =
      conditionHolds (phasesAfter s.evd.phases s.svc.active r) kind) ∧
    ((processReport r span s).1.evd.interruption.isSome = true → (processReport r span s).1.evd.dip.isSome = true)) ∧
  (∀ (s : State) (r : Report) (span : Nat) (kind : EventKind) (c : Context), s.evd.Regular →
    let phases := phasesAfter s.evd.phases s.svc.active r
    let ticks := if s.evd.resumed then span else (s.evd.lastBoundary.map (fun b => tickSpan b.tick r.tick)).getD 0
    s.evd.context kind = some c → conditionHolds phases kind = false →
    (∀ k, k ≠ kind → (s.evd.context k).isSome = conditionHolds phases k) →
    (∀ k d, s.evd.context k = some d → d.elapsed + ticks < s.svc.active.lmax * 32768) →
    let t := (processReport r span s).1
    let elapsed := c.elapsed + ticks
    let total := saturate max32 (c.chainDuration + durationMs elapsed)
    let cause : CloseCause := if s.evd.resumed then .resume else .ended
    let last (e : PhaseEntry) := if (r.values.get e.phase).isNone then c.elapsed else elapsed
    (processReport r span s).2 = ⟨true, 1⟩ ∧ t.evd.context kind = none ∧ t.evd.counter = s.evd.counter ∧
    Queues s t .evt (EventRecord.payload {
      kind := kind
      number := c.number
      continuesFrom := c.continuesFrom
      cause := cause
      startTime := c.startTime
      endTime := r.time
      duration := durationMs elapsed
      extreme := c.extreme
      entries := c.phases.map (fun e =>
        ⟨e.phase, e.offset, e.extreme, durationMs (e.ticks + if e.out then last e - e.began else 0), false⟩)
      containedCount := if kind = .dip then c.containedCount else 0
      firstContained := if kind = .dip then c.firstContained else none
      chain := if c.continuesFrom = none then none else some ⟨c.chainStart, total, c.chainExtreme⟩
      marks := { c.marks with
        clipped := c.marks.clipped || ([r.values.l1, r.values.l2, r.values.l3].filterMap id).any PhaseValue.clipped
        synthetic := c.marks.synthetic || r.synthetic
        resumed := c.marks.resumed || s.evd.resumed } }) s.svc.generation ∧
    t.tlb = (handItem (.evt ⟨kind, c.number, cause, c.chainStart, total, c.chainExtreme.getD ⟨0, .l1⟩, c.chainContained⟩)
      s).tlb ∧
    (s.hlk.settings.mask.evc = true → s.hlk.transmitter ≠ .idle → s.hlk.notices.length < 16 →
      (⟨.evc, [kind.text, num c.number.toNat, cause.text, timeText r.time, num (durationMs elapsed),
        optText (fun e : Extreme => num e.value) c.extreme, optText (fun e : Extreme => phaseText e.phase) c.extreme,
        optText num (offeredSequence s)]⟩ : Notice) ∈ t.hlk.notices)) ∧
  (∀ (s : State) (kind : EventKind) (c : Context), s.evd.Regular → s.evd.context kind = some c →
    (∀ k, k ≠ kind → s.evd.context k = none) →
    let t := stopRecords s
    let total := saturate max32 (c.chainDuration + durationMs c.elapsed)
    t.evd.context kind = none ∧ t.evd.counter = s.evd.counter ∧ t.evd.phases = s.evd.phases ∧
    Queues s t .evt (EventRecord.payload {
      kind := kind
      number := c.number
      continuesFrom := c.continuesFrom
      cause := .stop
      startTime := c.startTime
      endTime := (s.evd.lastBoundary.map ProcessedBoundary.time).getD c.startTime
      duration := durationMs c.elapsed
      extreme := c.extreme
      entries := c.phases.map (fun e =>
        ⟨e.phase, e.offset, e.extreme, durationMs (e.ticks + if e.out then c.elapsed - e.began else 0), e.out⟩)
      containedCount := if kind = .dip then c.containedCount else 0
      firstContained := if kind = .dip then c.firstContained else none
      chain := if c.continuesFrom = none then none else some ⟨c.chainStart, total, c.chainExtreme⟩
      marks := c.marks }) s.svc.generation ∧
    t.tlb = (handItem (.evt ⟨kind, c.number, .stop, c.chainStart, total, c.chainExtreme.getD ⟨0, .l1⟩, c.chainContained⟩)
      s).tlb)

/-- R33, R49: a record whose condition goes on holding, short of Lmax, keeps its number, its start and its chain start,
and its elapsed count grows by the ticks of the report. R34 to R36: its extremes move as O13 states, its marks take those of
the report, and its phase list goes on: a phase that takes part goes on or begins a period out and lowers or raises its own
extreme, one that no longer takes part ends its period here, one no longer wired at the boundary before, and one that joins is
added with its offset. R41, R42: one that has reached Lmax closes with LIMIT, is not
classified, and is continued by the next number from this report on. -/
def Obligations.AReportLengthensTheOpenRecord : Prop :=
  (∀ (s : State) (r : Report) (span : Nat) (kind : EventKind) (c : Context), s.evd.Regular →
    s.evd.context kind = some c → conditionHolds (phasesAfter s.evd.phases s.svc.active r) kind = true →
    c.elapsed + (if s.evd.resumed then span else (s.evd.lastBoundary.map (fun b => tickSpan b.tick r.tick)).getD 0) <
      s.svc.active.lmax * 32768 →
    ∃ c', (processReport r span s).1.evd.context kind = some c' ∧ c'.number = c.number ∧ c'.startTime = c.startTime ∧
      c'.startTick = c.startTick ∧ c'.chainStart = c.chainStart ∧ c'.chainDuration = c.chainDuration ∧
      c'.elapsed = c.elapsed + (if s.evd.resumed then span
        else (s.evd.lastBoundary.map (fun b => tickSpan b.tick r.tick)).getD 0) ∧
      c'.marks = { c.marks with
        clipped := c.marks.clipped || ([r.values.l1, r.values.l2, r.values.l3].filterMap id).any PhaseValue.clipped
        synthetic := c.marks.synthetic || r.synthetic
        resumed := c.marks.resumed || s.evd.resumed } ∧
      let phases := phasesAfter s.evd.phases s.svc.active r
      let takes (p : Phase) : Bool := match phases.get p, kind with
        | some x, .dip => x.excursion == .low
        | some x, .swell => x.excursion == .high
        | some x, .interruption => x.interrupted
        | none, _ => false
      let stricter (v held : Nat) : Bool := match kind with
        | .dip => decide (v < held)
        | .swell => decide (held < v)
        | .interruption => decide (v < held)
      c'.extreme = (c.progress phases r).extreme ∧ c'.chainExtreme = (c.progress phases r).chainExtreme ∧
      c'.phases = c.phases.map (fun e => match r.values.get e.phase with
          | none => if e.out then { e with ticks := e.ticks + (c.elapsed - e.began), out := false } else e
          | some v =>
            if takes e.phase then { e with
              extreme := if stricter v.value e.extreme then v.value else e.extreme
              began := if e.out then e.began else c'.elapsed
              out := true }
            else if e.out then { e with ticks := e.ticks + (c'.elapsed - e.began), out := false }
            else e) ++
        ([Phase.l1, .l2, .l3].filter (fun p => takes p && !c.phases.any (fun e => e.phase == p))).map (fun p =>
          ⟨p, durationMs c'.elapsed, ((r.values.get p).map PhaseValue.value).getD 0, 0, true, c'.elapsed⟩)) ∧
  (∀ (s : State) (r : Report) (span : Nat) (kind : EventKind) (c : Context), s.evd.Regular →
    let phases := phasesAfter s.evd.phases s.svc.active r
    let ticks := if s.evd.resumed then span else (s.evd.lastBoundary.map (fun b => tickSpan b.tick r.tick)).getD 0
    s.evd.context kind = some c → conditionHolds phases kind = true → s.svc.active.lmax * 32768 ≤ c.elapsed + ticks →
    (∀ k, k ≠ kind → (s.evd.context k).isSome = conditionHolds phases k ∧
      ∀ d, s.evd.context k = some d → d.elapsed + ticks < s.svc.active.lmax * 32768) →
    let t := (processReport r span s).1
    let x := (c.advance r ticks s.evd.resumed).progress phases r
    let total := saturate max32 (c.chainDuration + durationMs (c.elapsed + ticks))
    Queues s t .evt (EventRecord.payload {
      kind := kind
      number := c.number
      continuesFrom := c.continuesFrom
      cause := .limit
      startTime := c.startTime
      endTime := r.time
      duration := durationMs (c.elapsed + ticks)
      extreme := x.extreme
      entries := x.phases.map (fun e => ⟨e.phase, e.offset, e.extreme,
        durationMs (e.ticks + if e.out then c.elapsed + ticks - e.began else 0), e.out⟩)
      containedCount := if kind = .dip then c.containedCount else 0
      firstContained := if kind = .dip then c.firstContained else none
      chain := if c.continuesFrom = none then none else some ⟨c.chainStart, total, x.chainExtreme⟩
      marks := x.marks }) s.svc.generation ∧
    t.tlb = s.tlb ∧ t.evd.counter = s.evd.counter + 1 ∧
    ∃ n, t.evd.context kind = some n ∧ n.kind = kind ∧ n.number = s.evd.counter + 1 ∧ n.continuesFrom = some c.number ∧
      n.startTime = r.time ∧ n.startTick = r.tick ∧ n.elapsed = 0 ∧ n.chainStart = c.chainStart ∧ n.chainDuration = total ∧
      n.chainContained = c.chainContained ∧
      n.containedCount = (if kind = .dip ∧ s.evd.interruption ≠ none then 1 else 0) ∧
      n.firstContained = (if kind = .dip then s.evd.interruption.map Context.number else none) ∧
      n.marks.settingsChanged = false ∧ n.marks.timeStep = false ∧ n.marks.resumed = false ∧
      n.phases.map (fun e => (e.phase, e.offset, e.out)) = (takingPart phases kind).map (fun p => (p, 0, true)))

/-- R34: after a report a record's extreme, and its chain's, is the strictest of the one held and the values of the phases
taking part: the lowest for a DIP and an INTERRUPTION, the highest for a SWELL. It passes to a value that is strictly lower or
higher alone, to the lowest-numbered phase that has it; with none held it is one of those values, and with no phase taking
part it stays. -/
def Obligations.ExtremeIsTheStrictestValueReached : Prop :=
  ∀ (c : Context) (phases : PerPhase (Option PhaseState)) (r : Report),
    let takes (p : Phase) (v : Nat) : Prop := ∃ x y, phases.get p = some x ∧ r.values.get p = some y ∧ y.value = v ∧
      (match c.kind with
        | .dip => x.excursion = .low
        | .swell => x.excursion = .high
        | .interruption => x.interrupted = true)
    let stricter (v w : Nat) : Prop := match c.kind with
      | .dip => v < w
      | .swell => w < v
      | .interruption => v < w
    let follows (held reached : Option Extreme) : Prop :=
      (∀ p v, takes p v → ∃ e, reached = some e ∧ ¬ stricter v e.value) ∧
      ((∀ p v, ¬ takes p v) → reached = held) ∧
      (∀ e, held = some e →
        ((∀ p v, takes p v → ¬ stricter v e.value) → reached = some e) ∧
        ((∃ p v, takes p v ∧ stricter v e.value) → ∃ e', reached = some e' ∧ stricter e'.value e.value ∧
          takes e'.phase e'.value ∧ ∀ p, takes p e'.value → phaseDigit e'.phase ≤ phaseDigit p)) ∧
      (held = none → ∀ e, reached = some e →
        takes e.phase e.value ∧ ∀ p, takes p e.value → phaseDigit e.phase ≤ phaseDigit p)
    follows c.extreme (c.progress phases r).extreme ∧ follows c.chainExtreme (c.progress phases r).chainExtreme

/-- EVL (R52): a count and one entry for each open record, in the order DIP, SWELL, INTERRUPTION (the form of an entry, with
the two contained subfields in a DIP alone, is the model's, log entry 23). -/
def Obligations.EvlListsTheOpenRecords : Prop :=
  ∀ (s : State) (fields : List Text), s.LinkFree → wellFormedFields fields = true →
    ∃ t, exec (.evl fields) s = .next t ∧
      if fields ≠ [] then AnsweredOnly s t .evl .syn []
      else
        let records := [s.evd.dip, s.evd.swell, s.evd.interruption].filterMap id
        AnsweredOnly s t .evl .ok (num records.length :: records.map (fun c =>
          compound ([c.kind.text, num c.number.toNat, optText (fun n : BitVec 32 => num n.toNat) c.continuesFrom,
            timeText c.startTime, num (durationMs c.elapsed), optText (fun e : Extreme => num e.value) c.extreme,
            optText (fun e : Extreme => phaseText e.phase) c.extreme]
            ++ num c.phases.length :: c.phases.map (fun e => compound [phaseText e.phase, num e.offset, num e.extreme,
              num (durationMs (e.ticks + if e.out then c.elapsed - e.began else 0)), bitText e.out])
            ++ (if c.kind = .dip then [num c.containedCount,
              optText (fun n : BitVec 32 => num n.toNat) c.firstContained] else [])
            ++ [timeText c.chainStart, num (saturate max32 (c.chainDuration + durationMs c.elapsed)),
              optText (fun e : Extreme => num e.value) c.chainExtreme,
              optText (fun e : Extreme => phaseText e.phase) c.chainExtreme, c.marks.text])))

/-! ## Windows, intervals and frequency -/

/-- R54 to R57, R61: an ordinary boundary inside an interval joins the window in progress with its half and its flag reasons,
a window that begins has the full count 20 or 24, and the boundary that brings it to its full count ends it with the RMS values
of its own samples, which the interval takes into its sums and ranges and the tally bank as an item. That the interval's two
window counts stay at 65,535 is the model's choice (log entry 22). -/
def Obligations.WindowEndsAtItsFullCount : Prop :=
  ∀ (s : State) (r : Report) (ind : Indications) (cycle : Option Cycle) (i : Interval), s.iva.interval = some i →
    s.iva.pendingStep = false → s.iva.resumed = false → r.time.seconds < i.startMark + 600 →
    let full := match s.svc.active.fn with
      | .hz50 => 20
      | .hz60 => 24
    let w := s.iva.window.getD ⟨full, 0, ⟨0, 0, 0⟩, 0, ⟨false, false, false, false⟩⟩
    let t := takeBoundary r ind cycle s
    if w.count + 1 < w.full then
      t.iva.latestWindow = s.iva.latestWindow ∧
      ∃ w', t.iva.window = some w' ∧ w'.full = w.full ∧ w'.count = w.count + 1 ∧ w'.samples = w.samples + r.count ∧
        (∀ p, w'.sums.get p = w.sums.get p + ((r.values.get p).map PhaseValue.halfSum).getD 0) ∧
        (w'.flags.event = true ↔ w.flags.event = true ∨ ind.anyOpen = true) ∧
        (w'.flags.synthetic = true ↔ w.flags.synthetic = true ∨ r.synthetic = true) ∧
        (w'.flags.clipped = true ↔ w.flags.clipped = true ∨ ∃ p v, r.values.get p = some v ∧ v.clipped = true) ∧
        (w'.flags.oscillator = true ↔ w.flags.oscillator = true ∨ r.osc = true)
    else
      t.iva.window = none ∧
      ∃ l, t.iva.latestWindow = some l ∧ l.endTime = r.time ∧ l.count = w.count + 1 ∧ l.samples = w.samples + r.count ∧
        l.startMark = i.startMark ∧ (l.short = true ↔ w.count + 1 < w.full) ∧
        (l.flags.event = true ↔ w.flags.event = true ∨ ind.anyOpen = true) ∧
        (l.flags.synthetic = true ↔ w.flags.synthetic = true ∨ r.synthetic = true) ∧
        (l.flags.clipped = true ↔ w.flags.clipped = true ∨ (∃ p v, r.values.get p = some v ∧ v.clipped = true) ∨
          ∃ p, wired s.svc.active.wiring p = true ∧
            20000 < (isqrt ((w.sums.get p + ((r.values.get p).map PhaseValue.halfSum).getD 0) / (w.samples + r.count)) *
              s.svc.active.k.get p + 32768) / 65536) ∧
        (l.flags.oscillator = true ↔ w.flags.oscillator = true ∨ r.osc = true) ∧
        (∀ d, s.iva.period = some d → r.time.seconds < d.startMark + 10 →
          t.tlb = (handItem (.win l.values (l.flags.event || l.flags.synthetic || l.flags.clipped || l.flags.oscillator)
            i.startMark) s).tlb) ∧
        (∀ p, l.values.get p = if wired s.svc.active.wiring p then
            some (min 20000 ((isqrt ((w.sums.get p + ((r.values.get p).map PhaseValue.halfSum).getD 0) /
              (w.samples + r.count)) * s.svc.active.k.get p + 32768) / 65536))
          else none) ∧
        ∃ i', t.iva.interval = some i' ∧ i'.startMark = i.startMark ∧ i'.windows = saturate max16 (i.windows + 1) ∧
          i'.flagged = saturate max16 (i.flagged +
            if l.flags.event ∨ l.flags.synthetic ∨ l.flags.clipped ∨ l.flags.oscillator then 1 else 0) ∧
          i'.marks = { i.marks with
            event := i.marks.event || l.flags.event
            synthetic := i.marks.synthetic || l.flags.synthetic
            clipped := i.marks.clipped || l.flags.clipped
            clock := i.marks.clock || l.flags.oscillator } ∧
          ∀ p, i'.phases.get p = match l.values.get p with
            | some v => ⟨(i.phases.get p).squares + v * v, some (match (i.phases.get p).range with
              | some (low, high) => (min low v, max high v)
              | none => (v, v))⟩
            | none => i.phases.get p

/-- R59, R60, R64, R65, R102: the first boundary at or after the end mark closes the interval: the period that is due and the
window in progress are ended into it with the closes of the boundary, its record takes the next sequence number of a store with
room, IVC is posted, the tally bank is handed the interval item, the staged set is applied and then the survey advances, and the
interval of the next mark opens empty. That its two window counts stay at 65,535 is the model's choice (log entry 22), and so
is that IVC gives the values of the wired phases without a count field (log entry 23). -/
def Obligations.IntervalClosesAtItsEndMark : Prop :=
  ∀ (s : State) (r : Report) (ind : Indications) (cycle : Option Cycle) (i : Interval), s.iva.interval = some i →
    s.iva.pendingStep = false → s.iva.resumed = false → i.startMark + 600 ≤ r.time.seconds →
    let t := takeBoundary r ind cycle s
    t.iva.window = none ∧ t.iva.lastBoundaryTime = some r.time ∧
    t.iva.interval = some (Interval.begin (i.startMark + 600) IntervalMarks.none) ∧
    (∃ l, t.iva.latestWindow = some l ∧ l.endTime = r.time ∧ l.startMark = i.startMark) ∧
    (recordTaken s = true → ∃ x, x ∈ t.evs.pwq ∧ x.kind = .ivl ∧ x.sequence = nextSequence s.evs ∧
      fieldAt x.payload 1 4 = i.startMark % 4294967296) ∧
    let u := addCloses ind.closes (windowTakes r ind.anyOpen true
      (periodTakes (planBoundary s.iva i r.time.seconds) r cycle { s with iva := markBoundary s.iva }))
    ∃ (l : LatestWindow) (j : Interval), t.iva.latestWindow = some l ∧ u.iva.interval = some j ∧
      (j.startMark = i.startMark ∧ j.closes = min 65535 (i.closes + ind.closes) ∧ j.windows = min 65535 (i.windows + 1) ∧
        j.flagged = min 65535 (i.flagged +
          if l.flags.event ∨ l.flags.synthetic ∨ l.flags.clipped ∨ l.flags.oscillator then 1 else 0) ∧
        j.marks = { i.marks with
          event := i.marks.event || l.flags.event
          synthetic := i.marks.synthetic || l.flags.synthetic
          clipped := i.marks.clipped || l.flags.clipped
          clock := i.marks.clock || l.flags.oscillator } ∧
        (∀ p, j.phases.get p = match l.values.get p with
          | some v => ⟨(i.phases.get p).squares + v * v, some (match (i.phases.get p).range with
            | some (low, high) => (min low v, max high v)
            | none => (v, v))⟩
          | none => i.phases.get p) ∧
        ((∀ d, s.iva.period = some d → r.time.seconds < d.startMark + 10 ∨ (d.value s.svc.active.fn).valid = false) →
          j.frequencyCount = i.frequencyCount ∧ j.frequencySum = i.frequencySum ∧ j.frequencyRange = i.frequencyRange) ∧
        ∀ d f, s.iva.period = some d → d.startMark + 10 ≤ r.time.seconds → (d.value s.svc.active.fn).valid = true →
          (d.value s.svc.active.fn).value = some f →
          j.frequencyCount = i.frequencyCount + 1 ∧ j.frequencySum = i.frequencySum + f ∧
          j.frequencyRange = some (match i.frequencyRange with
            | some (low, high) => (min low f, max high f)
            | none => (f, f))) ∧
      (u = { s with iva := u.iva, tlb := u.tlb, tmb := u.tmb, hlk := u.hlk } ∧ u.tmb.quality = s.tmb.quality ∧
        reading u = reading s) ∧
      let x := j.record r.time false u
      let values : PerPhase (Option Nat) := PerPhase.build (fun p => x.phases.bind (fun y =>
        (y.get p).map IntervalPhase.value))
      let posted := postNotice .ivc ([num i.startMark, timeText r.time] ++
        (([Phase.l1, .l2, .l3].filter (wired s.svc.active.wiring)).map (fun p => optText num (values.get p))) ++
        [x.marks.text, bitText x.valid, bitText x.member, optText num (offeredSequence s)]) (offer .ivl x.payload u)
      let handed := handItem (.int values x.valid x.member i.startMark) posted
      let h := { handed with iva := { u.iva with interval := none } }
      Queues s h .ivl x.payload s.svc.generation ∧
      h = { u with evs := h.evs, tlb := h.tlb, tmb := h.tmb, hlk := h.hlk, iva := { u.iva with interval := none } } ∧
      (s.hlk.settings.mask.ivc = true → s.hlk.transmitter ≠ .idle → u.hlk.notices.length < 16 →
        (⟨.ivc, [num i.startMark, timeText r.time] ++
          (([Phase.l1, .l2, .l3].filter (wired s.svc.active.wiring)).map (fun p => optText num (values.get p))) ++
          [x.marks.text, bitText x.valid, bitText x.member, optText num (offeredSequence s)]⟩ : Notice) ∈ h.hlk.notices) ∧
      let closed := advanceSurvey ⟨i.startMark, i.startMark + 600, r.time, x.valid, x.member, .endMark, i.startMark + 600, 0,
        some (i.startMark + 600)⟩ (applyStaged h)
      t = { closed with iva := { closed.iva with
        interval := t.iva.interval
        pendingStep := false
        resumed := false
        lastBoundaryTime := some r.time } }

/-- R73: the first boundary after a time step closes the interval with cause TIME_STEP and opens one marked TIME_STEP and
INCOMPLETE at the mark at or before its time; R75: after a warm resume past the end mark, with cause RESUME, one marked RESUMED
and INCOMPLETE. R62, R64, R65, R74, R102: the interval that closes carries these marks, its record is offered, IVC posted, its
item handed to the bank, and its closure, with the marks that were passed without an interval, taken by the settings unit and
then the survey. That its two window counts stay at 65,535 is the model's choice (log entry 22), and so is that IVC gives the
values of the wired phases without a count field (log entry 23). -/
def Obligations.StepAndResumeReopenTheInterval : Prop :=
  ∀ (s : State) (r : Report) (ind : Indications) (cycle : Option Cycle) (i : Interval), s.iva.interval = some i →
    let t := takeBoundary r ind cycle s
    let opened := r.time.seconds / 600 * 600
    let closes (cause : ClosureCause) : Prop :=
      let u := addCloses ind.closes (windowTakes r ind.anyOpen true
        (periodTakes (planBoundary s.iva i r.time.seconds) r cycle { s with iva := markBoundary s.iva }))
      ∃ (l : LatestWindow) (j : Interval), t.iva.latestWindow = some l ∧ l.endTime = r.time ∧ l.startMark = i.startMark ∧
        u.iva.interval = some j ∧ j.startMark = i.startMark ∧ j.windows = min 65535 (i.windows + 1) ∧
        j.flagged = min 65535 (i.flagged +
          if l.flags.event ∨ l.flags.synthetic ∨ l.flags.clipped ∨ l.flags.oscillator then 1 else 0) ∧
        j.closes = min 65535 (i.closes + ind.closes) ∧
        j.marks = ⟨i.marks.event || l.flags.event, i.marks.synthetic || l.flags.synthetic,
          i.marks.clipped || l.flags.clipped, i.marks.clock || l.flags.oscillator, true,
          i.marks.timeStep || s.iva.pendingStep, i.marks.resumed || s.iva.resumed⟩ ∧
        (∀ p, j.phases.get p = match l.values.get p with
          | some v => ⟨(i.phases.get p).squares + v * v, some (match (i.phases.get p).range with
            | some (low, high) => (min low v, max high v)
            | none => (v, v))⟩
          | none => i.phases.get p) ∧
        ((∀ d, s.iva.period = some d → (d.value s.svc.active.fn).valid = false) →
          j.frequencyCount = i.frequencyCount ∧ j.frequencySum = i.frequencySum ∧ j.frequencyRange = i.frequencyRange) ∧
        (∀ d f, s.iva.period = some d → (d.value s.svc.active.fn).valid = true → (d.value s.svc.active.fn).value = some f →
          j.frequencyCount = i.frequencyCount + 1 ∧ j.frequencySum = i.frequencySum + f ∧
          j.frequencyRange = some (match i.frequencyRange with
            | some (low, high) => (min low f, max high f)
            | none => (f, f))) ∧
        u = { s with iva := u.iva, tlb := u.tlb, tmb := u.tmb, hlk := u.hlk } ∧
        let x := j.record r.time false u
        let values : PerPhase (Option Nat) := PerPhase.build (fun p => x.phases.bind (fun y =>
          (y.get p).map IntervalPhase.value))
        let posted := postNotice .ivc ([num i.startMark, timeText r.time] ++
          (([Phase.l1, .l2, .l3].filter (wired s.svc.active.wiring)).map (fun p => optText num (values.get p))) ++
          [x.marks.text, bitText x.valid, bitText x.member, optText num (offeredSequence s)]) (offer .ivl x.payload u)
        let handed := handItem (.int values x.valid x.member i.startMark) posted
        let h := { handed with iva := { u.iva with interval := none } }
        x.valid = false ∧ Queues s h .ivl x.payload s.svc.generation ∧
        let skipped := if i.startMark + 600 < opened then (opened - i.startMark) / 600 - 1 else 0
        let closed := advanceSurvey ⟨i.startMark, i.startMark + 600, r.time, false, x.member, cause, i.startMark + 600, skipped,
          some opened⟩ (applyStaged h)
        t = { closed with iva := { closed.iva with
          interval := t.iva.interval
          pendingStep := false
          resumed := false
          lastBoundaryTime := some r.time } }
    t.iva.pendingStep = false ∧ t.iva.resumed = false ∧
    (s.iva.pendingStep = true → closes .timeStep ∧
      t.iva.interval = some (Interval.begin opened ⟨false, false, false, false, true, true, s.iva.resumed⟩)) ∧
    (s.iva.pendingStep = false → s.iva.resumed = true → i.startMark + 600 ≤ r.time.seconds → closes .resume ∧
      t.iva.interval = some (Interval.begin opened ⟨false, false, false, false, true, false, true⟩)) ∧
    (s.iva.pendingStep = false → s.iva.resumed = true → r.time.seconds < i.startMark + 600 →
      ∃ i', t.iva.interval = some i' ∧ i'.startMark = i.startMark ∧ i'.marks.resumed = true ∧ i'.marks.incomplete = true)

/-- R67: the frequency of a period is the nearest millihertz, half up, clamped to the range of FN; R68: an ended period is
valid only without any of the reasons. R66, R68, R69: a boundary, whatever it closes, joins the period in progress with its
marks and its cycle, or, at or after the end mark, at a step or at a resume past the interval's end, ends it first: it becomes
the latest frequency, enters the interval's accumulators when valid and is handed to the bank as a frequency item ahead of the
window's, and the next period begins at the 10-second mark of that boundary and takes it. R71: the first boundary opens an
INCOMPLETE interval. Every period that does not follow its predecessor has the reason "partial" (log entry 35), the first
interval is not marked TIME_STEP where a step is pending (log entry 14), and that the cycles of a period stay at 65,535 is the
model's choice (log entry 22). -/
def Obligations.FrequencyIsTheNearestMillihertzInRange : Prop :=
  (∀ (p : Period) (fn : NominalFrequency) (a b : Tick), 0 < p.cycles → p.ticks = some (a, b) → a ≠ b →
    ∃ f, 2 * f * tickSpan a b ≤ 2 * (p.cycles * 32768000) + tickSpan a b ∧
      2 * (p.cycles * 32768000) < 2 * f * tickSpan a b + tickSpan a b ∧
      (p.value fn).span = some (tickSpan a b) ∧
      (p.value fn).value = some (match fn with
        | .hz50 => max 42500 (min 57500 f)
        | .hz60 => max 51000 (min 69000 f)) ∧
      ((p.value fn).outOfRange = true ↔ (match fn with
        | .hz50 => f < 42500 ∨ 57500 < f
        | .hz60 => f < 51000 ∨ 69000 < f))) ∧
  (∀ (p : Period) (fn : NominalFrequency),
    let f := p.value fn
    f.startMark = p.startMark ∧ f.cycles = p.cycles ∧ f.reasons = p.reasons ∧
    f.span = p.ticks.map (fun x => tickSpan x.1 x.2) ∧ (p.cycles = 0 → f.value = none) ∧
    (f.valid = true ↔ p.cycles ≠ 0 ∧ p.ticks ≠ none ∧ p.reasons = ⟨false, false, false, false, false, false⟩)) ∧
  ∀ (s : State) (r : Report) (ind : Indications) (cycle : Option Cycle),
    let t := takeBoundary r ind cycle s
    let seconds := r.time.seconds
    let joined (p : Period) : Period := { p with
      cycles := match cycle with
        | some _ => min 65535 (p.cycles + 1)
        | none => p.cycles
      ticks := match cycle with
        | some c => some ((p.ticks.map Prod.fst).getD c.start, c.stop)
        | none => p.ticks
      reasons := { p.reasons with
        synthetic := p.reasons.synthetic || r.synthetic
        referenceChanged := p.reasons.referenceChanged || r.referenceChanged } }
    let past := s.iva.interval.any (fun i => i.startMark + 600 ≤ seconds)
    let broken := s.iva.interval.isNone || s.iva.pendingStep || s.iva.resumed
    let ends := s.iva.interval.isNone || s.iva.pendingStep || s.iva.resumed && past ||
      s.iva.period.all (fun p => p.startMark + 10 ≤ seconds)
    let ended := if ends then s.iva.period.map (fun p => p.value s.svc.active.fn) else none
    let item := match ended with
      | some f => handItem (.frq f.startMark f.value f.valid f.outOfRange) s
      | none => s
    let banked (v : Iva) : State := match v.window, v.latestWindow with
      | none, some w => handItem (.win w.values (w.flags.event || w.flags.synthetic || w.flags.clipped || w.flags.oscillator)
          w.startMark) item
      | _, _ => item
    (ends = false → t.iva.period = s.iva.period.map joined ∧ t.iva.latestFrequency = s.iva.latestFrequency) ∧
    (ends = true →
      t.iva.period = some (joined ⟨seconds / 10 * 10, 0, none, ⟨false, false, s.iva.pendingStep, s.iva.resumed, broken, false⟩⟩) ∧
      t.iva.latestFrequency = match ended with
        | some f => some f
        | none => s.iva.latestFrequency) ∧
    (s.iva.interval = none → t = { s with
        iva := t.iva, tlb := (banked t.iva).tlb, tmb := (banked t.iva).tmb, hlk := (banked t.iva).hlk } ∧
      ∃ j, t.iva.interval = some j ∧ j.startMark = seconds / 600 * 600 ∧ j.closes = min 65535 ind.closes ∧
        j.marks.incomplete = true ∧ j.marks.timeStep = false ∧ j.marks.resumed = false) ∧
    ∀ i, s.iva.interval = some i →
      let u := addCloses ind.closes (windowTakes r ind.anyOpen (s.iva.pendingStep || past)
        (periodTakes (planBoundary s.iva i seconds) r cycle { s with iva := markBoundary s.iva }))
      u = { s with iva := u.iva, tlb := (banked u.iva).tlb, tmb := (banked u.iva).tmb, hlk := (banked u.iva).hlk } ∧
      u.iva.period = t.iva.period ∧ u.iva.latestFrequency = t.iva.latestFrequency ∧
      (s.iva.pendingStep = false → past = false → t = { u with iva := { u.iva with
        pendingStep := false
        resumed := false
        lastBoundaryTime := some r.time } }) ∧
      ∃ j, u.iva.interval = some j ∧ j.startMark = i.startMark ∧
        ((∀ f, ended = some f → f.valid = false) → j.frequencyCount = i.frequencyCount ∧
          j.frequencySum = i.frequencySum ∧ j.frequencyRange = i.frequencyRange) ∧
        ∀ f v, ended = some f → f.valid = true → f.value = some v → j.frequencyCount = i.frequencyCount + 1 ∧
          j.frequencySum = i.frequencySum + v ∧ j.frequencyRange = some (match i.frequencyRange with
            | some (low, high) => (min low v, max high v)
            | none => (v, v))

/-- R62: an interval is INCOMPLETE for any one of the reasons, and valid only without a disqualifying mark and with a
time quality that is not UNSET. R61, R63, R64, R69: the rest of its record, with the values, the spread and the frequency
fields. -/
def Obligations.IntervalValidityFollowsTheMarks : Prop :=
  ∀ (i : Interval) (closeTime : Time) (halted : Bool) (s : State),
    let x := i.record closeTime halted s
    (x.marks.incomplete = true ↔
      i.windows < 2700 ∨ i.marks.incomplete = true ∨ i.marks.resumed = true ∨ i.marks.timeStep = true ∨ halted = true) ∧
    (x.valid = true ↔
      i.marks.event = false ∧ i.marks.synthetic = false ∧ i.marks.clipped = false ∧ i.marks.clock = false ∧
      x.marks.incomplete = false ∧ s.tmb.quality ≠ .unset) ∧
    x.startMark = i.startMark ∧ x.closeTime = closeTime ∧ x.wiring = s.svc.active.wiring ∧ x.windows = i.windows ∧
    x.flagged = i.flagged ∧ x.closes = i.closes ∧ x.frequencyCount = i.frequencyCount ∧
    x.marks = { i.marks with incomplete := x.marks.incomplete } ∧
    (x.member = true ↔ s.svc.survey.state = .running ∧ ∃ start stop, s.svc.survey.startMark = some start ∧
      s.svc.survey.endMark = some stop ∧ start ≤ i.startMark ∧ i.startMark < stop) ∧
    (i.windows = 0 → x.phases = none) ∧
    (i.windows ≠ 0 → ∃ values : PerPhase (Option IntervalPhase), x.phases = some values ∧
      (∀ p, if wired s.svc.active.wiring p then
          ∃ v, values.get p = some v ∧ v.value * v.value ≤ (i.phases.get p).squares / i.windows ∧
            (i.phases.get p).squares / i.windows < (v.value + 1) * (v.value + 1) ∧
            ∀ low high, (i.phases.get p).range = some (low, high) → v.low = low ∧ v.high = high
        else values.get p = none) ∧
      ∃ p q v w, values.get p = some v ∧ values.get q = some w ∧ x.spread = v.value - w.value ∧
        ∀ o u, values.get o = some u → w.value ≤ u.value ∧ u.value ≤ v.value) ∧
    (i.frequencyCount = 0 → x.frequency = none) ∧
    (∀ low high, i.frequencyCount ≠ 0 → i.frequencyRange = some (low, high) →
      x.frequency = some ⟨(i.frequencySum + i.frequencyCount / 2) / i.frequencyCount, low, high⟩)

/-- MVH (R19), MVW (R58) and MVF (R70): the latest report, window and frequency, or every field absent where there is none.
The model's choices in it: the number of absent fields, the groups of the wired phases without a count field, the names
POSITIVE_GOING and NEGATIVE_GOING of a direction, and seven indications for the reasons of MVF (log entry 23); that MVW lists
the phases the window holds values for, and that T is absent with the value where no cycle was placed (log entry 35). -/
def Obligations.MvhMvwAndMvfReportTheLatestValues : Prop :=
  (∀ (s : State) (fields : List Text), s.LinkFree → wellFormedFields fields = true →
     ∃ t, exec (.mvh fields) s = .next t ∧
       if fields ≠ [] then AnsweredOnly s t .mvh .syn []
       else match s.hcu.latest with
         | none => AnsweredOnly s t .mvh .ok (List.replicate (7 + (wiredPhases s.svc.active.wiring).length) [])
         | some r => AnsweredOnly s t .mvh .ok
             ([timeText r.time, num r.tick.toNat, optText Direction.text r.direction, bitText r.synthetic, bitText r.osc,
               bitText r.referenceChanged, phaseText r.reference]
               ++ ([r.values.l1, r.values.l2, r.values.l3].filterMap id).map (fun v =>
                 compound [num v.value, num ((v.value * s.svc.active.ud + 5000) / 10000), bitText v.clipped]))) ∧
  (∀ (s : State) (fields : List Text), s.LinkFree → wellFormedFields fields = true →
     ∃ t, exec (.mvw fields) s = .next t ∧
       if fields ≠ [] then AnsweredOnly s t .mvw .syn []
       else match s.iva.latestWindow with
         | none => AnsweredOnly s t .mvw .ok (List.replicate (9 + (wiredPhases s.svc.active.wiring).length) [])
         | some w => AnsweredOnly s t .mvw .ok
             ([timeText w.endTime, num w.count, bitText w.short, num w.startMark, num w.samples, bitText w.flags.event,
               bitText w.flags.synthetic, bitText w.flags.clipped, bitText w.flags.oscillator]
               ++ ([w.values.l1, w.values.l2, w.values.l3].filterMap id).map (fun v =>
                 compound [num v, num ((v * s.svc.active.ud + 5000) / 10000)]))) ∧
  (∀ (s : State) (fields : List Text), s.LinkFree → wellFormedFields fields = true →
     ∃ t, exec (.mvf fields) s = .next t ∧
       if fields ≠ [] then AnsweredOnly s t .mvf .syn []
       else match s.iva.latestFrequency with
         | none => AnsweredOnly s t .mvf .ok (List.replicate 13 [])
         | some f => AnsweredOnly s t .mvf .ok
             [num f.startMark, num f.cycles, optText num f.span, optText num f.value, bitText f.valid, bitText f.outOfRange,
               bitText (f.cycles == 0), bitText f.reasons.synthetic, bitText f.reasons.referenceChanged,
               bitText f.reasons.timeStep, bitText f.reasons.dormancy, bitText f.reasons.incompletePeriod,
               bitText f.reasons.halt])

/-! ## Tally bank and event matrices -/

/-- R78, R92, R139: every command and every step keep the sizes of the tables; R90: they keep S1 ≤ S0, S2 ≤ S1, S3 ≤ S1 and
S5 ≤ S4. -/
def Obligations.EveryCommandKeepsTheBankRegular : Prop :=
  (∀ (i : Instr) (s t : State), s.Sized → exec i s = .next t → t.Sized) ∧
  (∀ (i : Instr) (s t : State), s.tlb.survey.Ordered → exec i s = .next t → t.tlb.survey.Ordered) ∧
  (∀ s t : State, step s = .next t → (s.Sized → t.Sized) ∧ (s.tlb.survey.Ordered → t.tlb.survey.Ordered))

/-- R79 to R83: what an item handed to the bank leaves of each general cell, with its test and its exclusion spelled out by
the source of the item. R82: a count that becomes its mark posts a TKN notice, in the order of the cells, which is the model's
choice (log entry 34), as is the kind as an absent field for a source other than EVT (log entry 23). -/
def Obligations.GeneralCellTakesAnItem : Prop :=
  (∀ (s : State) (item : Item),
    Posts s (handItem item s) ((List.range 12).filterMap (fun n =>
      let g := cellAt s.tlb n
      let count := (cellAt (handItem item s).tlb n).count
      if count ≠ g.count ∧ g.config.mark ≠ 0 ∧ count = g.config.mark then
        some ⟨.tkn, [num n, num count, num g.config.mark, g.config.source.text, optText cellKindText g.config.kind,
          timeText (reading s)]⟩
      else none))) ∧
  ∀ (s : State) (item : Item) (n : Nat), s.Sized → n < 12 →
    let g := cellAt s.tlb n
    let h := cellAt (handItem item s).tlb n
    let passes (v : Nat) : Prop := match g.config.comparison with
      | .above => g.config.threshold < v
      | .below => v < g.config.threshold
    let selected (values : Phase → Option Nat) : Prop := match g.config.selector with
      | none => False
      | some (.one p) => ∃ v, values p = some v ∧ passes v
      | some .any => ∃ p v, values p = some v ∧ passes v
      | some .all => (∃ p v, values p = some v) ∧ ∀ p v, values p = some v → passes v
    let met : Prop := match item with
      | .half r => selected (fun p => (r.values.get p).map PhaseValue.value)
      | .win values _ _ => selected values.get
      | .int values _ _ _ => selected values.get
      | .frq _ value _ _ => ∃ v, value = some v ∧ passes v
      | .evt c => g.config.kind = some c.kind ∧ passes c.extreme.value
    let excluded : Prop := match item with
      | .half r => r.synthetic = true ∨ r.osc = true ∨ ∃ p v, r.values.get p = some v ∧ v.clipped = true
      | .win _ flagged _ => flagged = true
      | .int _ valid _ _ => valid = false
      | .frq _ _ valid _ => valid = false
      | .evt _ => False
    let counts := met ∧ (g.config.policy = .all ∨ ¬ excluded) ∧ (g.config.mode = .level ∨ g.predecessor = false)
    h.config = g.config ∧
    (¬ (g.config.enabled = true ∧ g.config.source = item.source) → h = g) ∧
    (g.config.enabled = true ∧ g.config.source = item.source →
      (h.predecessor = true ↔ met) ∧
      (¬ counts → h = { g with predecessor := h.predecessor }) ∧
      (counts → s.tlb.frozen = true → h = { g with gap := true, predecessor := h.predecessor }) ∧
      (counts → s.tlb.frozen = false → g.count < 16777215 → h.count = g.count + 1 ∧ h.saturated = g.saturated ∧
        h.gap = g.gap ∧ (h.markReached = true ↔ g.markReached = true ∨ g.config.mark ≠ 0 ∧ g.count + 1 = g.config.mark)) ∧
      (counts → s.tlb.frozen = false → 16777215 ≤ g.count → h.count = g.count ∧ h.saturated = true))

/-- R91, R92: where a chain classification is counted while the bank is COUNTING. R93: while it is FROZEN, the chain leaves the
gap mark of its matrix alone. -/
def Obligations.ChainIsSortedIntoItsCell : Prop :=
  (∀ (b : Tlb) (c : ChainClassification), b.frozen = false → b.dip.counts.length = 24 → b.swell.counts.length = 18 →
    b.pair.counts.length = 2 →
    ∃ col, col < 6 ∧ (col = 0 ↔ c.duration ≤ 200) ∧ (col = 1 ↔ 200 < c.duration ∧ c.duration ≤ 500) ∧
      (col = 2 ↔ 500 < c.duration ∧ c.duration ≤ 1000) ∧ (col = 3 ↔ 1000 < c.duration ∧ c.duration ≤ 5000) ∧
      (col = 4 ↔ 5000 < c.duration ∧ c.duration ≤ 60000) ∧ (col = 5 ↔ 60000 < c.duration) ∧
      match c.kind with
      | .dip =>
        if c.contained = 0 then
          ∃ row, row < 4 ∧ (row = 0 ↔ 8000 ≤ c.extreme.value) ∧
            (row = 1 ↔ 7000 ≤ c.extreme.value ∧ c.extreme.value < 8000) ∧
            (row = 2 ↔ 4000 ≤ c.extreme.value ∧ c.extreme.value < 7000) ∧ (row = 3 ↔ c.extreme.value < 4000) ∧
            ∃ n, b.dip.counts[6 * row + col]? = some n ∧
              b.takeChain c = { b with dip := if n < 65535 then { b.dip with counts := b.dip.counts.set (6 * row + col) (n + 1) }
                else { b.dip with saturated := true } }
        else b.takeChain c = b
      | .swell =>
        ∃ row, row < 3 ∧ (row = 0 ↔ c.extreme.value ≤ 12000) ∧
          (row = 1 ↔ 12000 < c.extreme.value ∧ c.extreme.value ≤ 14000) ∧ (row = 2 ↔ 14000 < c.extreme.value) ∧
          ∃ n, b.swell.counts[6 * row + col]? = some n ∧
            b.takeChain c = { b with swell := if n < 65535 then
                { b.swell with counts := b.swell.counts.set (6 * row + col) (n + 1) }
              else { b.swell with saturated := true } }
      | .interruption =>
        ∃ n, b.pair.counts[if c.duration ≤ 180000 then 0 else 1]? = some n ∧
          b.takeChain c = { b with pair := if n < 65535 then
              { b.pair with counts := b.pair.counts.set (if c.duration ≤ 180000 then 0 else 1) (n + 1) }
            else { b.pair with saturated := true } }) ∧
  (∀ (b : Tlb) (c : ChainClassification), b.frozen = true →
    b.takeChain c = match c.kind with
      | .dip => if c.contained = 0 then { b with dip := { b.dip with gap := true } } else b
      | .swell => { b with swell := { b.swell with gap := true } }
      | .interruption => { b with pair := { b.pair with gap := true } })

/-- TLF and TLU (R84), and TLM (R94) with its refusal. -/
def Obligations.TlfTluAndTlmServeTheBank : Prop :=
  (∀ (s : State) (fields : List Text), s.LinkFree → wellFormedFields fields = true →
     (∃ t, exec (.tlf fields) s = .next t ∧
       if fields ≠ [] then AnsweredOnly s t .tlf .syn []
       else Answered t .tlf .ok ["FROZEN".toList] ∧ LinkKept s t ∧
         t = { s with tlb := { s.tlb with frozen := true }, hlk := t.hlk }) ∧
     (∃ t, exec (.tlu fields) s = .next t ∧
       if fields ≠ [] then AnsweredOnly s t .tlu .syn []
       else Answered t .tlu .ok ["COUNTING".toList] ∧ LinkKept s t ∧
         t = { s with tlb := { s.tlb with frozen := false }, hlk := t.hlk })) ∧
  (∀ (s : State), s.LinkFree →
     (∃ t, exec (.tlm ["DIP".toList]) s = .next t ∧ AnsweredOnly s t .tlm .ok
       (bankText s.tlb.frozen :: num s.svc.active.tdip :: (s.tlb.dip.counts.map num
         ++ [bitText s.tlb.dip.gap, bitText s.tlb.dip.saturated]))) ∧
     (∃ t, exec (.tlm ["SWELL".toList]) s = .next t ∧ AnsweredOnly s t .tlm .ok
       (bankText s.tlb.frozen :: num s.svc.active.tswell :: (s.tlb.swell.counts.map num
         ++ [bitText s.tlb.swell.gap, bitText s.tlb.swell.saturated]))) ∧
     (∃ t, exec (.tlm ["INT".toList]) s = .next t ∧ AnsweredOnly s t .tlm .ok
       (bankText s.tlb.frozen :: (s.tlb.pair.counts.map num ++ [bitText s.tlb.pair.gap, bitText s.tlb.pair.saturated])))) ∧
  (∀ (s : State) (fields : List Text), s.LinkFree → wellFormedFields fields = true →
     fields ≠ ["DIP".toList] → fields ≠ ["SWELL".toList] → fields ≠ ["INT".toList] →
     ∃ t, exec (.tlm fields) s = .next t ∧ AnsweredOnly s t .tlm .syn [])

/-- TLC (R85) with a cell 0..11 and a configuration whose kind stands for EVT alone and whose selector names a wired phase:
the cell takes the configuration with its status clear, and no other cell changes. TLR (R86) and TLX (R87) on a general cell
0..11, TLR on a survey cell S0..S5, and TLX on ALL. Their refusals, SYN before RNG, with the fields that TLC reads spelled
out. By the model's choice the predecessor result is written 1 or 0 (log entry 23), and a number with a leading '-' is no
decimal number (log entry 40). -/
def Obligations.TlcTlrAndTlxServeTheCells : Prop :=
  (∀ (s : State) (n : Nat) (g : CellConfig), s.LinkFree → n ≤ 11 → g.inRange s.svc.active.wiring = true →
     (g.kind.isSome ↔ g.source = .evt) → (g.selector.isSome ↔ g.source ≠ .frq ∧ g.source ≠ .evt) →
     let fields := [num n, if g.enabled then "ON".toList else "OFF".toList, g.source.text, optText cellKindText g.kind,
       optText Selector.text g.selector, g.comparison.text, num g.threshold, g.mode.text, g.policy.text, num g.mark]
     wellFormedFields fields = true →
     ∃ t, exec (.tlc fields) s = .next t ∧ Answered t .tlc .ok [] ∧ LinkKept s t ∧
       t = { s with tlb := { s.tlb with cells := s.tlb.cells.set n ⟨g, 0, false, false, false, false⟩ }, hlk := t.hlk }) ∧
  (∀ (s : State), s.LinkFree →
     (∀ n, n ≤ 11 → ∃ t, exec (.tlr [num n]) s = .next t ∧
       let g := cellAt s.tlb n
       AnsweredOnly s t .tlr .ok [bankText s.tlb.frozen, if g.config.enabled then "ON".toList else "OFF".toList,
         g.config.source.text, optText cellKindText g.config.kind, optText Selector.text g.config.selector,
         g.config.comparison.text, num g.config.threshold, g.config.mode.text, g.config.policy.text, num g.config.mark,
         num g.count, bitText g.saturated, bitText g.gap, bitText g.markReached, bitText g.predecessor]) ∧
     (∀ n, n ≤ 5 → ∃ t, exec (.tlr ['S' :: num n]) s = .next t ∧
       AnsweredOnly s t .tlr .ok [s.svc.survey.state.text, num (([s.tlb.survey.s0, s.tlb.survey.s1, s.tlb.survey.s2,
         s.tlb.survey.s3, s.tlb.survey.s4, s.tlb.survey.s5][n]?).getD 0)]) ∧
     (∀ n, n ≤ 11 → ∃ t, exec (.tlx [num n]) s = .next t ∧ Answered t .tlx .ok [] ∧ LinkKept s t ∧
       t = { s with
         tlb := { s.tlb with cells := s.tlb.cells.set n { cellAt s.tlb n with
           count := 0, saturated := false, gap := false, markReached := false } }
         hlk := t.hlk }) ∧
     (∃ t, exec (.tlx ["ALL".toList]) s = .next t ∧ Answered t .tlx .ok [] ∧ LinkKept s t ∧
       t = { s with
         tlb := { s.tlb with cells := s.tlb.cells.map (fun g =>
           { g with count := 0, saturated := false, gap := false, markReached := false }) }
         hlk := t.hlk })) ∧
  (∀ (s : State) (fields : List Text), s.LinkFree → wellFormedFields fields = true →
     let answered (i : Instr) (c : Command) (status : Status) : Prop := ∃ t, exec i s = .next t ∧ AnsweredOnly s t c status []
     let decimal (f : Text) (n : Nat) : Prop := f ≠ [] ∧ (∀ c ∈ f, c ∈ "0123456789".toList) ∧
       f.foldl (fun v c => 10 * v + (c.toNat - 48)) 0 = n
     (readTlcFields fields = none → answered (.tlc fields) .tlc .syn) ∧
     (∀ n g, readTlcFields fields = some (n, g) ↔ ∃ cell threshold mark, decimal cell n ∧ decimal threshold g.threshold ∧
       decimal mark g.mark ∧ (g.kind.isSome ↔ g.source = .evt) ∧
       (g.selector.isSome ↔ g.source = .half ∨ g.source = .win ∨ g.source = .int) ∧
       fields = [cell, if g.enabled then "ON".toList else "OFF".toList,
         (match g.source with
           | .half => "HALF".toList
           | .win => "WIN".toList
           | .int => "INT".toList
           | .frq => "FRQ".toList
           | .evt => "EVT".toList),
         (match g.kind with
           | none => []
           | some .dip => "DIP".toList
           | some .swell => "SWELL".toList
           | some .interruption => "INT".toList),
         (match g.selector with
           | none => []
           | some (.one .l1) => ['1']
           | some (.one .l2) => ['2']
           | some (.one .l3) => ['3']
           | some .any => "ANY".toList
           | some .all => "ALL".toList),
         (match g.comparison with
           | .above => "ABOVE".toList
           | .below => "BELOW".toList),
         threshold,
         (match g.mode with
           | .level => "LEVEL".toList
           | .edge => "EDGE".toList),
         (match g.policy with
           | .all => "ALL".toList
           | .validOnly => "VALID_ONLY".toList),
         mark]) ∧
     (∀ n g, readTlcFields fields = some (n, g) →
       (11 < n ∨ (if g.source = .frq then 70000 else 20000) < g.threshold ∨ 16777215 < g.mark ∨
           (∃ p, g.selector = some (.one p) ∧ wired s.svc.active.wiring p = false) →
         answered (.tlc fields) .tlc .rng)) ∧
     ((∀ f, fields = [f] → readNat f = none ∧ ∀ digits, f = 'S' :: digits → readNat digits = none) →
       answered (.tlr fields) .tlr .syn ∧ (fields ≠ ["ALL".toList] → answered (.tlx fields) .tlx .syn)) ∧
     (∀ f n, fields = [f] → readNat f = some n → 11 < n →
       answered (.tlr fields) .tlr .rng ∧ answered (.tlx fields) .tlx .rng) ∧
     (∀ digits n, fields = ['S' :: digits] → readNat digits = some n →
       (5 < n → answered (.tlr fields) .tlr .rng) ∧ answered (.tlx fields) .tlx .rng))

/-! ## Settings, measurement control and surveys -/

/-- R98, R101, R201: a setting written as GET writes it is read by SET as the same name and value. -/
def Obligations.AssignmentReadsBack : Prop :=
  ∀ (n : Setting) (v : Int), n.inRange v = true → (0 ≤ v ∨ n = .o1 ∨ n = .o2 ∨ n = .o3) →
    readAssignment (n.assignment v) = some (n, v)

/-- SET (R98, R99, R100): refused with no change, applied at once while STOPPED, staged while MEASURING; and the fields it reads
(R97, R98), each a name, '=' and a value of its form, no name twice. That a decimal number may begin with zeros is the model's
choice (log entry 40). -/
def Obligations.SetIsCheckedAndThenAppliedOrStaged : Prop :=
  (∀ (fields : List Text) (values : List (Setting × Int)),
    let decimal (f : Text) (n : Nat) : Prop := f ≠ [] ∧ (∀ c ∈ f, c ∈ "0123456789".toList) ∧
      f.foldl (fun v c => 10 * v + (c.toNat - 48)) 0 = n
    let signed (f : Text) (v : Int) : Prop := (∃ n : Nat, decimal f n ∧ v = n) ∨
      ∃ (more : Text) (n : Nat), f = '-' :: more ∧ decimal more n ∧ v = -(n : Int)
    let form (n : Setting) (f : Text) (v : Int) : Prop := match n with
      | .wiring => v = if f = "W3".toList then 3 else if f = "W1".toList then 1 else 0
      | .o1 => signed f v
      | .o2 => signed f v
      | .o3 => signed f v
      | _ => ∃ k : Nat, decimal f k ∧ v = k
    allSettings.map Setting.text = ["UD".toList, "FN".toList, "WIRING".toList, "K1".toList, "K2".toList, "K3".toList,
      "O1".toList, "O2".toList, "O3".toList, "TDIP".toList, "TSWELL".toList, "TINT".toList, "HYST".toList, "LMAX".toList,
      "BANDLO".toList, "BANDHI".toList, "HARDLO".toList, "HARDHI".toList, "SHARE".toList, "HARDSHARE".toList,
      "FBAND".toList, "FSHARE".toList, "COVER".toList] ∧
    (readAssignments fields = some values ↔ fields ≠ [] ∧ (values.map Prod.fst).Nodup ∧
      List.Forall₂ (fun field nv => ∃ value, field = nv.1.text ++ '=' :: value ∧ form nv.1 value nv.2) fields values)) ∧
  ∀ (s : State) (fields : List Text), s.LinkFree → s.OneRequest → wellFormedFields fields = true →
    ∃ t, exec (.set fields) s = .next t ∧
      match readAssignments fields with
      | none => AnsweredOnly s t .set .syn []
      | some values =>
        let under := if s.svc.measuring then s.svc.active.write s.svc.staged else s.svc.active
        let set := under.write values
        if (s.svc.survey.state = .armed ∨ s.svc.survey.state = .running) ∧ ∃ nv ∈ values, nv.1.locked = true then
          AnsweredOnly s t .set .lck []
        else if ¬ ((∀ nv ∈ values, nv.1.inRange nv.2 = true) ∧ set.hardlo ≤ set.bandlo ∧ set.bandhi ≤ set.hardhi) then
          AnsweredOnly s t .set .rng []
        else if s.svc.measuring = true then
          Answered t .set .ok [num s.svc.generation.toNat, "STAGED".toList] ∧ LinkKept s t ∧
          t = { s with svc := { s.svc with staged := t.svc.staged }, hlk := t.hlk } ∧
          t.svc.staged = allSettings.filterMap (fun n =>
            ((valueGiven values n).or (valueGiven s.svc.staged n)).map (fun v => (n, v))) ∧
          ∀ n, valueGiven t.svc.staged n = (valueGiven values n).or (valueGiven s.svc.staged n)
        else
          Answered t .set .ok [num (s.svc.generation + 1).toNat, "APPLIED".toList] ∧ LinkKept s t ∧
          Queues s t .cfg (settingsPayload .appliedAtOnce set s.hlk.settings s.tmb.enabled s.tmb.polarity)
            (s.svc.generation + 1) ∧
          t = { s with
            svc := { s.svc with active := set, generation := s.svc.generation + 1 }
            cyt := { s.cyt with fnChanged := s.cyt.fnChanged || set.fn != s.svc.active.fn }
            tmb := t.tmb
            evs := t.evs
            hlk := t.hlk } ∧ t.tmb.seconds = s.tmb.seconds ∧ t.tmb.quality = s.tmb.quality

/-- GET (R101) in its three forms, the staged set as a counted list (R201) in the order of R97, and its refusal. That the
settings of a GET with names stand without a count field is the model's choice (log entry 23). -/
def Obligations.GetReportsTheSettings : Prop :=
  ∀ (s : State), s.LinkFree →
    (∃ t, exec (.get []) s = .next t ∧ AnsweredOnly s t .get .ok
      (num s.svc.generation.toNat :: bitText (s.svc.staged != []) ::
        allSettings.map (fun n => n.text ++ '=' :: n.valueText (s.svc.active.get n)))) ∧
    (∀ names : List Setting, names ≠ [] → names.Nodup → wellFormedFields (names.map Setting.text) = true →
      ∃ t, exec (.get (names.map Setting.text)) s = .next t ∧ AnsweredOnly s t .get .ok
        (num s.svc.generation.toNat :: bitText (s.svc.staged != []) ::
          names.map (fun n => n.text ++ '=' :: n.valueText (s.svc.active.get n)))) ∧
    (∃ t, exec (.get ["STAGED".toList]) s = .next t ∧ AnsweredOnly s t .get .ok
      (num s.svc.generation.toNat :: (if s.svc.staged = [] then ["NONE".toList]
        else num s.svc.staged.length :: s.svc.staged.map (fun nv => nv.1.text ++ '=' :: nv.1.valueText nv.2)))) ∧
    (s.svc.InRange → s.svc.staged.map (fun nv => nv.1.text ++ '=' :: nv.1.valueText nv.2) =
      allSettings.filterMap (fun n => (valueGiven s.svc.staged n).map (fun v => n.text ++ '=' :: n.valueText v))) ∧
    (∀ fields, wellFormedFields fields = true → fields ≠ ["STAGED".toList] →
      (∃ f ∈ fields, ∀ n : Setting, f ≠ n.text) ∨ ¬ fields.Nodup →
      ∃ t, exec (.get fields) s = .next t ∧ AnsweredOnly s t .get .syn [])

/-- R103: applying the staged set writes it over the active set, empties it, starts the next generation, counts it for a RUNNING
survey, queues one settings record and marks every open record SETTINGS_CHANGED (R44); an empty staged set changes nothing. An
FN other than the one active before is told to the tracker (R14). Nothing else changes. -/
def Obligations.StagedSettingsApplyAsOneGeneration : Prop :=
  ∀ (s : State), (s.svc.staged = [] → applyStaged s = s) ∧
    (s.svc.staged ≠ [] →
      let t := applyStaged s
      let set := s.svc.active.write s.svc.staged
      t = { s with
        cyt := { s.cyt with fnChanged := s.cyt.fnChanged || set.fn != s.svc.active.fn }
        evd := { s.evd with dip := t.evd.dip, swell := t.evd.swell, interruption := t.evd.interruption }
        svc := { s.svc with
          active := set
          staged := []
          generation := s.svc.generation + 1
          survey := if s.svc.survey.state = .running then { s.svc.survey with
              generationsApplied := s.svc.survey.generationsApplied.map (fun n => min 65535 (n + 1)) }
            else s.svc.survey }
        tmb := if recordTaken s then s.tmb.afterReading else s.tmb
        evs := t.evs
        hlk := t.hlk } ∧
      (s.evs.waitingRead = none → t.hlk = s.hlk) ∧
      Queues s t .cfg (settingsPayload .appliedAtClosure set s.hlk.settings s.tmb.enabled s.tmb.polarity)
        (s.svc.generation + 1) ∧
      ∀ kind, t.evd.context kind = (s.evd.context kind).map (fun c =>
        { c with marks := { c.marks with settingsChanged := true } }))

/-- MEA GO (R28, R104): MEASURING, one measurement record, and every wired phase NORMAL with its flag clear; STT while
MEASURING. MEA HALT (R40, R68, R69, R72, R105): LCK under an ARMED or RUNNING survey, STT while STOPPED; else every open record,
window, interval and period is ended, the period invalid and the window as it stands handed on with the interval closed by HALT,
its record queued, a staged set applied, the state STOPPED, and one measurement record queued last. With no interval in progress
one is opened at the reading, also after a cold start, and a halt before the first boundary after a resume does not mark the
interval RESUMED (log entry 41). That the two window counts of the interval stay at 65,535 is the model's choice (log entry
22). -/
def Obligations.MeaStartsAndHaltsMeasurement : Prop :=
  (∀ (s : State), s.LinkFree → s.OneRequest →
     ∃ t, exec .meaGo s = .next t ∧
       if s.svc.measuring = true then AnsweredOnly s t .mea .stt []
       else
         Answered t .mea .ok [] ∧ LinkKept s t ∧ Queues s t .mea (measurementPayload true) s.svc.generation ∧
         t = { s with
           svc := { s.svc with measuring := true }
           evd := t.evd
           iva := { s.iva with pendingStep := false, resumed := false }
           tmb := t.tmb
           evs := t.evs
           hlk := t.hlk } ∧
         t.evd.counter = s.evd.counter ∧ t.evd.dip = s.evd.dip ∧ t.evd.swell = s.evd.swell ∧
         t.evd.interruption = s.evd.interruption ∧
         ∀ p, t.evd.phases.get p = if wired s.svc.active.wiring p then some ⟨.normal, false⟩ else none) ∧
  (∀ (s : State), s.LinkFree → s.OneRequest → s.evd.Regular →
     ∃ t, exec .meaHalt s = .next t ∧
       if s.svc.survey.state = .armed ∨ s.svc.survey.state = .running then AnsweredOnly s t .mea .lck []
       else if s.svc.measuring = false then AnsweredOnly s t .mea .stt []
       else
         Answered t .mea .ok [] ∧ t.svc.measuring = false ∧ t.evd.dip = none ∧ t.evd.swell = none ∧
         t.evd.interruption = none ∧ t.iva.window = none ∧ t.iva.interval = none ∧ t.iva.period = none ∧
         t.iva.pendingStep = false ∧ t.svc.staged = [] ∧ t.svc.active = s.svc.active.write s.svc.staged ∧
         t.svc.generation = (if s.svc.staged = [] then s.svc.generation else s.svc.generation + 1) ∧
         t.svc.survey = s.svc.survey ∧ t.svc.verdict = s.svc.verdict ∧ t.evd.counter = s.evd.counter ∧
         t.evd.phases = s.evd.phases ∧ t.ich = s.ich ∧ t.hcu = s.hcu ∧ t.spm = s.spm ∧ t.pins = s.pins ∧
         t.cyt = { s.cyt with
           fnChanged := s.cyt.fnChanged || (s.svc.active.write s.svc.staged).fn != s.svc.active.fn } ∧
         t.pending = s.pending ∧ t.evs.medium = s.evs.medium ∧ t.hlk.settings = s.hlk.settings ∧
         ∃ (c b : State) (j : Interval),
           let f := s.iva.period.map (fun d => Period.value { d with reasons := { d.reasons with halt := true } } s.svc.active.fn)
           let mark := match s.iva.interval with
             | some i => i.startMark
             | none => (reading s).seconds / 600 * 600
           let l := s.iva.window.map (fun w => w.finish s.svc.active (match s.iva.interval with
             | some _ => s.iva.lastBoundaryTime.getD (reading s)
             | none => reading s) mark)
           (t.iva.latestFrequency = f.or s.iva.latestFrequency ∧ t.iva.latestWindow = l.or s.iva.latestWindow ∧
             ∀ y, f = some y → y.valid = false ∧ y.reasons.halt = true) ∧
           -- the state after the STOP closes: their records are queued, the rest of the store but the medium's choice is kept
           (c.evs.medium = s.evs.medium ∧ c.svc = s.svc ∧ c.iva = s.iva ∧ c.tmb.quality = s.tmb.quality ∧
             c = stopRecords { s with hlk := { s.hlk with reception := none, inProgress := some .mea } }) ∧
           (let held := s.iva.interval.getD (Interval.begin mark ⟨false, false, false, false, true, false, false⟩)
            j.startMark = mark ∧ j.closes = min 65535 (held.closes +
               ([s.evd.dip, s.evd.swell, s.evd.interruption].filterMap id).length) ∧
             j.frequencyCount = held.frequencyCount ∧ j.frequencySum = held.frequencySum ∧
             j.frequencyRange = held.frequencyRange ∧
             (l = none → j.windows = held.windows ∧ j.flagged = held.flagged ∧ j.phases = held.phases ∧
               j.marks = { held.marks with timeStep := held.marks.timeStep || s.iva.pendingStep }) ∧
             ∀ y, l = some y → j.windows = min 65535 (held.windows + 1) ∧
               j.flagged = min 65535 (held.flagged +
                 if y.flags.event ∨ y.flags.synthetic ∨ y.flags.clipped ∨ y.flags.oscillator then 1 else 0) ∧
               j.marks = ⟨held.marks.event || y.flags.event, held.marks.synthetic || y.flags.synthetic,
                 held.marks.clipped || y.flags.clipped, held.marks.clock || y.flags.oscillator, held.marks.incomplete,
                 held.marks.timeStep || s.iva.pendingStep, held.marks.resumed⟩ ∧
               ∀ p, j.phases.get p = match y.values.get p with
                 | some v => ⟨(held.phases.get p).squares + v * v, some (match (held.phases.get p).range with
                   | some (low, high) => (min low v, max high v)
                   | none => (v, v))⟩
                 | none => held.phases.get p) ∧
           let x := j.record (match s.iva.interval with
             | some _ => s.iva.lastBoundaryTime.getD (reading s)
             | none => reading s) true c
           let values : PerPhase (Option Nat) := PerPhase.build (fun p => x.phases.bind (fun y =>
             (y.get p).map IntervalPhase.value))
           let periodItem := match f with
             | some y => handItem (.frq y.startMark y.value false y.outOfRange) c
             | none => c
           let windowItem := match l with
             | some y => handItem (.win y.values (y.flags.event || y.flags.synthetic || y.flags.clipped || y.flags.oscillator)
               mark) periodItem
             | none => periodItem
           t.tlb = (handItem (.int values x.valid x.member mark) windowItem).tlb ∧
           (recordTaken c = true → ∃ y, y ∈ b.evs.pwq ∧ y.kind = .ivl ∧ y.sequence = nextSequence c.evs ∧
             y.payload = x.payload ∧ y.generation = s.svc.generation) ∧
           (c.evs.pwq.length ≤ 29 → s.evs.state ≠ .scanning → ∃ y, b.evs.pwq = c.evs.pwq ++ y ::
             (b.evs.pwq.drop (c.evs.pwq.length + 1)) ∧ y.kind = .ivl ∧
             (b.evs.pwq.drop (c.evs.pwq.length + 1)).map Record.kind = if s.svc.staged = [] then [] else [.cfg]) ∧
           Queues b t .mea (measurementPayload false) t.svc.generation ∧ b.svc = t.svc ∧ b.evd = t.evd ∧ b.iva = t.iva ∧
           b.tlb = t.tlb)

/-- SVS (R107) with a second or NOW and a number of days, in the order of its checks, and with fields of another form. A NOW
that is refused takes no reading, by the model's reading of the rule (log entry 31), and a number with a leading '-' is no
decimal number, so SYN (log entry 40). -/
def Obligations.SvsArmsTheSurvey : Prop :=
  (∀ (s : State) (start days : Nat), s.LinkFree → wellFormedFields [num start, num days] = true →
    ∃ t, exec (.svs [num start, num days]) s = .next t ∧
      let armed := (start + 599) / 600 * 600
      if 4294967295 < start ∨ days < 1 ∨ 35 < days ∨ 4294966800 < armed + days * 86400 then AnsweredOnly s t .svs .rng []
      else if s.svc.survey.state ≠ .idle ∨ s.svc.measuring = false ∨ s.tmb.quality = .unset ∨
          ∃ nv ∈ s.svc.staged, nv.1.locked = true then AnsweredOnly s t .svs .stt []
      else
        Answered t .svs .ok [num start, num armed, num days] ∧ LinkKept s t ∧
        t = { s with
          svc := { s.svc with survey := { s.svc.survey with
            state := .armed, requestedStart := some start, armedMark := some armed, days := some days } }
          hlk := t.hlk }) ∧
  (∀ (s : State) (days : Nat), s.LinkFree → wellFormedFields ["NOW".toList, num days] = true →
    ∃ t, exec (.svs ["NOW".toList, num days]) s = .next t ∧
      let start := (reading s).seconds
      let armed := (start + 599) / 600 * 600
      if 4294967295 < start ∨ days < 1 ∨ 35 < days ∨ 4294966800 < armed + days * 86400 then AnsweredOnly s t .svs .rng []
      else if s.svc.survey.state ≠ .idle ∨ s.svc.measuring = false ∨ s.tmb.quality = .unset ∨
          ∃ nv ∈ s.svc.staged, nv.1.locked = true then AnsweredOnly s t .svs .stt []
      else
        Answered t .svs .ok [num start, num armed, num days] ∧ LinkKept s t ∧
        t = { s with
          svc := { s.svc with survey := { s.svc.survey with
            state := .armed, requestedStart := some start, armedMark := some armed, days := some days } }
          tmb := { s.tmb with lastReading := some (reading s), held := s.tmb.held && s.tmb.formed.lt (reading s) }
          hlk := t.hlk }) ∧
  (∀ (s : State) (fields : List Text), s.LinkFree → wellFormedFields fields = true →
    (∀ start days, fields = [start, days] → readNat days = none ∨ start ≠ "NOW".toList ∧ readNat start = none) →
    ∃ t, exec (.svs fields) s = .next t ∧ AnsweredOnly s t .svs .syn [])

/-- R102, R108: the closure that opens an interval at or after the armed mark starts the survey; an earlier one, or one whose
survey would pass the last mark of the RTC, leaves it ARMED. R109, R110: a closure of a RUNNING survey adds its skipped marks
inside the survey to S0, and the one at or after the survey end forms the verdict, with cause COMPLETE, of the cells with
them, the active settings, the days, the records dropped and the generations applied, queues it and posts SVN. R88 to R90:
what an item adds to the survey cells. -/
def Obligations.ClosuresAdvanceTheSurvey : Prop :=
  (∀ (s : State) (k : Closure) (mark armed days : Nat), s.svc.survey.state = .armed → k.opened = some mark →
     s.svc.survey.armedMark = some armed → s.svc.survey.days = some days →
     let t := advanceSurvey k s
     if armed ≤ mark ∧ mark + days * 86400 ≤ 4294966800 then
       t.svc.survey.state = .running ∧ t.svc.survey.startMark = some mark ∧
       t.svc.survey.endMark = some (mark + days * 86400) ∧ t.svc.survey.generationsApplied = some 0 ∧
       t.svc.survey.id = some (nextSequence s.evs) ∧ t.svc.survey.protectionStart = some (nextSequence s.evs) ∧
       t.evs.protectionStart = some (nextSequence s.evs) ∧ t.svc.survey.startDropped = some (!recordTaken s) ∧
       t.evs.surveyDrops = (if recordTaken s then 0 else 1) ∧ t.tlb.survey = SurveyCells.zero ∧
       t.tlb.dip = Sys2Proof.Machine.Matrix.zero 24 ∧ t.tlb.swell = Sys2Proof.Machine.Matrix.zero 18 ∧
         t.tlb.pair = Sys2Proof.Machine.Matrix.zero 2 ∧ t.tlb.frozen = false ∧
       t.tlb.cells = s.tlb.cells ∧
       Queues s t .svy (surveyStartPayload (s.svc.survey.requestedStart.getD 0) armed days mark (mark + days * 86400))
         s.svc.generation
     else t = s) ∧
  (∀ (s : State) (k : Closure) (stop : Nat), s.svc.survey.state = .running → s.svc.survey.endMark = some stop →
     let t := advanceSurvey k s
     t.tlb.survey.s0 = min 16777215 (s.tlb.survey.s0 +
       ((List.range k.skipped).filter (fun i => s.svc.survey.contains (k.firstSkipped + 600 * i))).length) ∧
     t.tlb = { s.tlb with survey := { s.tlb.survey with s0 := t.tlb.survey.s0 } } ∧
     (k.time.seconds < stop → t = { s with tlb := t.tlb }) ∧
     (stop ≤ k.time.seconds → t.svc.survey = { s.svc.survey with state := .complete } ∧
       let set := s.svc.active
       let days := s.svc.survey.days.getD 0
       let b := verdictBody t.tlb.survey set days s.evs.surveyDrops (s.svc.survey.generationsApplied.getD 0)
       ∃ v, t.svc.verdict = some v ∧ v = ⟨s.svc.survey.id.getD 0, .complete, b.overall, s.svc.survey.startMark.getD 0, stop,
           days, days * 144, days * 8640, some b, set.share, set.hardshare, set.fshare, set.cover,
           s.svc.survey.startDropped.getD false, offeredSequence s⟩ ∧
         Queues s t .vdt v.payload s.svc.generation ∧
         t = { s with svc := { s.svc with survey := t.svc.survey, verdict := some v }
                      tlb := t.tlb, tmb := t.tmb, evs := t.evs, hlk := t.hlk } ∧
         Posts s t [⟨.svn, [num v.surveyId, "COMPLETE".toList, b.overall.text, optText num v.sequence]⟩])) ∧
  (∀ (s : State) (item : Item),
     let c := s.tlb.survey
     let d := (handItem item s).tlb.survey
     let set := s.svc.active
     (s.svc.survey.state ≠ .running → d = c) ∧
     (s.svc.survey.state = .running →
       match item with
       | .int values valid member _ =>
         let within (low high : Nat) : Prop := ∀ p v, values.get p = some v → low ≤ v ∧ v ≤ high
         let counted := member = true ∧ valid = true
         d.s0 = min 16777215 (c.s0 + if member then 1 else 0) ∧
         (counted → d.s1 = min 16777215 (c.s1 + 1)) ∧ (¬ counted → d.s1 = min 16777215 c.s1) ∧
         (counted ∧ within set.bandlo set.bandhi → d.s2 = min 16777215 (c.s2 + 1)) ∧
         (¬ (counted ∧ within set.bandlo set.bandhi) → d.s2 = min 16777215 c.s2) ∧
         (counted ∧ within set.hardlo set.hardhi → d.s3 = min 16777215 (c.s3 + 1)) ∧
         (¬ (counted ∧ within set.hardlo set.hardhi) → d.s3 = min 16777215 c.s3) ∧ d.s4 = c.s4 ∧ d.s5 = c.s5
       | .frq mark value valid _ =>
         let counted : Prop := valid = true ∧ ∃ start stop, s.svc.survey.startMark = some start ∧
           s.svc.survey.endMark = some stop ∧ start ≤ mark ∧ mark < stop
         let inBand : Prop := ∃ f, value = some f ∧ (match set.fn with
           | .hz50 => 50000 - 5 * set.fband ≤ f ∧ f ≤ 50000 + 5 * set.fband
           | .hz60 => 60000 - 6 * set.fband ≤ f ∧ f ≤ 60000 + 6 * set.fband)
         d.s0 = c.s0 ∧ d.s1 = c.s1 ∧ d.s2 = c.s2 ∧ d.s3 = c.s3 ∧
         (counted → d.s4 = min 16777215 (c.s4 + 1)) ∧ (¬ counted → d.s4 = min 16777215 c.s4) ∧
         (counted ∧ inBand → d.s5 = min 16777215 (c.s5 + 1)) ∧ (¬ (counted ∧ inBand) → d.s5 = min 16777215 c.s5)
       | _ => d = c))

/-- R111 and R112: the outcome and the share of each of the four tests, and the overall outcome. -/
def Obligations.VerdictCombinesTheFourTests : Prop :=
  ∀ (c : SurveyCells) (set : Settings) (days dropped generations : Nat),
    let b := verdictBody c set days dropped generations
    let judged (r : TestResult) (part count required : Nat) : Prop :=
      (r.outcome = .pass ↔ 1 ≤ count ∧ required * count ≤ part * 10000) ∧
      (r.outcome = .fail ↔ 1 ≤ count ∧ part * 10000 < required * count) ∧ (r.outcome = .inconclusive ↔ count = 0)
    (b.coverage.outcome = .pass ↔ set.cover * (days * 144) ≤ c.s1 * 10000) ∧
    (b.coverage.outcome = .fail ↔ c.s1 * 10000 < set.cover * (days * 144)) ∧ b.coverage.outcome ≠ .inconclusive ∧
    judged b.magnitude c.s2 c.s1 set.share ∧ judged b.hardBand c.s3 c.s1 set.hardshare ∧
    judged b.frequency c.s5 c.s4 set.fshare ∧ b.counts = c ∧ b.dropped = dropped ∧ b.generationsApplied = generations ∧
    b.coverage.share = some (c.s1 * 10000 / (days * 144)) ∧
    b.magnitude.share = (if c.s1 = 0 then none else some (c.s2 * 10000 / c.s1)) ∧
    b.hardBand.share = (if c.s1 = 0 then none else some (c.s3 * 10000 / c.s1)) ∧
    b.frequency.share = (if c.s4 = 0 then none else some (c.s5 * 10000 / c.s4)) ∧
    (b.overall = .inconclusive ↔ c.s1 * 10000 < set.cover * (days * 144) ∨ c.s1 = 0 ∨ c.s4 = 0 ∨ dropped ≠ 0) ∧
    (b.overall = .fail ↔ ¬ (c.s1 * 10000 < set.cover * (days * 144) ∨ c.s1 = 0 ∨ c.s4 = 0 ∨ dropped ≠ 0) ∧
      (c.s2 * 10000 < set.share * c.s1 ∨ c.s3 * 10000 < set.hardshare * c.s1 ∨ c.s5 * 10000 < set.fshare * c.s4))

/-- SVA (R114) by the survey state, its verdict formed of the cells as they stand, with its SVN (R110), and SVR (R115, R153,
R164): the RELEASE record, the protection cleared, a FULL store READY again with its STN, and the context IDLE. Either one with
fields is answered SYN. -/
def Obligations.SvaAndSvrEndTheSurvey : Prop :=
  (∀ (s : State), s.LinkFree → s.OneRequest →
     ∃ t, exec (.sva []) s = .next t ∧
       match s.svc.survey.state with
       | .armed => Answered t .sva .ok [] ∧ LinkKept s t ∧
           t = { s with svc := { s.svc with survey := SurveyContext.idle }, hlk := t.hlk }
       | .running => Answered t .sva .ok [] ∧ t.svc.survey = { s.svc.survey with state := .aborted } ∧
           (let set := s.svc.active
            let days := s.svc.survey.days.getD 0
            let b := verdictBody s.tlb.survey set days s.evs.surveyDrops (s.svc.survey.generationsApplied.getD 0)
            ∃ v, t.svc.verdict = some v ∧ v = ⟨s.svc.survey.id.getD 0, .host, .inconclusive, s.svc.survey.startMark.getD 0,
                s.svc.survey.endMark.getD 0, days, days * 144, days * 8640, some b, set.share, set.hardshare, set.fshare,
                set.cover, s.svc.survey.startDropped.getD false, offeredSequence s⟩ ∧
              Queues s t .vdt v.payload s.svc.generation ∧
              Posts s t [⟨.svn, [num v.surveyId, "HOST".toList, "INCONCLUSIVE".toList, optText num v.sequence]⟩]) ∧
           t = { s with
             svc := { s.svc with survey := t.svc.survey, verdict := t.svc.verdict }
             tmb := t.tmb
             evs := t.evs
             hlk := t.hlk } ∧
           t.evs.protectionStart = s.evs.protectionStart
       | .idle => AnsweredOnly s t .sva .stt []
       | .complete => AnsweredOnly s t .sva .stt []
       | .aborted => AnsweredOnly s t .sva .stt []) ∧
  (∀ (s : State), s.LinkFree → s.OneRequest →
     ∃ t, exec (.svr []) s = .next t ∧
       if s.svc.survey.state = .complete ∨ s.svc.survey.state = .aborted then
         Answered t .svr .ok [] ∧ Queues s t .svy (surveyReleasePayload (s.svc.survey.id.getD 0)) s.svc.generation ∧
         t.evs.protectionStart = none ∧ t.evs.state = (if s.evs.state = .full then .ready else s.evs.state) ∧
         Posts s t (if s.evs.state = .full then [⟨.stn, ["EXIT".toList, "FULL".toList, "RELEASE".toList,
           num t.evs.pwq.length, num t.evs.coldDrops, timeText (reading s)]⟩] else []) ∧
         t = { s with svc := { s.svc with survey := SurveyContext.idle }, tmb := t.tmb, evs := t.evs, hlk := t.hlk }
       else AnsweredOnly s t .svr .stt []) ∧
  (∀ (s : State) (fields : List Text), s.LinkFree → wellFormedFields fields = true → fields ≠ [] →
     (∃ t, exec (.sva fields) s = .next t ∧ AnsweredOnly s t .sva .syn []) ∧
     (∃ t, exec (.svr fields) s = .next t ∧ AnsweredOnly s t .svr .syn []))

/-- SVQ (R116) and SVV (R113, R117): the survey, and every field of the last verdict. The count of SVV's fields with no verdict
is the model's (log entry 23), and so is the clear start-record-dropped mark of a COLD verdict (log entry 36). A command with
fields is answered SYN. -/
def Obligations.SvqAndSvvReportTheSurvey : Prop :=
  ∀ (s : State) (fields : List Text), s.LinkFree → wellFormedFields fields = true →
    (∃ t, exec (.svq fields) s = .next t ∧
      if fields ≠ [] then AnsweredOnly s t .svq .syn []
      else AnsweredOnly s t .svq .ok [s.svc.survey.state.text, optText num s.svc.survey.requestedStart,
        optText num s.svc.survey.armedMark, optText num s.svc.survey.days, optText num s.svc.survey.startMark,
        optText num s.svc.survey.endMark, optText num s.svc.survey.id, optText num s.svc.survey.protectionStart,
        optText bitText s.svc.survey.startDropped, optText num s.svc.survey.generationsApplied, num s.evs.surveyDrops,
        num s.tlb.survey.s0, num s.tlb.survey.s1, num s.tlb.survey.s2, num s.tlb.survey.s3, num s.tlb.survey.s4,
        num s.tlb.survey.s5, optText (fun d => num (d * 144)) s.svc.survey.days,
        optText (fun d => num (d * 8640)) s.svc.survey.days]) ∧
    (∃ t, exec (.svv fields) s = .next t ∧
      if fields ≠ [] then AnsweredOnly s t .svv .syn []
      else match s.svc.verdict with
        | none => AnsweredOnly s t .svv .ok (List.replicate 30 [])
        | some v =>
          let part (f : VerdictBody → Text) : Text := optText f v.body
          AnsweredOnly s t .svv .ok
            [num v.surveyId, v.cause.text, v.overall.text, num v.startMark, num v.endMark, num v.days,
              part (fun b => num b.counts.s0), part (fun b => num b.counts.s1), part (fun b => num b.counts.s2),
              part (fun b => num b.counts.s3), part (fun b => num b.counts.s4), part (fun b => num b.counts.s5),
              num v.expectedIntervals, num v.expectedFrequencies,
              part (fun b => b.coverage.outcome.text), part (fun b => optText num b.coverage.share),
              part (fun b => b.magnitude.outcome.text), part (fun b => optText num b.magnitude.share),
              part (fun b => b.hardBand.outcome.text), part (fun b => optText num b.hardBand.share),
              part (fun b => b.frequency.outcome.text), part (fun b => optText num b.frequency.share),
              num v.share, num v.hardshare, num v.fshare, num v.cover,
              part (fun b => num b.dropped), part (fun b => num b.generationsApplied), bitText v.startDropped,
              optText num v.sequence])

/-! ## Timebase and reference discipline -/

/-- TIS (R133), addressed and broadcast: its refusals change nothing, and an accepted one is a time step with its cause, whose
record carries the new time and the quality after it, with a TQN notice where that is another (R136). That the new time is the
last reading given is DEDUCED (log entry 33), and that a number with a leading '-' is no decimal number is the model's choice
(log entry 40). -/
def Obligations.TisStepsTheClock : Prop :=
  ∀ (s : State) (broadcast : Bool) (fields : List Text), s.LinkFree → s.OneRequest → wellFormedFields fields = true →
    ∃ t, exec (.tis broadcast fields) s = .next t ∧
      let refused (status : Status) :=
        if broadcast = true then t = { s with hlk := { s.hlk with reception := none } } else AnsweredOnly s t .tis status []
      let seconds := (fields[0]?.bind readNat).getD 0
      let ms := (fields[1]?.bind readNat).getD 0
      let after := if s.tmb.quality = .unset then .free else s.tmb.quality
      if fields = [] ∨ 2 < fields.length ∨ ∃ f ∈ fields, readNat f = none then refused .syn
      else if 4294967295 < seconds ∨ 999 < ms then refused .rng
      else
        (if broadcast = true then t.hlk.reply = none ∧ t.hlk.inProgress = none
          else Answered t .tis .ok [timeText ⟨seconds, ms⟩, after.text]) ∧
        t.hlk.settings = s.hlk.settings ∧ t.hlk.buffer = [] ∧ t.hlk.reception = none ∧
        t.tmb = { s.tmb with
          seconds := seconds
          sub := (ms * 32768 + 999) / 1000
          held := false
          run := []
          quality := after
          lastReading := some ⟨seconds, ms⟩ } ∧
        t = { s with tmb := t.tmb, evs := t.evs, evd := t.evd, iva := t.iva, hlk := t.hlk } ∧
        Posts s t (if after = s.tmb.quality then []
          else [⟨.tqn, [s.tmb.quality.text, after.text, "TIS".toList, timeText ⟨seconds, ms⟩]⟩]) ∧
        t.evs.medium = s.evs.medium ∧
        (recordTaken s = true → ∃ x, t.evs.pwq = s.evs.pwq ++ [x] ∧ x.kind = .tim ∧ x.sequence = nextSequence s.evs ∧
          x.time = ⟨seconds, ms⟩ ∧ x.quality = after ∧
          x.payload = timePayload (if broadcast = true then .broadcast else .host) s.tmb.formed ⟨seconds, ms⟩ s.tmb.quality
            after s.tmb.tick []) ∧
        (recordTaken s = false → t.evs.pwq = s.evs.pwq ∧ t.evs.gapCount = min 65535 (s.evs.gapCount + 1)) ∧
        (s.svc.measuring = false → t.evd = s.evd ∧ t.iva = s.iva) ∧
        (s.svc.measuring = true → t.evd.counter = s.evd.counter ∧
          t.iva = { s.iva with
            interval := s.iva.interval.map (fun j => { j with marks := { j.marks with timeStep := true } })
            period := s.iva.period.map (fun d => { d with reasons := { d.reasons with timeStep := true } })
            pendingStep := true } ∧
          ∀ kind,
            t.evd.context kind = (s.evd.context kind).map (fun c => { c with marks := { c.marks with timeStep := true } }))

/-- TRF (R134), with the TQN notice of a LOCKED clock that it turns to HOLDOVER (R136), and TIM (R135); that TIM gives the
held indication as its own reading leaves it is the model's choice (log entry 23). -/
def Obligations.TrfAndTimServeTheTimebase : Prop :=
  (∀ (s : State) (enabled : Bool) (polarity : Polarity), s.LinkFree → s.OneRequest →
    let words := [if enabled then "ON".toList else "OFF".toList, polarityText polarity]
    ∃ t, exec (.trf words) s = .next t ∧ Answered t .trf .ok words ∧
      let after := if enabled = false ∧ s.tmb.quality = .locked then .holdover else s.tmb.quality
      t.tmb = { s.tmb with
        enabled := enabled
        polarity := polarity
        anchor := none
        anchorExpired := false
        run := []
        lastError := none
        rejected := 0
        watchFrom := some s.tmb.tick
        quality := after
        lastReading := t.tmb.lastReading
        held := t.tmb.held } ∧
      t = { s with tmb := t.tmb, evs := t.evs, hlk := t.hlk } ∧ t.hlk.settings = s.hlk.settings ∧ t.hlk.reception = none ∧
      Posts s t (if after = s.tmb.quality then []
        else [⟨.tqn, ["LOCKED".toList, "HOLDOVER".toList, "TRF".toList, timeText (reading s)]⟩]) ∧
      Queues { s with tmb := { s.tmb with quality := after } } t .cfg
        (settingsPayload .reference s.svc.active s.hlk.settings enabled polarity) s.svc.generation) ∧
  (∀ (s : State) (fields : List Text), s.LinkFree → wellFormedFields fields = true →
    (∀ (state : Bool) (polarity : Polarity), fields ≠ [if state then "ON".toList else "OFF".toList, polarityText polarity]) →
    ∃ t, exec (.trf fields) s = .next t ∧ AnsweredOnly s t .trf .syn []) ∧
  (∀ (s : State) (fields : List Text), s.LinkFree → wellFormedFields fields = true →
    ∃ t, exec (.tim fields) s = .next t ∧
      if fields ≠ [] then AnsweredOnly s t .tim .syn []
      else
        let held := s.tmb.held && s.tmb.formed.lt (reading s)
        Answered t .tim .ok ([timeText (reading s), bitText held, num s.tmb.seconds, num s.tmb.sub, num s.tmb.tick.toNat,
          s.tmb.quality.text, if s.tmb.enabled then "ON".toList else "OFF".toList, polarityText s.tmb.polarity,
          optText int s.tmb.lastError, optText (fun a => num (tickSpan a s.tmb.tick)) s.tmb.anchor, num s.tmb.run.length]
            ++ s.tmb.run.map int ++ [num s.tmb.rejected]) ∧
        LinkKept s t ∧
        t = { s with tmb := { s.tmb with lastReading := some (reading s), held := held }, hlk := t.hlk })

/-- REFERENCE_PULSE (R126 to R130): an edge that is no pulse, a rejected pulse, a corrected one, a disagreeing one, and the
one that completes a run. An edge that is no pulse has no effect (log entry 4). A correction past the last second is the wrap,
with quality UNSET (R121). By the model's choice an automatic step past it sets second 0 and the quality UNSET too, its record
and its notice keeping the causes REFERENCE and STEP (log entry 18). An anchor is too old from 36,046 ticks on (log entry 19),
and a step's new time is the last reading given (log entry 33). R45, R73: a step marks the open records, the interval and the
period in progress and leaves a step pending. R136: a TQN notice of cause PULSE, WRAP or STEP where the quality changes. -/
def Obligations.PulsesDisciplineTheClock : Prop :=
  ∀ (s : State) (edge : Polarity), ∃ t, exec (.referencePulse edge) s = .next t ∧
    let span := (s.tmb.anchor.map (fun a => tickSpan a s.tmb.tick)).getD 0
    let first := s.tmb.anchor = none ∨ s.tmb.anchorExpired = true ∨ 36045 < span
    let error : Int := if s.tmb.sub < 16384 then s.tmb.sub else (s.tmb.sub : Int) - 32768
    let run := if first then [] else s.tmb.run
    let next := if run ≠ [] ∧ (∀ x ∈ run ++ [error], ∀ y ∈ run ++ [error], x - y ≤ 66) then run ++ [error] else [error]
    let accepted := { s.tmb with
      anchor := some s.tmb.tick
      anchorExpired := false
      watchFrom := some s.tmb.tick
      run := run
      lastError := some error }
    let second := if error < 0 then (if s.tmb.seconds < 4294967295 then s.tmb.seconds + 1 else 0) else s.tmb.seconds
    let wraps := error < 0 ∧ 4294967295 ≤ s.tmb.seconds
    let signalled : Prop := (s.svc.measuring = false → t.evd = s.evd ∧ t.iva = s.iva) ∧
      (s.svc.measuring = true → t.evd.counter = s.evd.counter ∧
        t.iva = { s.iva with
          interval := s.iva.interval.map (fun j => { j with marks := { j.marks with timeStep := true } })
          period := s.iva.period.map (fun d => { d with reasons := { d.reasons with timeStep := true } })
          pendingStep := true } ∧
        ∀ kind,
          t.evd.context kind = (s.evd.context kind).map (fun c => { c with marks := { c.marks with timeStep := true } }))
    if ¬ (s.tmb.enabled = true ∧ sampling s = true ∧ edge = s.tmb.polarity) then t = s
    else if ¬ first ∧ span < 29491 then t = { s with tmb := { s.tmb with rejected := min 65535 (s.tmb.rejected + 1) } }
    else if error.natAbs ≤ 3277 then
      t.tmb = { accepted with
        seconds := second
        sub := 0
        run := []
        quality :=
          if wraps ∨ s.tmb.quality = .unset then .unset
          else if error.natAbs ≤ 33 ∨ s.tmb.quality = .holdover then .locked
          else s.tmb.quality
        held := t.tmb.held
        lastReading := t.tmb.lastReading } ∧
      let back := s.tmb.held || (decide (0 < error) && s.tmb.lastReading.any (fun last => (⟨s.tmb.seconds, 0⟩ : Time).lt last))
      let ahead := back && s.tmb.lastReading.any (fun last => (⟨second, 0⟩ : Time).lt last)
      let given : Time := if ahead then s.tmb.lastReading.getD ⟨second, 0⟩ else ⟨second, 0⟩
      let notice (cause : String) (now : Time) : Prop := Posts s t (if t.tmb.quality = s.tmb.quality then []
        else [⟨.tqn, [s.tmb.quality.text, t.tmb.quality.text, cause.toList, timeText now]⟩])
      (wraps → signalled ∧ t.tmb.held = false ∧ t.tmb.lastReading = some ⟨0, 0⟩ ∧ notice "WRAP" ⟨0, 0⟩ ∧
        t = { s with tmb := t.tmb, evs := t.evs, evd := t.evd, iva := t.iva, hlk := t.hlk }) ∧
      (¬ wraps → t = { s with tmb := t.tmb, hlk := t.hlk } ∧ notice "PULSE" given) ∧
      (¬ wraps → t.tmb.quality = s.tmb.quality → t.hlk = s.hlk ∧ t.tmb.lastReading = s.tmb.lastReading ∧
        t.tmb.held = back) ∧
      (¬ wraps → t.tmb.quality ≠ s.tmb.quality → t.tmb.lastReading = some given ∧ t.tmb.held = ahead)
    else if next.length < 3 then t = { s with tmb := { accepted with run := next } }
    else
      t.tmb = { accepted with
        seconds := second
        sub := 0
        run := []
        quality := if wraps ∨ s.tmb.quality = .unset then .unset else .locked
        held := false
        lastReading := some ⟨second, 0⟩ } ∧ signalled ∧
      Posts s t (if t.tmb.quality = s.tmb.quality then []
        else [⟨.tqn, [s.tmb.quality.text, t.tmb.quality.text, "STEP".toList, timeText ⟨second, 0⟩]⟩]) ∧
      t = { s with tmb := t.tmb, evs := t.evs, evd := t.evd, iva := t.iva, hlk := t.hlk } ∧
      (recordTaken s = true → ∃ x, x ∈ t.evs.pwq ∧ x.kind = .tim ∧ x.sequence = nextSequence s.evs ∧
        x.time = ⟨second, 0⟩ ∧
        x.payload = timePayload .reference s.tmb.formed ⟨second, 0⟩ s.tmb.quality t.tmb.quality s.tmb.tick next)

/-- The ordinary advance of the clocks on a crystal tick, in every power state except OFF (R121, R122, R174). RTC_WRAP (R121,
R131), TICK_COUNTER_WRAP (R122, R174), PULSE_ANCHOR_EXPIRY (R126) and HOLDOVER_TIMEOUT (R132), each where it is due, with the
TQN notice of a quality that changes (R136). The model's choices: that the wraps carry a tick (log entry 5), that in DORMANT
the wrap is the count's alone and that a wrap in a warm STARTING owes its record and its signals to the resume (R178, log entry
18), the expiry at more than 36,045 ticks (log entry 19), and second 0 as the last reading given (log entry 33). -/
def Obligations.ClockEventsComeAtTheirTicks : Prop :=
  (∀ s : State,
    let wraps := if s.tmb.tick = 0xFFFFFFFF#32 then min 65535 (s.spm.wrapCount + 1) else s.spm.wrapCount
    let counted (seconds sub : Nat) : State := { s with
      tmb := { s.tmb with tick := s.tmb.tick + 1, seconds := seconds, sub := sub }
      spm := { s.spm with wrapCount := wraps } }
    (s.spm.power = .off → crystalTick s = s) ∧
    (s.spm.power ≠ .off →
      (s.tmb.sub < 32767 → crystalTick s = counted s.tmb.seconds (s.tmb.sub + 1)) ∧
      (32767 ≤ s.tmb.sub → s.tmb.seconds < 4294967295 → crystalTick s = counted (s.tmb.seconds + 1) 0) ∧
      (32767 ≤ s.tmb.sub → 4294967295 ≤ s.tmb.seconds →
        (s.spm.power = .dormant → crystalTick s = counted 0 0) ∧ exec .rtcWrap s = .next (crystalTick s)))) ∧
  (∀ s : State, s.spm.power ≠ .off → s.spm.power ≠ .dormant → s.tmb.sub = 32767 → s.tmb.seconds = 4294967295 →
    let payload := timePayload .wrap ⟨4294967295, 999⟩ ⟨0, 0⟩ s.tmb.quality .unset (s.tmb.tick + 1) []
    ∃ t, exec .rtcWrap s = .next t ∧
      t.tmb = { s.tmb with
        seconds := 0
        sub := 0
        tick := s.tmb.tick + 1
        quality := .unset
        held := false
        run := []
        lastReading := some ⟨0, 0⟩
        owed := if s.spm.power = .starting ∧ s.spm.startKind = some .warm then some ⟨payload, ⟨0, 0⟩, .unset⟩
          else s.tmb.owed } ∧
      t = { s with tmb := t.tmb, evs := t.evs, evd := t.evd, iva := t.iva, spm := t.spm, hlk := t.hlk } ∧
      t.spm = { s.spm with
        wrapCount := if s.tmb.tick = 0xFFFFFFFF#32 then min 65535 (s.spm.wrapCount + 1) else s.spm.wrapCount } ∧
      t.evs.medium = s.evs.medium ∧
      Posts s t (if s.tmb.quality = .unset then []
        else [⟨.tqn, [s.tmb.quality.text, "UNSET".toList, "WRAP".toList, "0.000".toList]⟩]) ∧
      (s.spm.power = .starting ∧ s.spm.startKind = some .warm → t.evs = s.evs ∧ t.evd = s.evd ∧ t.iva = s.iva) ∧
      (¬ (s.spm.power = .starting ∧ s.spm.startKind = some .warm) →
        (s.svc.measuring = false → t.evd = s.evd ∧ t.iva = s.iva) ∧
        (s.svc.measuring = true → t.evd.counter = s.evd.counter ∧
          t.iva = { s.iva with
            interval := s.iva.interval.map (fun j => { j with marks := { j.marks with timeStep := true } })
            period := s.iva.period.map (fun d => { d with reasons := { d.reasons with timeStep := true } })
            pendingStep := true } ∧
          ∀ kind,
            t.evd.context kind = (s.evd.context kind).map (fun c => { c with marks := { c.marks with timeStep := true } })) ∧
        (recordTaken s = true → ∃ x, t.evs.pwq = s.evs.pwq ++ [x] ∧ x.kind = .tim ∧ x.sequence = nextSequence s.evs ∧
          x.time = ⟨0, 0⟩ ∧ x.quality = .unset ∧ x.payload = payload) ∧
        (recordTaken s = false → t.evs.pwq = s.evs.pwq ∧ t.evs.gapCount = min 65535 (s.evs.gapCount + 1)))) ∧
  (∀ s : State, s.spm.power ≠ .off → s.tmb.tick = 0xFFFFFFFF#32 → s.tmb.sub < 32767 →
    exec .tickCounterWrap s = .next { s with
      tmb := { s.tmb with tick := 0#32, sub := s.tmb.sub + 1 }
      spm := { s.spm with wrapCount := min 65535 (s.spm.wrapCount + 1) } }) ∧
  (∀ (s : State) (a : Tick), s.tmb.anchor = some a → s.tmb.anchorExpired = false → 36045 < tickSpan a s.tmb.tick →
    exec .pulseAnchorExpiry s = .next { s with tmb := { s.tmb with anchorExpired := true } }) ∧
  (∀ (s : State) (w : Tick), s.tmb.watchFrom = some w → s.tmb.quality = .locked → sampling s = true →
    98304 ≤ tickSpan w s.tmb.tick →
    ∃ t, exec .holdoverTimeout s = .next t ∧
      t.tmb = { s.tmb with quality := .holdover, lastReading := some (reading s), held := t.tmb.held } ∧
      t = { s with tmb := t.tmb, hlk := t.hlk } ∧
      (s.hlk.settings.mask.tqn = false → t.hlk = s.hlk) ∧
      (s.hlk.settings.mask.tqn = true → s.hlk.transmitter ≠ .idle → s.hlk.notices.length < 16 →
        t.hlk = { s.hlk with notices := s.hlk.notices ++
          [⟨.tqn, ["LOCKED".toList, "HOLDOVER".toList, "TIMEOUT".toList, timeText (reading s)]⟩] }))

/-- R123: no reading is lower than the one before it, over a crystal tick that does not wrap the RTC and over a pulse that is
corrected without a wrap. -/
def Obligations.ReadingsNeverRunBackWithoutAStep : Prop :=
  ∀ s : State,
    (s.tmb.sub < 32767 ∨ s.tmb.seconds < 4294967295 →
      (reading (crystalTick (takeReading s))).lt (reading s) = false) ∧
    (s.tmb.sub ≤ 3277 ∨ (29491 ≤ s.tmb.sub ∧ s.tmb.sub < 32768 ∧ s.tmb.seconds < 4294967295) →
      (reading (takePulse (takeReading s))).lt (reading s) = false)

/-! ## Evidence store -/

/-- R143, R145: a record offered is taken with the next sequence number, its header and the gap count, or dropped and
counted; nothing outside the store but TMB's last reading and the link changes; with the record taken the medium makes its
choice. R144, R147 to R149, R151, R156, R160, R162, R173: that choice on an IDLE medium, by the store state and the mode: a due
erase that is not held, the waiting read, or the program of the head with its check, its image and the sector it opens. -/
def Obligations.RecordsOfferedAreNumberedOrCounted : Prop :=
  (∀ s : State, s.evs.activity = .idle → s.spm.abortPending = false →
    s.spm.power = .run ∨ s.spm.power = .rideThrough ∨
      s.spm.power = .starting ∧ s.spm.startKind = some .cold ∧ s.evs.state ≠ .scanning →
    let t := mediumChoice s
    let held (n : Nat) : Prop := ∃ p f, s.evs.protectionStart = some p ∧ (sectorAt s.evs n).first = some f ∧
      0 < (sectorAt s.evs n).valid ∧ p ≤ f + (sectorAt s.evs n).valid - 1
    let ready (u : State) : Prop := u.evs.pwq ≠ [] ∧ (sectorAt u.evs (u.evs.writePosition / 32)).condition ≠ .closed
    let begins (u v : State) : Prop := ∀ r rest, u.evs.pwq = r :: rest →
      let check := crc32 u.evs.lastCheck r.body
      let sector := u.evs.writePosition / 32
      let opens := (sectorAt u.evs sector).condition = .erased
      v = { u with evs := { u.evs with
        activity := .program u.evs.writePosition (r.body ++ bigEndian 4 check.toNat) check
        sectors := v.evs.sectors
        due := if opens ∧ u.evs.state ≠ .erasingAll then some ((sector + 1) % 1024) else u.evs.due } } ∧
      (¬ opens → v.evs.sectors = u.evs.sectors) ∧
      (opens → ∀ n, n < u.evs.sectors.length → sectorAt v.evs n = { sectorAt u.evs n with condition :=
        if n = sector then .writing
        else if (sectorAt u.evs n).condition = .writing then .closed
        else (sectorAt u.evs n).condition })
    let reads (q : ReadRequest) : Prop := s.evs.waitingRead = some q ∧ s.spm.committed = false
    let served (q : ReadRequest) : Prop :=
      (∀ n, locate s.evs q.sequence = .slot n →
        t = { s with evs := { s.evs with activity := .read n q, waitingRead := none } }) ∧
      ((∀ n, locate s.evs q.sequence ≠ .slot n) → ∃ u, u = { s with evs := u.evs, hlk := u.hlk } ∧
        (locate s.evs q.sequence = .unavailable → u.evs = { s.evs with waitingRead := none } ∧
          ∀ c, s.hlk.inProgress = some c → Answered u c .nrc [optText num s.evs.oldestSequence,
            optText num (if s.evs.pwq = [] then s.evs.lastStored else s.evs.lastIssued)]) ∧
        (∀ image, locate s.evs q.sequence = .pending image →
          u.evs = { s.evs with waitingRead := none, lastRead := some q.sequence } ∧
          ∀ c, s.hlk.inProgress = some c → Answered u c .ok (match q.form with
            | .raw => [hexBytes image, "PENDING".toList]
            | .decoded => decodedSlot image ++ ["PENDING".toList])) ∧
        (s.evs.state ≠ .fault ∧ ready s → begins u t) ∧ (¬ (s.evs.state ≠ .fault ∧ ready s) → t = u))
    (s.evs.state = .ready ∨ s.evs.state = .full ∨ s.evs.state = .fault →
      (∀ n, s.evs.due = some n → ¬ held n → s.evs.state ≠ .fault →
        t = { s with evs := { s.evs with activity := .erase n } }) ∧
      ((∀ n, s.evs.due = some n → held n ∨ s.evs.state = .fault) →
        let programs := s.evs.state ≠ .fault ∧ ready s
        (programs → s.evs.mode = .drain ∨ (∀ q, ¬ reads q) → begins s t) ∧
        (∀ q, reads q → s.evs.mode = .normal ∨ ¬ programs → served q) ∧
        (¬ programs → (∀ q, ¬ reads q) → t = s))) ∧
    (s.evs.state = .erasingAll →
      (ready s → begins s t) ∧
      (¬ ready s → s.evs.erasedCount < 1024 → t = { s with evs := { s.evs with activity := .erase s.evs.front } }) ∧
      (¬ ready s → 1024 ≤ s.evs.erasedCount → t = s))) ∧
  ∀ (s : State) (kind : RecordKind) (payload : List Byte),
    let t := offer kind payload s
    Queues s t kind payload s.svc.generation ∧
    (recordTaken s = true ↔ s.evs.state ≠ .scanning ∧ s.evs.pwq.length < 32) ∧
    (recordTaken s = true → t.evs.surveyDrops = s.evs.surveyDrops ∧ t.evs.coldDrops = s.evs.coldDrops ∧
      t.evs.mode = (if 24 ≤ t.evs.pwq.length then .drain else s.evs.mode) ∧ t.tmb.lastReading = some (reading s)) ∧
    (recordTaken s = false → t = { s with evs := { s.evs with
      gapCount := min 65535 (s.evs.gapCount + 1)
      surveyDrops := min 4294967295 (s.evs.surveyDrops + 1)
      coldDrops := min 4294967295 (s.evs.coldDrops + 1) } }) ∧
    t = { s with tmb := t.tmb, evs := t.evs, hlk := t.hlk } ∧ t.evs.lastStored = s.evs.lastStored ∧
    t.evs.lastCheck = s.evs.lastCheck ∧ t.evs.oldest = s.evs.oldest ∧ t.evs.protectionStart = s.evs.protectionStart ∧
    (recordTaken s = true → ∃ x, t = mediumChoice { s with
      tmb := t.tmb
      evs := { s.evs with
        pwq := s.evs.pwq ++ [x]
        lastIssued := some x.sequence
        gapCount := 0
        mode := if 24 ≤ s.evs.pwq.length + 1 then .drain else s.evs.mode } })

/-- R144: the register of the chain check, preset, takes each byte into its eight most significant bits and is shifted eight
times, with 0x04C11DB7 combined wherever a 1 is shifted out; a check so formed tells one altered byte, and it tells one preset
from another. -/
def Obligations.CheckTellsAnAlteredByteOrPreset : Prop :=
  (∀ (preset : BitVec 32) (bytes : List Byte) (b : Byte),
    let shift (c : BitVec 32) : BitVec 32 :=
      BitVec.ofNat 32 (2 * c.toNat) ^^^ (if 2147483648 ≤ c.toNat then 0x04C11DB7#32 else 0#32)
    crc32 preset [] = preset ∧
    crc32 preset (bytes ++ [b]) = shift^[8] (crc32 preset bytes ^^^ BitVec.ofNat 32 (b.toNat * 16777216))) ∧
  (∀ (preset : BitVec 32) (before after : List Byte) (a b : Byte), a ≠ b →
    crc32 preset (before ++ a :: after) ≠ crc32 preset (before ++ b :: after)) ∧
  (∀ (p q : BitVec 32) (bytes : List Byte), p ≠ q → crc32 p bytes ≠ crc32 q bytes)

/-- PROGRAM_COMPLETE (R149, R150, R153, R155): the head stored and the ring moved on, or the slot given up, with FAULT at the
second failure in a row, and an STN notice at each entry to FULL and FAULT (R164). The bytes of a failed program are the
command's operand (log entry 6). R148, R161, R172, R173, R175, R177, R178, R180, R195: what follows any completion, whatever
waits for it: the medium's choice; a waiting STE taken by the table; a waiting commitment made; the drain ended, with DORMANT,
OFF or the start at once of a supply that has returned; and a start given up ended. The order of these is the model's reading
(log entry 33), and so is what is lost in OFF (log entry 32). -/
def Obligations.ProgramCompletionStoresOrRetries : Prop :=
  (∀ u : State, (u.evs.steWaiting = true → u.hlk.inProgress = some .ste) →
    let t := completed u
    let off (t : State) : Prop := t.evs.medium = u.evs.medium ∧ t.pins = u.pins ∧ t.pending = u.pending ∧ t.svc = Svc.cold ∧
      t.tmb = Tmb.cold ∧ t.evs = Evs.cold u.evs.medium ∧
      (u.spm.supply = .failed → t.spm.power = .off) ∧
      (u.spm.supply = .good → t.spm.power = .starting ∧ t.spm.startKind = some .cold ∧ t.spm.coldReason = some .powerUp)
    let unlinked (w : State) (h : Hlk) : Prop := h.buffer = [] ∧ h.reception = none ∧ h.inProgress = none ∧
      h.reply = none ∧ h.transmitter = .idle ∧ (w.hlk.adoption = none → h.settings = w.hlk.settings) ∧
      (∀ n f, w.hlk.transmitter = .notice n f → h.notices = (n :: w.hlk.notices).take 16 ∧
        (h.overflow = true ↔ w.hlk.overflow = true ∨ 16 ≤ w.hlk.notices.length)) ∧
      ((∀ n f, w.hlk.transmitter ≠ .notice n f) → h.notices = w.hlk.notices ∧ h.overflow = w.hlk.overflow)
    let asleep (w t : State) : Prop := (u.spm.backup = .failed → off t) ∧
      (u.spm.backup = .good →
        t = { w with ich := { w.ich with windowOpen := false }, iva := t.iva, tmb := t.tmb, evs := t.evs, spm := t.spm
                     hlk := t.hlk } ∧
        t.evs = { w.evs with waitingRead := none, steWaiting := false } ∧
        t.iva = { w.iva with
          period := w.iva.period.map (fun d => { d with reasons := { d.reasons with dormancy := true } }) } ∧
        t.tmb = { w.tmb with
          anchor := none
          anchorExpired := false
          lastReading := some (reading w)
          held := w.tmb.held && w.tmb.formed.lt (reading w) } ∧ t.spm.committed = false ∧
        t.spm.commitWaiting = false ∧ t.spm.rideTimer = none ∧ t.spm.checkWord.isSome = true ∧
        t.spm.dormancyEntry = some ⟨u.spm.wrapCount * 4294967296 + u.tmb.tick.toNat, reading u⟩ ∧
        (u.spm.supply = .failed → t.spm.power = .dormant ∧ unlinked w t.hlk ∧
          t.spm.checkWord = some (crc32 0xFFFFFFFF#32 (Config.contextImage t.retained))) ∧
        (u.spm.supply = .good → t.spm.power = .starting ∧ t.spm.startKind = some .warm ∧
          t.spm.qualification = some (u.tmb.tick + 3277#32) ∧ ∃ h, t.spm.kept = some ⟨t.tmb, h⟩ ∧ unlinked w h))
    ∃ w, w = { u with evs := w.evs, hlk := w.hlk } ∧
      (u.evs.steWaiting = false → w = { u with evs := { u.evs with activity := .idle } }) ∧
      (u.evs.steWaiting = true →
        (u.hlk.transmitter ≠ .idle → w.hlk = { u.hlk with inProgress := none, reply := w.hlk.reply }) ∧
        (u.evs.state = .ready → u.evs.protectionStart = none → Answered w .ste .ok [] ∧
          (u.evs.writePosition < 32768 → (∀ x, u.evs.oldest = some x → x < 32768) →
            let front := u.evs.oldest.getD u.evs.writePosition / 32
            w.evs = { u.evs with
              activity := .idle
              steWaiting := false
              erasedRange := u.evs.oldestSequence.map (fun q => (q, u.evs.lastStored.getD 0))
              sectors := List.replicate 1024 ⟨.closed, none, 0, []⟩
              oldest := none
              oldestSequence := none
              missing := []
              writePosition := 32 * front
              front := front
              erasedCount := 0
              due := none
              state := .erasingAll })) ∧
        (u.evs.state = .full ∨ u.evs.state = .ready ∧ u.evs.protectionStart ≠ none → Answered w .ste .lck [] ∧
          w.evs = { u.evs with activity := .idle, steWaiting := false }) ∧
        (u.evs.state = .fault ∨ u.evs.state = .erasingAll → Answered w .ste .stt [] ∧
          w.evs = { u.evs with activity := .idle, steWaiting := false })) ∧
      (u.spm.abortPending = false → u.spm.commitWaiting = false →
        (u.spm.committed = false → t = mediumChoice w) ∧
        (u.spm.committed = true →
          (w.evs.pwq = [] ∨ w.evs.state = .full ∨ w.evs.state = .fault → asleep w t) ∧
          (w.evs.pwq ≠ [] → w.evs.state ≠ .full → w.evs.state ≠ .fault → t = mediumChoice w))) ∧
      (u.spm.abortPending = false → u.spm.commitWaiting = true → u.spm.committed = true →
        let payload := dormantPayload u.spm.failTime u.spm.windowEndTime w.evs.pwq.length w.evs.state u.svc.measuring
          u.svc.survey.state u.spm.backup u.evd.listing
        let told (c : State) : Prop := u.hlk.settings.mask.pwn = true → w.hlk.transmitter ≠ .idle →
          w.hlk.notices.length < 16 → c.hlk.notices = w.hlk.notices ++ [⟨.pwn, ["COMMIT".toList, timeText (reading u),
            u.spm.backup.text, num c.evs.pwq.length, optText num (offeredSequence w)]⟩]
        (w.evs.state = .ready ∨ w.evs.state = .erasingAll → Queues w t .pwr payload u.svc.generation ∧ told t ∧
          t = { u with tmb := t.tmb, evs := t.evs, spm := { u.spm with commitWaiting := false }, hlk := t.hlk }) ∧
        (w.evs.state = .fault ∨ w.evs.state = .full ∧
            (sectorAt w.evs (w.evs.writePosition / 32)).condition = .closed ∧
            (∀ d, w.evs.due = some d → eraseHeld w.evs d = true) →
          ∃ c, Queues w c .pwr payload u.svc.generation ∧ told c ∧ asleep c t ∧
            c = { u with tmb := c.tmb, evs := c.evs, spm := { u.spm with commitWaiting := false }, hlk := c.hlk })) ∧
      (u.spm.abortPending = true → u.evs.steWaiting = false → u.spm.startKind ≠ some .warm →
        (u.spm.backup = .failed → off t) ∧
        (u.spm.backup = .good → u.spm.supply = .failed →
          t = { w with tmb := t.tmb, spm := t.spm, hlk := t.hlk } ∧ unlinked w t.hlk ∧ t.spm.power = .dormant ∧
          t.spm.abortPending = false ∧ t.spm.kept = none ∧ t.spm.startKind = none ∧ t.spm.checkWord = none ∧
          t.spm.abortedRestarts = u.spm.abortedRestarts ∧
          t.spm.dormancyEntry = some ⟨u.spm.wrapCount * 4294967296 + u.tmb.tick.toNat, reading u⟩) ∧
        (u.spm.backup = .good → u.spm.supply = .good →
          t.spm.power = .starting ∧ t.spm.startKind = some .cold ∧ t.spm.coldReason = some .context ∧
          t.spm.abortPending = false ∧ t.spm.abortedRestarts = u.spm.abortedRestarts ∧ t.evs = Evs.cold u.evs.medium ∧
          t.svc = Svc.cold ∧ t.tmb = Tmb.cold ∧ t.pins = u.pins ∧ t.pending = u.pending))) ∧
  (∀ (s : State) (slot : Nat) (image : List Byte) (check : BitVec 32) (r : Record) (rest : List Record),
    s.evs.activity = .program slot image check → s.evs.pwq = r :: rest →
    let entry := sectorAt s.evs (slot / 32)
    let n := (slot / 32 + 1) % 1024
    let held := slot % 32 = 31 ∧ (sectorAt s.evs n).condition = .closed ∧ s.evs.due = some n ∧
      ∃ p f, s.evs.protectionStart = some p ∧ (sectorAt s.evs n).first = some f ∧ 0 < (sectorAt s.evs n).valid ∧
        p ≤ f + (sectorAt s.evs n).valid - 1
    let full (occupancy : Nat) : Notice := ⟨.stn, ["ENTER".toList, "FULL".toList, "PROTECTION".toList, num occupancy,
      num s.evs.coldDrops, timeText (reading s)]⟩
    s.Sized → slot < 32768 →
    (∃ u, exec (.programComplete none) s = .next (completed u) ∧ u = { s with tmb := u.tmb, evs := u.evs, hlk := u.hlk } ∧
      u.hlk.inProgress = s.hlk.inProgress ∧
      u.evs = { s.evs with
        medium := s.evs.medium.writeSlot slot image
        pwq := rest
        lastStored := some r.sequence
        lastCheck := check
        oldest := some (s.evs.oldest.getD slot)
        oldestSequence := if s.evs.oldest = none then some r.sequence else s.evs.oldestSequence
        sectors := s.evs.sectors.set (slot / 32) { entry with
          valid := entry.valid + 1
          first := some (entry.first.getD r.sequence) }
        failures := 0
        writePosition := (slot + 1) % 32768
        mode := if s.evs.mode = .drain ∧ rest.length ≤ 8 ∧ s.spm.power = .run then .normal else s.evs.mode
        state := u.evs.state } ∧
      (s.evs.state = .ready ∧ held → u.evs.state = .full ∧ Posts s u [full rest.length]) ∧
      (¬ (s.evs.state = .ready ∧ held) → u.evs.state = s.evs.state ∧ u.hlk = s.hlk)) ∧
    (∀ bytes, bytes ≠ image → ∃ u, exec (.programComplete (some bytes)) s = .next (completed u) ∧
      u = { s with tmb := u.tmb, evs := u.evs, hlk := u.hlk } ∧ u.hlk.inProgress = s.hlk.inProgress ∧
      (s.evs.failures = 0 ∨ s.evs.state ≠ .erasingAll → u.evs = { s.evs with
        medium := s.evs.medium.writeSlot slot bytes
        sectors := s.evs.sectors.set (slot / 32) { entry with voids := entry.voids ++ [slot % 32] }
        failures := if s.evs.failures = 0 then 1 else s.evs.failures
        writePosition := (slot + 1) % 32768
        state := u.evs.state }) ∧
      (s.evs.failures ≠ 0 → u.evs.state = .fault ∧ Posts s u [⟨.stn, ["ENTER".toList, "FAULT".toList,
        "PROGRAM_FAILURE".toList, num (rest.length + 1), num s.evs.coldDrops, timeText (reading s)]⟩]) ∧
      (s.evs.failures = 0 → s.evs.state = .ready ∧ held → u.evs.state = .full ∧ Posts s u [full (rest.length + 1)]) ∧
      (s.evs.failures = 0 → ¬ (s.evs.state = .ready ∧ held) → u.evs.state = s.evs.state ∧ u.hlk = s.hlk))) ∧
  ∀ (s : State) (slot : Nat) (image : List Byte) (check : BitVec 32) (r : Record) (rest : List Record),
    s.evs.activity = .program slot image check → s.evs.pwq = r :: rest → s.PlainCompletion → s.Sized → slot < 32768 →
    let entry := sectorAt s.evs (slot / 32)
    let n := (slot / 32 + 1) % 1024
    let held := slot % 32 = 31 ∧ (sectorAt s.evs n).condition = .closed ∧ s.evs.due = some n ∧
      ∃ p f, s.evs.protectionStart = some p ∧ (sectorAt s.evs n).first = some f ∧ 0 < (sectorAt s.evs n).valid ∧
        p ≤ f + (sectorAt s.evs n).valid - 1
    (∃ t, exec (.programComplete none) s = .next t ∧ t = { s with tmb := t.tmb, evs := t.evs, hlk := t.hlk } ∧
      t.evs.medium = s.evs.medium.writeSlot slot image ∧ t.evs.pwq = rest ∧ t.evs.lastStored = some r.sequence ∧
      t.evs.lastCheck = check ∧ t.evs.failures = 0 ∧ t.evs.writePosition = (slot + 1) % 32768 ∧
      t.evs.oldest = some (s.evs.oldest.getD slot) ∧ t.evs.lastIssued = s.evs.lastIssued ∧
      t.evs.oldestSequence = (if s.evs.oldest = none then some r.sequence else s.evs.oldestSequence) ∧
      (sectorAt t.evs (slot / 32)).valid = entry.valid + 1 ∧
      (sectorAt t.evs (slot / 32)).first = some (entry.first.getD r.sequence) ∧
      (sectorAt t.evs (slot / 32)).voids = entry.voids ∧
      t.evs.mode = (if s.evs.mode = .drain ∧ rest.length ≤ 8 ∧ s.spm.power = .run then .normal else s.evs.mode) ∧
      (s.evs.state = .ready ∧ held → t.evs.state = .full) ∧ (¬ (s.evs.state = .ready ∧ held) → t.evs.state = s.evs.state)) ∧
    (∀ bytes, bytes ≠ image → ∃ t, exec (.programComplete (some bytes)) s = .next t ∧
      t = { s with tmb := t.tmb, evs := t.evs, hlk := t.hlk } ∧ t.evs.medium = s.evs.medium.writeSlot slot bytes ∧
      t.evs.lastStored = s.evs.lastStored ∧ t.evs.lastCheck = s.evs.lastCheck ∧ t.evs.oldest = s.evs.oldest ∧
      t.evs.oldestSequence = s.evs.oldestSequence ∧ t.evs.writePosition = (slot + 1) % 32768 ∧
      (sectorAt t.evs (slot / 32)).valid = entry.valid ∧
      (sectorAt t.evs (slot / 32)).first = entry.first ∧ (sectorAt t.evs (slot / 32)).voids = entry.voids ++ [slot % 32] ∧
      (s.evs.failures = 0 → t.evs.failures = 1 ∧ t.evs.pwq = r :: rest ∧
        (s.evs.state = .ready ∧ held → t.evs.state = .full) ∧ (¬ (s.evs.state = .ready ∧ held) → t.evs.state = s.evs.state)) ∧
      (s.evs.failures ≠ 0 → t.evs.state = .fault ∧ (s.evs.state ≠ .erasingAll → t.evs.pwq = r :: rest) ∧
        (s.evs.state = .erasingAll → rest.length < 31 → ∃ x, t.evs.pwq = r :: rest ++ [x] ∧ x.kind = .sto ∧
          x.payload = erasedPayload s.evs.erasedRange s.evs.erasedCount false)))

/-- ERASE_COMPLETE (R152, R155, R162) outside the scan: the sector's bytes 0xFF and its entry empty, the oldest position and
sequence moved to the next sector that holds a record, an erase-all one sector further or ended; a residue leaves the sector
CLOSED and the store in FAULT with the oldest position and sequence as they were; whatever waits for the completion, it goes
on to what follows any completion. Within the scan (R167, R180) it ends the scan and the cold start, READY or in FAULT, and the
blocks restore what the scan found (R119, R120, R186); log entries 36 and 38 say how the model reads codes outside their lists
and the START record's dropped mark (the residue is the command's operand, log entry 6). -/
def Obligations.EraseCompletionFreesTheSector : Prop :=
  (∀ (s : State) (sector : Nat), s.evs.activity = .erase sector → s.Sized → sector < 1024 →
    s.evs.state ≠ .scanning ∨ s.spm.abortPending = true →
    (∃ u, exec (.eraseComplete []) s = .next (completed u) ∧ u = { s with tmb := u.tmb, evs := u.evs, hlk := u.hlk } ∧
      u.hlk.inProgress = s.hlk.inProgress ∧
      (s.evs.state ≠ .erasingAll → u = { s with evs := { s.evs with
        medium := u.evs.medium
        sectors := s.evs.sectors.set sector ⟨.erased, none, 0, []⟩
        due := if s.evs.due = some sector then none else s.evs.due
        oldest := u.evs.oldest
        oldestSequence := u.evs.oldestSequence } }) ∧
      (s.evs.state = .erasingAll → u.evs.erasedCount = s.evs.erasedCount + 1 ∧ u.evs.front = (s.evs.front + 1) % 1024 ∧
        u.evs.state = if s.evs.erasedCount < 1023 then .erasingAll else .ready)) ∧
    (∀ (offset : Nat) (b : Byte), offset < 4096 → b ≠ 0xFF#8 → ∃ u, exec (.eraseComplete [(offset, b)]) s =
        .next (completed u) ∧ u = { s with tmb := u.tmb, evs := u.evs, hlk := u.hlk } ∧
      u.hlk.inProgress = s.hlk.inProgress ∧
      u.evs.sectors = s.evs.sectors.set sector { sectorAt s.evs sector with condition := .closed } ∧
      (s.evs.state = .scanning → u.evs.state = .scanning ∧ u.hlk = s.hlk) ∧
      (s.evs.state ≠ .scanning → u.evs.state = .fault ∧ Posts s u [⟨.stn, ["ENTER".toList, "FAULT".toList,
        "ERASE_FAILURE".toList, num s.evs.pwq.length, num s.evs.coldDrops, timeText (reading s)]⟩]))) ∧
  (∀ (s : State) (sector : Nat), s.evs.activity = .erase sector → s.PlainCompletion → s.Sized → sector < 1024 →
    s.evs.state ≠ .scanning →
    (∃ t, exec (.eraseComplete []) s = .next t ∧ t = { s with tmb := t.tmb, evs := t.evs, hlk := t.hlk } ∧
      (∀ a, t.evs.medium.read a = if a / 4096 = sector then 0xFF#8 else s.evs.medium.read a) ∧
      (sectorAt t.evs sector).first = none ∧ (sectorAt t.evs sector).valid = 0 ∧ (sectorAt t.evs sector).voids = [] ∧
      (sectorAt t.evs sector).condition ≠ .closed ∧ t.evs.lastStored = s.evs.lastStored ∧
      t.evs.lastCheck = s.evs.lastCheck ∧ t.evs.writePosition = s.evs.writePosition ∧
      (if s.evs.oldest.map (fun x => x / 32) = some sector then
        let further := (s.evs.writePosition / 32 + 1024 - sector) % 1024
        let reach := if further = 0 then 1023 else further
        (∀ x, t.evs.oldest = some x → x / 32 ≠ sector) ∧
        (∀ d, 1 ≤ d → d ≤ reach → 0 < (sectorAt s.evs ((sector + d) % 1024)).valid →
          (∀ e, 1 ≤ e → e < d → (sectorAt s.evs ((sector + e) % 1024)).valid = 0) →
          t.evs.oldestSequence = (sectorAt s.evs ((sector + d) % 1024)).first ∧
          ∀ x, t.evs.oldest = some x → x / 32 = (sector + d) % 1024) ∧
        ((∀ d, 1 ≤ d → d ≤ reach → (sectorAt s.evs ((sector + d) % 1024)).valid = 0) →
          t.evs.oldest = none ∧ t.evs.oldestSequence = none)
      else t.evs.oldest = s.evs.oldest ∧ t.evs.oldestSequence = s.evs.oldestSequence) ∧
      (s.evs.state ≠ .erasingAll → t.evs.state = s.evs.state ∧ t.evs.pwq = s.evs.pwq) ∧
      (s.evs.state = .erasingAll → s.evs.erasedCount < 1023 → t.evs.state = .erasingAll ∧ t.evs.pwq = s.evs.pwq ∧
        t.evs.erasedCount = s.evs.erasedCount + 1 ∧ t.evs.front = (s.evs.front + 1) % 1024) ∧
      (s.evs.state = .erasingAll → 1023 ≤ s.evs.erasedCount → s.evs.pwq.length < 32 → t.evs.state = .ready ∧
        t.evs.due = some ((s.evs.writePosition / 32 + 1) % 1024) ∧ ∃ x, t.evs.pwq = s.evs.pwq ++ [x] ∧ x.kind = .sto ∧
          x.payload = erasedPayload s.evs.erasedRange (s.evs.erasedCount + 1) true)) ∧
    (∀ (offset : Nat) (b : Byte), offset < 4096 → b ≠ 0xFF#8 → ∃ t, exec (.eraseComplete [(offset, b)]) s = .next t ∧
      t = { s with tmb := t.tmb, evs := t.evs, hlk := t.hlk } ∧ t.evs.medium.read (4096 * sector + offset) = b ∧
      (∀ a, a / 4096 ≠ sector → t.evs.medium.read a = s.evs.medium.read a) ∧ t.evs.state = .fault ∧
      (sectorAt t.evs sector).condition = .closed ∧ (sectorAt t.evs sector).first = (sectorAt s.evs sector).first ∧
      (sectorAt t.evs sector).valid = (sectorAt s.evs sector).valid ∧ t.evs.oldest = s.evs.oldest ∧
      t.evs.oldestSequence = s.evs.oldestSequence)) ∧
  (∀ (s : State) (sector : Nat), s.evs.activity = .erase sector → s.evs.state = .scanning → s.spm.abortPending = false →
    s.evs.pwq = [] → s.evs.due = some sector → s.Sized → sector < 1024 →
    let told (t : State) (entered : List Notice) : Prop :=
      (t.hlk.settings.mask = s.hlk.settings.mask ∨ s.hlk.transmitter ≠ .idle ∨ entered = []) → Posts s t (entered ++
        (match s.evs.recovery.survey with
          | some r => if r.kind = .svy ∧ fieldAt r.payload 0 1 = 1 then
              [⟨.svn, [num r.sequence, "COLD".toList, "INCONCLUSIVE".toList, num (nextSequence s.evs)]⟩] else []
          | none => []) ++
        [⟨.pwn, ["COLD".toList, timeText (reading s), s.spm.backup.text, num t.evs.pwq.length,
          optText ColdReason.text s.spm.coldReason, num s.spm.abortedRestarts, optText num t.evs.lastIssued]⟩])
    let restores (t : State) : Prop := Restored s t s.evs.recovery.settings s.evs.recovery.measurement s.evs.recovery.survey ∧
      t.evd.counter = s.evd.counter ∧ t.evs.lastStored = s.evs.lastStored ∧ t.evs.lastCheck = s.evs.lastCheck ∧
      t.evs.writePosition = s.evs.writePosition ∧ t.evs.voidFound = s.evs.voidFound ∧
      t.evs.breaksFound = s.evs.breaksFound ∧
      ∃ x, t.evs.pwq.getLast? = some x ∧ x.kind = .pwr ∧ fieldAt x.payload 0 1 = 3 ∧ t.evs.lastIssued = some x.sequence ∧
        x.generation = t.svc.generation ∧
        x.payload = coldPayload (s.spm.coldReason.getD .powerUp) s.spm.abortedRestarts s.evs.voidFound s.evs.breaksFound
          t.evs.oldestSequence t.evs.lastStored t.svc.measuring t.svc.survey.state s.spm.backup
    (∃ t, exec (.eraseComplete []) s = .next t ∧ t.spm.power = .run ∧ t.evs.state = .ready ∧ t.pins = s.pins ∧
      t.pending = s.pending ∧
      (∀ a, t.evs.medium.read a = if a / 4096 = sector then 0xFF#8 else s.evs.medium.read a) ∧
      told t [] ∧ t.evs.protectionStart = s.evs.protectionStart ∧ restores t) ∧
    (∀ (offset : Nat) (b : Byte), offset < 4096 → b ≠ 0xFF#8 → ∃ t, exec (.eraseComplete [(offset, b)]) s = .next t ∧
      t.spm.power = .run ∧ t.evs.state = .fault ∧ t.pins = s.pins ∧ t.pending = s.pending ∧
      (sectorAt t.evs sector).condition = .closed ∧ t.evs.oldest = s.evs.oldest ∧
      told t [⟨.stn, ["ENTER".toList, "FAULT".toList, "ERASE_FAILURE".toList, num 0, num s.evs.coldDrops,
        timeText (reading s)]⟩] ∧
      restores t))

/-- SLOT_READ_COMPLETE (R156 to R158): the command in progress is answered with what the slot holds, and its sequence becomes
the last read (the text of a decoded record is the model's, log entry 20); whatever waits for the completion, it goes
on to what follows any completion. -/
def Obligations.SlotReadAnswersTheCommand : Prop :=
  (∀ (s : State) (slot : Nat) (asked : ReadRequest) (c : Command), s.evs.activity = .read slot asked →
    s.hlk.inProgress = some c →
    ∃ u, exec .slotReadComplete s = .next (completed u) ∧ u = { s with evs := u.evs, hlk := u.hlk } ∧
      u.evs = { s.evs with lastRead := some asked.sequence } ∧
      let bytes := Memory.readBytes s.evs.medium (128 * slot) 128
      let mark := if fromBigEndian (bytes.take 4) = asked.sequence then [] else ["MISMATCH".toList]
      Answered u c .ok (match asked.form with
        | .raw => [hexBytes bytes, num slot] ++ mark
        | .decoded => decodedSlot bytes ++ num slot :: mark)) ∧
  ∀ (s : State) (slot : Nat) (asked : ReadRequest) (c : Command), s.evs.activity = .read slot asked →
    s.hlk.inProgress = some c → s.OneRequest → s.PlainCompletion →
    ∃ t, exec .slotReadComplete s = .next t ∧ t = { s with evs := t.evs, hlk := t.hlk } ∧
      (let bytes := Memory.readBytes s.evs.medium (128 * slot) 128
       let mark := if fromBigEndian (bytes.take 4) = asked.sequence then [] else ["MISMATCH".toList]
       Answered t c .ok (match asked.form with
        | .raw => [hexBytes bytes, num slot] ++ mark
        | .decoded => decodedSlot bytes ++ num slot :: mark)) ∧
      t.evs.lastRead = some asked.sequence ∧ t.evs.waitingRead = none ∧ t.evs.medium = s.evs.medium ∧
      t.evs.pwq = s.evs.pwq ∧ t.evs.lastStored = s.evs.lastStored ∧ t.evs.state = s.evs.state ∧ t.evs.mode = s.evs.mode

/-- RDR, RDX and RDN (R156 to R160): refusals, a hit answered from the queue, an unavailable sequence answered NRC, and a
medium read that waits for the choice of the medium, which falls at once where it is idle (R148, R162): a free due erase, in
DRAIN or once committed (R173) a record that can be programmed, or the read (the text of a decoded record is the model's, log
entry 20, and so is that a number with a leading '-' is no decimal number, log entry 40). Where a sequence stands: the image
of a hit with its chain check (R142, R144, R157), and the slot that the sector table gives (R156, log entry 15). -/
def Obligations.RecordReadsAreLocated : Prop :=
  (∀ (e : Evs) (before after : List Record) (x : Record), e.pwq = before ++ x :: after →
    (∀ y ∈ before, y.sequence ≠ x.sequence) →
    let preset := before.foldl (fun check y => crc32 check y.body) e.lastCheck
    locate e x.sequence = .pending (x.body ++ bigEndian 4 (crc32 preset x.body).toNat)) ∧
  (∀ (e : Evs) (q : Nat), (∀ x ∈ e.pwq, x.sequence ≠ q) →
    ((e.oldestSequence = none ∨ e.lastStored = none ∨ (∃ o, e.oldestSequence = some o ∧ q < o) ∨
        (∃ l, e.lastStored = some l ∧ l < q) ∨ (∃ run ∈ e.missing, run.1 ≤ q ∧ q ≤ run.2)) → locate e q = .unavailable) ∧
    (∀ o l n f, e.oldestSequence = some o → e.lastStored = some l → o ≤ q → q ≤ l →
      (∀ run ∈ e.missing, ¬ (run.1 ≤ q ∧ q ≤ run.2)) → (sectorAt e n).first = some f → f ≤ q →
      (∀ m g, m ≠ n → (sectorAt e m).first = some g → g ≤ q → g < f) →
      locate e q = match (((List.range 32).filter (fun i =>
          !(sectorAt e n).voids.contains i && !e.medium.slotErased (32 * n + i))).map (fun i => 32 * n + i))[q - f]? with
        | some slot => .slot slot
        | none => .unavailable)) ∧
  (∀ s : State, s.LinkFree → s.OneRequest →
    let served (i : Instr) (c : Command) (form : ReadForm) (q : Nat) : Prop := ∃ t, exec i s = .next t ∧
      match locate s.evs q with
      | .pending image =>
        Answered t c .ok (match form with
          | .raw => [hexBytes image, "PENDING".toList]
          | .decoded => decodedSlot image ++ ["PENDING".toList]) ∧ LinkKept s t ∧
        t = { s with evs := { s.evs with lastRead := some q }, hlk := t.hlk }
      | .unavailable => AnsweredOnly s t c .nrc [optText num s.evs.oldestSequence,
          optText num (if s.evs.pwq = [] then s.evs.lastStored else s.evs.lastIssued)]
      | .slot n =>
        let w := { s with
          evs := { s.evs with waitingRead := some ⟨form, q⟩ }
          hlk := { s.hlk with reception := none, inProgress := some c } }
        let sector := s.evs.writePosition / 32
        let free := (∃ d, s.evs.due = some d ∧ eraseHeld s.evs d = false) ∧ s.evs.state ≠ .fault
        let writes := s.evs.pwq ≠ [] ∧ (sectorAt s.evs sector).condition ≠ .closed ∧ s.evs.state ≠ .fault
        let programs (t : State) : Prop := ∃ image check, t.evs.activity = .program s.evs.writePosition image check ∧
          t.evs.waitingRead = some ⟨form, q⟩ ∧ t.evs.pwq = s.evs.pwq
        t = mediumChoice w ∧ t = { w with evs := t.evs } ∧
        (s.evs.activity = .idle → s.spm.abortPending = false → s.evs.state = .ready ∨ s.evs.state = .full ∨ s.evs.state = .fault →
          (∀ d, s.evs.due = some d → free → t.evs = { w.evs with activity := .erase d }) ∧
          (¬ free → s.spm.committed = false → s.evs.mode = .normal ∨ ¬ writes →
            t.evs = { s.evs with activity := .read n ⟨form, q⟩, waitingRead := none }) ∧
          (¬ free → s.evs.mode = .drain ∨ s.spm.committed = true → writes → programs t) ∧
          (¬ free → s.spm.committed = true → ¬ writes → t = w)) ∧
        (s.evs.activity = .idle → s.spm.abortPending = false → s.evs.state = .erasingAll →
          (writes → programs t) ∧
          (¬ writes → t.evs = if s.evs.erasedCount < 1024 then { w.evs with activity := .erase s.evs.front } else w.evs)) ∧
        (s.evs.activity ≠ .idle → t = w)
    (∀ q, ((∃ x ∈ s.evs.pwq, x.sequence = q) ↔ ∃ image, locate s.evs q = .pending image)) ∧
    (∀ q, q ≤ 4294967295 → wellFormedFields [num q] = true →
      served (.rdr [num q]) .rdr .decoded q ∧ served (.rdx [num q]) .rdx .raw q) ∧
    (∀ q, s.evs.lastRead = some q → served (.rdn []) .rdn .decoded (q + 1)) ∧
    (∀ q, s.evs.lastRead = none → s.evs.oldestSequence = some q → served (.rdn []) .rdn .decoded q) ∧
    (∀ x rest, s.evs.lastRead = none → s.evs.oldestSequence = none → s.evs.pwq = x :: rest →
      served (.rdn []) .rdn .decoded x.sequence) ∧
    (s.evs.lastRead = none → s.evs.oldestSequence = none → s.evs.pwq = [] →
      ∃ t, exec (.rdn []) s = .next t ∧ AnsweredOnly s t .rdn .nrc [[], optText num s.evs.lastStored]) ∧
    (∀ fields, wellFormedFields fields = true →
      ((∀ f, fields = [f] → readNat f = none) →
        (∃ t, exec (.rdr fields) s = .next t ∧ AnsweredOnly s t .rdr .syn []) ∧
        (∃ t, exec (.rdx fields) s = .next t ∧ AnsweredOnly s t .rdx .syn [])) ∧
      (∀ f q, fields = [f] → readNat f = some q → 4294967295 < q →
        (∃ t, exec (.rdr fields) s = .next t ∧ AnsweredOnly s t .rdr .rng []) ∧
        (∃ t, exec (.rdx fields) s = .next t ∧ AnsweredOnly s t .rdx .rng [])) ∧
      (fields ≠ [] → ∃ t, exec (.rdn fields) s = .next t ∧ AnsweredOnly s t .rdn .syn [])))

/-- SCAN_READ_COMPLETE (R165 to R167, R180): the medium is not changed, and the cold start ends in RUN unless an erase comes
first; over an erased medium the store begins with nothing, the settings are the defaults, and the COLD record is number 1 with
the preset 0xFFFFFFFF. R165: the anchor of the walk, and the judgement of every later slot. R119, R120, R166, R167, R186: over a
programmed medium, the positions and the table, the protection start and the due erase, and what the other blocks recover
(log entry 16). The model's choices in it: how stored codes outside their lists are read (a measurement code other than
MEASURING as STOPPED, a survey subtype other than START as RELEASE, settings and verdict codes, log entry 38), and the start
record's dropped mark of the context recovered from a START record and of its verdict (log entry 36). -/
def Obligations.ScanEndsTheColdStart : Prop :=
  (∀ s : State, s.evs.activity = .scan → ∃ t, exec .scanReadComplete s = .next t ∧ t.evs.medium = s.evs.medium ∧
    t.pins = s.pins ∧ t.pending = s.pending ∧
    (t.spm.power = .run ∨ (∃ n, t.evs.activity = .erase n) ∧ t.spm = s.spm ∧ t.evs.state = s.evs.state)) ∧
  (∀ (s : State) (reason : ColdReason), s.evs = { Evs.cold [] with activity := .scan } → s.spm.power = .starting →
    s.spm.startKind = some .cold → s.spm.coldReason = some reason → s.spm.abortPending = false →
    ∃ t x, exec .scanReadComplete s = .next t ∧ t.spm.power = .run ∧ t.spm.abortedRestarts = 0 ∧ t.spm.coldReason = none ∧
      t.evs.state = .ready ∧ t.evs.pwq = [x] ∧ t.evs.lastIssued = some 1 ∧ t.evs.lastStored = none ∧ t.evs.oldest = none ∧
      t.evs.writePosition = 0 ∧ t.evs.protectionStart = none ∧ t.evs.activity = .program 0 (x.image (x.check 0xFFFFFFFF#32))
        (x.check 0xFFFFFFFF#32) ∧
      x.sequence = 1 ∧ x.kind = .pwr ∧ x.generation = 0#16 ∧
      x.payload = coldPayload reason s.spm.abortedRestarts 0 0 none none false s.svc.survey.state s.spm.backup ∧
      t.svc.active = Settings.default ∧ t.svc.generation = 0#16 ∧ t.svc.staged = [] ∧ t.svc.measuring = false ∧
      t.evd.counter = 0#32 ∧ t.tmb.enabled = s.tmb.enabled ∧
      Posts s t [⟨.pwn, ["COLD".toList, timeText (reading s), s.spm.backup.text, num 1, reason.text,
        num s.spm.abortedRestarts, num 1]⟩]) ∧
  (∀ (m : Memory) (slots : List Nat),
    let formed (n : Nat) : Prop := (∃ k : RecordKind, fieldAt (m.slot n) 4 1 = k.code) ∧ fieldAt (m.slot n) 6 1 ≤ 3 ∧
      fieldAt (m.slot n) 7 1 ≤ 104 ∧ fieldAt (m.slot n) 5 1 ≤ 1
    ((∀ n ∈ slots, ¬ formed n) → walkRing m slots = ⟨[], slots, 0, 0xFFFFFFFF#32, none⟩) ∧
    ((∃ n ∈ slots, formed n) → ∃ a ∈ slots, formed a ∧
      (∀ n ∈ slots, formed n → fieldAt (m.slot a) 0 4 ≤ fieldAt (m.slot n) 0 4) ∧
      walkRing m slots = (slots.filter (fun n => a < n) ++ slots.filter (fun n => n < a)).foldl (Walk.judge m)
        ⟨[a], [], 0, BitVec.ofNat 32 (fieldAt (m.slot a) 124 4), none⟩) ∧
    ∀ (w : Walk) (n : Nat),
      let check := BitVec.ofNat 32 (fieldAt (m.slot n) 124 4)
      let body := (m.slot n).take 124
      let void := w.judge m n = { w with voids := n :: w.voids, voidCheck := some check }
      (¬ formed n → void) ∧
      (formed n → check = crc32 w.check body →
        w.judge m n = { w with valid := n :: w.valid, check := check, voidCheck := none }) ∧
      (formed n → check ≠ crc32 w.check body → (∃ v, w.voidCheck = some v ∧ check = crc32 v body) →
        w.judge m n = { w with valid := n :: w.valid, breaks := w.breaks + 1, check := check, voidCheck := none }) ∧
      (formed n → check ≠ crc32 w.check body → (∀ v, w.voidCheck = some v → check ≠ crc32 v body) → void)) ∧
  (∀ (s : State) (newest : Nat) (older : List Nat), s.evs.activity = .scan → s.evs.state = .scanning → s.evs.pwq = [] →
    s.spm.power = .starting → s.evs.medium.wf = true →
    let m := s.evs.medium
    let slots := programmedSlots m
    let w := walkRing m slots
    let number (n : Nat) : Nat := fieldAt (m.slot n) 0 4
    let found (kinds : List RecordKind) : Option StoredRecord :=
      (w.valid.filterMap (storedRecord m)).find? (fun r => kinds.contains r.kind)
    w.valid = newest :: older →
    ∃ t, exec .scanReadComplete s = .next t ∧
      t.evs.lastStored = some (number newest) ∧ t.evs.lastCheck = w.check ∧ t.evs.oldest = w.valid.getLast? ∧
      t.evs.oldestSequence = w.valid.getLast?.map number ∧ t.evs.voidFound = w.voids.length ∧
      t.evs.breaksFound = w.breaks ∧ t.evd.counter = BitVec.ofNat 32 (fieldAt (m.slot newest) 8 4) ∧
      (∀ q, isMissing t.evs q = true ↔ ∃ (i : Nat) (later earlier : Nat), w.valid[i]? = some later ∧
        w.valid[i + 1]? = some earlier ∧ number earlier < q ∧ q < number later) ∧
      (let p := t.evs.writePosition
       p / 32 = newest / 32 ∧ newest < p ∧ (∀ k ∈ slots, k / 32 = newest / 32 → k < p) ∧ (p - 1 = newest ∨ p - 1 ∈ slots) ∨
       p = 32 * ((newest / 32 + 1) % 1024) ∧ (newest % 32 = 31 ∨ 32 * (newest / 32) + 31 ∈ slots)) ∧
      (∀ n, n < 1024 → ∀ (inside : List Nat), inside = slots.filter (fun k => k / 32 = n) →
        (sectorAt t.evs n).first = (inside.find? w.valid.contains).map number ∧
        (sectorAt t.evs n).valid = (inside.filter w.valid.contains).length ∧
        (sectorAt t.evs n).voids = (inside.filter w.voids.contains).map (fun k => k % 32) ∧
        (inside = [] → t.evs.writePosition / 32 ≠ n → (sectorAt t.evs n).condition = .erased)) ∧
      t.evs.protectionStart = (found [.svy, .vdt]).bind (fun r =>
        if r.kind = .vdt then some (fieldAt r.payload 1 4)
        else if fieldAt r.payload 0 1 = 1 then some r.sequence
        else none) ∧
      let sector := t.evs.writePosition / 32
      let next := (sector + 1) % 1024
      let due : Option Nat :=
        if t.evs.writePosition % 32 = 0 ∧ ∃ k ∈ slots, k / 32 = sector then some sector
        else if ∃ k ∈ slots, k / 32 = next then some next
        else none
      let held (n : Nat) : Prop := ∃ p f, t.evs.protectionStart = some p ∧ (sectorAt t.evs n).first = some f ∧
        0 < (sectorAt t.evs n).valid ∧ p ≤ f + (sectorAt t.evs n).valid - 1
      (∀ n, due = some n → ¬ held n → t.evs.activity = .erase n ∧ t.evs.state = s.evs.state ∧ t.spm = s.spm ∧ t.svc = s.svc) ∧
      ((∀ n, due = some n → held n) → t.spm.power = .run ∧
        t.evs.state = (if t.evs.writePosition % 32 = 0 ∧ due = some sector then .full else .ready) ∧
        Restored s t (found [.cfg]) (found [.mea]) (found [.svy, .vdt]) ∧
        (let entered : List Notice := if t.evs.state = .full then [⟨.stn, ["ENTER".toList, "FULL".toList,
           "PROTECTION".toList, num 0, num s.evs.coldDrops, timeText (reading s)]⟩] else []
         t.hlk.settings.mask = s.hlk.settings.mask ∨ s.hlk.transmitter ≠ .idle ∨ entered = [] → Posts s t (entered ++
           (match found [.svy, .vdt] with
             | some r => if r.kind = .svy ∧ fieldAt r.payload 0 1 = 1 then [⟨.svn, [num r.sequence, "COLD".toList,
                 "INCONCLUSIVE".toList, optText num (t.evs.pwq.head?.map Record.sequence)]⟩] else []
             | none => []) ++
           [⟨.pwn, ["COLD".toList, timeText (reading s), s.spm.backup.text, num t.evs.pwq.length,
             optText ColdReason.text s.spm.coldReason, num s.spm.abortedRestarts, optText num t.evs.lastIssued]⟩])) ∧
        ∃ x, t.evs.pwq.getLast? = some x ∧ x.kind = .pwr ∧ t.evs.lastIssued = some x.sequence ∧
          x.generation = t.svc.generation ∧
          x.payload = coldPayload (s.spm.coldReason.getD .powerUp) s.spm.abortedRestarts w.voids.length w.breaks
            t.evs.oldestSequence t.evs.lastStored t.svc.measuring t.svc.survey.state s.spm.backup))

/-- STQ (R163) and STE (R161) by the store state and the protection start; with an operation in flight STE waits. The
form of STQ's due fields is the model's (log entry 23). -/
def Obligations.StqAndSteServeTheStore : Prop :=
  ∀ (s : State) (fields : List Text), s.LinkFree → s.OneRequest → wellFormedFields fields = true →
    (∃ t, exec (.stq fields) s = .next t ∧
      if fields ≠ [] then AnsweredOnly s t .stq .syn []
      else AnsweredOnly s t .stq .ok [s.evs.state.text, s.evs.mode.text, s.evs.activity.text, num s.evs.pwq.length,
        optText num s.evs.oldestSequence, optText num s.evs.lastStored, optText num s.evs.lastIssued,
        num s.evs.writePosition, optText num s.evs.oldest, optText num s.evs.due,
        optText (fun d => bitText (eraseHeld s.evs d)) s.evs.due, optText num s.evs.protectionStart, num s.evs.gapCount,
        num s.evs.surveyDrops, num s.evs.coldDrops, num s.evs.failures, checkText s.evs.lastCheck,
        num (s.evs.sectors.map (fun x => x.voids.length)).sum, num s.evs.voidFound, num s.evs.breaksFound,
        if s.evs.state = .erasingAll then num s.evs.front else [],
        if s.evs.state = .erasingAll then num s.evs.erasedCount else []]) ∧
    (∃ t, exec (.ste fields) s = .next t ∧
      if fields ≠ [] then AnsweredOnly s t .ste .syn []
      else if s.evs.activity ≠ .idle then
        t = { s with
          evs := { s.evs with steWaiting := true }
          hlk := { s.hlk with reception := none, inProgress := some .ste } }
      else match s.evs.state with
        | .scanning => AnsweredOnly s t .ste .stt []
        | .fault => AnsweredOnly s t .ste .stt []
        | .erasingAll => AnsweredOnly s t .ste .stt []
        | .full => AnsweredOnly s t .ste .lck []
        | .ready =>
          if s.evs.protectionStart ≠ none then AnsweredOnly s t .ste .lck []
          else s.evs.writePosition < 32768 → (∀ x, s.evs.oldest = some x → x < 32768) →
            let front := s.evs.oldest.getD s.evs.writePosition / 32
            Answered t .ste .ok [] ∧ LinkKept s t ∧
            t = { s with
              evs := { s.evs with
                erasedRange := s.evs.oldestSequence.map (fun q => (q, s.evs.lastStored.getD 0))
                sectors := List.replicate 1024 ⟨.closed, none, 0, []⟩
                oldest := none
                oldestSequence := none
                missing := []
                writePosition := 32 * front
                front := front
                erasedCount := 0
                due := none
                state := .erasingAll
                activity := .erase front }
              hlk := t.hlk })

/-! ## Supply loss, ride-through and restart -/

/-- SUPPLY_FAIL (R170, R174, R176, R178, R180, R181, R195) in every power state. In STARTING a program or an erase in flight
is waited for (what its completion brings is stated by O43), and a second SUPPLY_FAIL then sets the indication alone (log
entry 39); a scan in flight is abandoned. The start is given up: a warm one has the retained context as the backup cell kept
it, TMB's and the link's part of it with it, with the new count of aborted restarts and its check word computed again, while
the clocks ran on; a cold one notes the entry and has no word that agrees. BACKUP_FAIL and BACKUP_GOOD (R169, R177): in
DORMANT a failing cell ends in OFF, else the indication alone changes. The cold values of the blocks in OFF, the tick 0 among
them, are the model's reading of what is lost there (log entry 32), and the bytes that the check word is computed over are a
free value (log entry 10). -/
def Obligations.SupplyFailAndBackupEventsActByThePowerState : Prop :=
  (∀ s : State, ∃ t, exec .supplyFail s = .next t ∧ t.evs.medium = s.evs.medium ∧ t.pins = s.pins ∧ t.pending = s.pending ∧
     match s.spm.power with
     | .run =>
       t.spm = { s.spm with
         power := .rideThrough
         supply := .failed
         rideTimer := some (s.tmb.tick + 65536#32)
         committed := false
         failTime := reading s } ∧
       t.evs = { s.evs with mode := .drain } ∧
       t.tmb = { s.tmb with lastReading := some (reading s), held := t.tmb.held } ∧
       t = { s with tmb := t.tmb, evs := t.evs, spm := t.spm, hlk := t.hlk } ∧
       Posts s t [⟨.pwn, ["FAIL".toList, timeText (reading s), s.spm.backup.text, num s.evs.pwq.length]⟩]
     | .rideThrough => t = { s with spm := { s.spm with supply := .failed } }
     | .dormant => t = s
     | .off => t = s
     | .starting =>
       (s.spm.abortPending = true → t = { s with spm := { s.spm with supply := .failed } }) ∧
       ((∃ slot image check, s.evs.activity = .program slot image check) ∨ (∃ sector, s.evs.activity = .erase sector) →
         s.spm.abortPending = false → t = { s with spm := { s.spm with
           supply := .failed
           qualification := none
           abortedRestarts := min 65535 (s.spm.abortedRestarts + 1)
           abortPending := true } }) ∧
       (s.evs.activity = .idle ∨ s.evs.activity = .scan → s.spm.abortPending = false → s.spm.backup = .failed →
         t.spm.power = .off ∧ t.tmb.tick = 0#32 ∧ t.spm.checkWord = none) ∧
       (s.evs.activity = .idle ∨ s.evs.activity = .scan → s.spm.abortPending = false → s.spm.backup = .good →
         t.spm.power = .dormant ∧ t.spm.supply = .failed ∧ t.spm.qualification = none ∧ t.spm.startKind = none ∧
         t.spm.abortedRestarts = min 65535 (s.spm.abortedRestarts + 1) ∧ t.hlk.reception = none ∧ t.hlk.buffer = [] ∧
         t.hlk.reply = none ∧ t.hlk.inProgress = none ∧ t.hlk.transmitter = .idle ∧
         t = { s with tmb := t.tmb, evs := { s.evs with activity := .idle }, spm := t.spm, hlk := t.hlk } ∧
         (s.spm.startKind = some .warm →
           t.spm = { s.spm with
             power := .dormant
             supply := .failed
             startKind := none
             qualification := none
             coldReason := none
             abortedRestarts := min 65535 (s.spm.abortedRestarts + 1)
             kept := none
             checkWord := some (crc32 0xFFFFFFFF#32 (Config.contextImage t.retained)) } ∧
           (s.spm.kept = none → t.tmb = s.tmb) ∧
           ∀ k, s.spm.kept = some k →
             t.tmb = { k.tmb with seconds := s.tmb.seconds, sub := s.tmb.sub, tick := s.tmb.tick } ∧
             (k.hlk.buffer = [] → k.hlk.reception = none → k.hlk.inProgress = none → k.hlk.reply = none →
               k.hlk.transmitter = .idle → k.hlk.adoption = none → t.hlk = k.hlk)) ∧
         (s.spm.startKind ≠ some .warm → t.spm.checkWord = none ∧ t.spm.kept = none ∧
           t.spm.dormancyEntry = some ⟨s.spm.wrapCount * 4294967296 + s.tmb.tick.toNat, reading s⟩ ∧
           t.tmb = { s.tmb with lastReading := some (reading s), held := s.tmb.held && s.tmb.formed.lt (reading s) }))) ∧
  (∀ s : State,
     (∃ t, exec .backupFail s = .next t ∧ t.evs.medium = s.evs.medium ∧ t.pending = s.pending ∧
       t.pins = { s.pins with backup := .failed } ∧
       (s.spm.power = .dormant → s.spm.supply = .failed → t.spm.power = .off ∧ t.tmb = Tmb.cold ∧ t.svc = Svc.cold ∧
         t.evs = Evs.cold s.evs.medium) ∧
       (s.spm.power ≠ .dormant → t = { s with
         pins := t.pins
         spm := { s.spm with backup := if s.spm.power = .off then s.spm.backup else .failed } })) ∧
     (exec .backupGood s = .next { s with
       pins := { s.pins with backup := .good }
       spm := { s.spm with backup := if s.spm.power = .off then s.spm.backup else .good } }))

/-- SUPPLY_GOOD (R171, R176, R177, R178, R180) in every power state; the bytes that the backup cell holds and the strap are the
command's operands (log entry 6), and the bytes of a context kept whole are a free value (log entry 10). R176: the clocks of a
DORMANT part leave the retained context and its check word as they are, and a warm start leaves on the backup cell what TMB and
the link kept (R178). -/
def Obligations.SupplyGoodActsByThePowerState : Prop :=
  (∀ s : State, s.spm.power = .dormant →
    (crystalTick s).retained = s.retained ∧ (crystalTick s).spm.checkWord = s.spm.checkWord) ∧
  ∀ (s : State) (found : Option (List Byte)) (strap : Bool), ∃ t, exec (.supplyGood found strap) s = .next t ∧
    t.evs.medium = s.evs.medium ∧ t.pins = { s.pins with defcomLow := strap } ∧ t.pending = s.pending ∧
    let cold (reason : ColdReason) : Prop :=
      t.spm.power = .starting ∧ t.spm.startKind = some .cold ∧ t.spm.coldReason = some reason ∧ t.spm.supply = .good ∧
      t.spm.qualification = some 3277#32 ∧ t.spm.wrapCount = 0 ∧ t.spm.lastBoundary = none ∧ t.spm.dormancyEntry = none ∧
      t.spm.checkWord = none ∧ t.ich = Ich.cold ∧ t.cyt = Cyt.cold ∧ t.hcu = Hcu.cold ∧ t.evd = Evd.cold ∧
      t.iva = Iva.cold ∧ t.tlb = Tlb.cold ∧ t.svc = Svc.cold ∧ t.tmb = Tmb.cold ∧ t.evs = Evs.cold s.evs.medium ∧
      t.hlk = Hlk.cold strap
    match s.spm.power with
    | .run => t.spm = { s.spm with supply := .good } ∧ t = { s with pins := t.pins, spm := t.spm }
    | .starting => t.spm = { s.spm with supply := .good } ∧ t = { s with pins := t.pins, spm := t.spm }
    | .rideThrough =>
      if s.spm.committed = true then t.spm = { s.spm with supply := .good } ∧ t = { s with pins := t.pins, spm := t.spm }
      else
        t.spm = { s.spm with power := .run, supply := .good, rideTimer := none } ∧
        t.evs = { s.evs with mode := if s.evs.pwq.length ≤ 8 then .normal else s.evs.mode } ∧
        t = { s with tmb := t.tmb, evs := t.evs, spm := t.spm, hlk := t.hlk, pins := t.pins } ∧
        (∀ timer, s.spm.rideTimer = some timer → s.hlk.settings.mask.pwn = true → s.hlk.transmitter ≠ .idle →
          s.hlk.notices.length < 16 → t.hlk.notices = s.hlk.notices ++ [⟨.pwn, ["RECOVERED".toList, timeText (reading s),
            s.spm.backup.text, num s.evs.pwq.length,
            num (tickSpan (timer - 65536#32) s.tmb.tick * 1000 / 32768)]⟩])
    | .dormant =>
      if s.spm.checkWord = some (crc32 0xFFFFFFFF#32 (found.getD (Config.contextImage s.retained))) then
        t.spm = { s.spm with
          power := .starting
          supply := .good
          startKind := some .warm
          kept := some ⟨s.tmb, s.hlk⟩
          qualification := some (s.tmb.tick + 3277#32) } ∧
        t = { s with spm := t.spm, hlk := t.hlk, pins := t.pins } ∧ t.hlk.settings = s.hlk.settings
      else cold .context ∧ t.spm.abortedRestarts = s.spm.abortedRestarts ∧ t.spm.backup = s.spm.backup
    | .off => cold .powerUp ∧ t.spm.abortedRestarts = 0 ∧ t.spm.backup = s.pins.backup

/-- RIDE_THROUGH_WINDOW_END (R172, R173, R175): the commitment waits for an operation in flight, else its DORMANT record is
offered and the drain begins; a FULL or FAULT store goes dormant at once, sealed (R174 to R176). QUALIFICATION_END (R178, R179,
R180): a warm start resumes in RUN, with its TQN and PWN notices (R136, R181), the record and the signals of a step that it
owes (R131, log entry 18), and the RESUMED record queued behind what waits, with the reading at the entry to RUN in it (R183); a
cold start begins the scan. The cold values of the blocks in OFF are the model's reading (log entry 32), and the bytes
that the check word is computed over are a free value (log entry 10). -/
def Obligations.WindowEndAndQualificationEndMovePower : Prop :=
  (∀ s : State, s.spm.power = .rideThrough → s.spm.rideTimer = some s.tmb.tick → s.spm.committed = false →
     let stuck := (sectorAt s.evs (s.evs.writePosition / 32)).condition = .closed ∧
       ∀ d, s.evs.due = some d → eraseHeld s.evs d = true
     ∃ t, exec .rideThroughWindowEnd s = .next t ∧ t.evs.medium = s.evs.medium ∧ t.pending = s.pending ∧
       (s.evs.activity ≠ .idle →
         t = { s with
           tmb := t.tmb
           spm := { s.spm with committed := true, commitWaiting := true, rideTimer := none, windowEndTime := reading s } } ∧
         t.tmb = { s.tmb with lastReading := some (reading s), held := t.tmb.held }) ∧
       (s.evs.activity = .idle → s.evs.state = .ready → s.evs.pwq.length < 32 →
         t.spm = { s.spm with
           committed := true
           commitWaiting := false
           rideTimer := none
           windowEndTime := reading s } ∧
         ∃ x, t.evs.pwq = s.evs.pwq ++ [x] ∧ x.kind = .pwr ∧ x.sequence = nextSequence s.evs ∧
           x.payload = dormantPayload s.spm.failTime (reading s) s.evs.pwq.length .ready s.svc.measuring s.svc.survey.state
             s.spm.backup s.evd.listing) ∧
       (s.evs.activity = .idle → s.evs.state = .fault ∨ s.evs.state = .full ∧ stuck → s.spm.backup = .good →
         s.spm.supply = .failed →
         t.spm.power = .dormant ∧ t.spm.committed = false ∧ t.spm.rideTimer = none ∧
         t.spm.checkWord = some (crc32 0xFFFFFFFF#32 (Config.contextImage t.retained)) ∧
         t.spm.dormancyEntry = some ⟨s.spm.wrapCount * 4294967296 + s.tmb.tick.toNat, reading s⟩ ∧ t.evs.state = s.evs.state ∧
         t.evs.waitingRead = none ∧ t.tmb.anchor = none ∧ t.ich.windowOpen = false ∧ t.hlk.buffer = [] ∧
         t.hlk.reception = none ∧ t.hlk.inProgress = none ∧ t.hlk.reply = none ∧ t.hlk.transmitter = .idle ∧
         t.svc = s.svc ∧ t.evd = s.evd ∧ t.tlb = s.tlb ∧ t.cyt = s.cyt ∧ t.hcu = s.hcu ∧
         t.iva = { s.iva with
           period := s.iva.period.map (fun d => { d with reasons := { d.reasons with dormancy := true } }) } ∧
         t.tmb = { s.tmb with
           anchor := none
           anchorExpired := false
           lastReading := some (reading s)
           held := s.tmb.held && s.tmb.formed.lt (reading s) }) ∧
       (s.evs.activity = .idle → s.evs.state = .fault ∨ s.evs.state = .full ∧ stuck → s.spm.backup = .failed →
         s.spm.supply = .failed →
         t.spm.power = .off ∧ t.svc = Svc.cold ∧ t.tmb = Tmb.cold)) ∧
  (∀ s : State, s.spm.power = .starting → s.spm.qualification = some s.tmb.tick →
     ∃ t, exec .qualificationEnd s = .next t ∧ t.evs.medium = s.evs.medium ∧ t.pending = s.pending ∧ t.pins = s.pins ∧
       (s.spm.startKind = some .cold → t = { s with
         spm := { s.spm with qualification := none }
         evs := { s.evs with activity := .scan } }) ∧
       (s.spm.startKind = some .warm →
         t.spm = { s.spm with
           power := .run
           supply := .good
           startKind := none
           qualification := none
           coldReason := none
           checkWord := none
           kept := none
           abortedRestarts := 0 } ∧
         t.evs.mode = (if s.evs.pwq.length < t.evs.pwq.length ∧ 24 ≤ t.evs.pwq.length then .drain
           else if s.evs.pwq.length ≤ 8 then .normal else s.evs.mode) ∧
         t.tmb.quality = (if s.tmb.quality = .locked then .holdover else s.tmb.quality) ∧
         t.tmb.seconds = s.tmb.seconds ∧ t.tmb.sub = s.tmb.sub ∧ t.tmb.tick = s.tmb.tick ∧ t.tmb.run = s.tmb.run ∧
         t.ich = { s.ich with windowOpen := true, lastOpen := some s.tmb.tick } ∧
         t.cyt = { s.cyt with
           channels := t.cyt.channels
           tracker := .freewheel
           progress := .fresh
           last := none
           beforeLast := none
           presence := t.cyt.presence } ∧
         (∀ p, if wired s.svc.active.wiring p = true ∨ wired s.cyt.wiringInUse p = true then
             t.cyt.channels.get p = some ⟨.neg, .neither, .neither, .neither, match s.cyt.fnInUse with
               | .hz50 => 95
               | .hz60 => 79⟩ ∧
             t.cyt.presence.get p = some (match s.cyt.presence.get p with
               | some e => { e with run := 0 }
               | none => ⟨false, 0, false, false⟩) ∧
             t.hcu.channels.get p = some ⟨Half.empty, Half.empty⟩
           else t.cyt.channels.get p = none ∧ t.cyt.presence.get p = none ∧ t.hcu.channels.get p = none) ∧
         t.hcu.latest = s.hcu.latest ∧
         t.tlb = s.tlb ∧ t.svc = s.svc ∧ t.tmb.owed = none ∧
         (s.svc.measuring = false ∨ s.tmb.owed = none →
           t.evd = { s.evd with resumed := true } ∧ t.iva = { s.iva with resumed := true }) ∧
         (s.svc.measuring = true → s.tmb.owed ≠ none → t.evd.counter = s.evd.counter ∧ t.evd.resumed = true ∧
           t.iva = { s.iva with
             interval := s.iva.interval.map (fun j => { j with marks := { j.marks with timeStep := true } })
             period := s.iva.period.map (fun d => { d with reasons := { d.reasons with timeStep := true } })
             pendingStep := true
             resumed := true } ∧
           ∀ kind,
             t.evd.context kind = (s.evd.context kind).map (fun c => { c with marks := { c.marks with timeStep := true } })) ∧
         let span := min 4294967295 (((s.spm.dormancyEntry.map (fun d =>
           s.spm.wrapCount * 4294967296 + s.tmb.tick.toNat - d.extended)).getD 0) * 1000 / 32768)
         ∃ e : Evs,
           (s.tmb.owed = none → e.pwq = s.evs.pwq ∧ e.lastIssued = s.evs.lastIssued ∧ e.gapCount = s.evs.gapCount) ∧
           (∀ o, s.tmb.owed = some o →
             (recordTaken s = true → ∃ x, e.pwq = s.evs.pwq ++ [x] ∧ e.lastIssued = some x.sequence ∧ e.gapCount = 0 ∧
               x.sequence = nextSequence s.evs ∧ x.kind = .tim ∧ x.time = o.time ∧ x.quality = o.quality ∧
               x.payload = o.payload ∧ x.generation = s.svc.generation ∧ x.lastEvent = s.evd.counter ∧
               x.gap = if s.evs.gapCount = 0 then none else some s.evs.gapCount) ∧
             (recordTaken s = false → e.pwq = s.evs.pwq ∧ e.lastIssued = s.evs.lastIssued ∧
               e.gapCount = min 65535 (s.evs.gapCount + 1))) ∧
           e.medium = s.evs.medium ∧ e.state = s.evs.state ∧
           let ready : State := { s with tmb := { s.tmb with quality := t.tmb.quality }, evs := e }
           Queues ready t .pwr (resumedPayload ((s.spm.dormancyEntry.map DormancyEntry.time).getD ⟨0, 0⟩) (reading s) span
             s.spm.abortedRestarts ([s.evd.dip, s.evd.swell, s.evd.interruption].filterMap id).length s.svc.measuring
             s.svc.survey.state s.spm.backup) s.svc.generation ∧
           Posts s t ((if s.tmb.quality = .locked then
               [⟨.tqn, ["LOCKED".toList, "HOLDOVER".toList, "RESUME".toList, timeText (reading s)]⟩] else []) ++
             [⟨.pwn, ["RESUMED".toList, timeText (reading s), s.spm.backup.text, num t.evs.pwq.length, num span,
               num s.spm.abortedRestarts, optText num (offeredSequence ready)]⟩])))

/-! ## Host link -/

/-- CHARACTER_RECEIVED and FRAME_TIMEOUT (R188, R189), and the checks of R190 on a frame that is taken as it completes: an
over-long one is answered LEN, one without its bar and two hexadecimal digits or with an unprintable character SYN, one with
another sum CHK, one whose command or fields have not the form SYN, one with an unknown command UNK, each with the three
command characters or ???, and to 00 each is discarded, as is a broadcast of a command other than TIS. That a content which is
neither a command nor a command, a space and fields is SYN, with a bar inside the content or a field, is DEDUCED (log entry
21). -/
def Obligations.CharactersFormFrames : Prop :=
  ∀ s : State, linkOn s = true →
    (∀ r x a b rest, s.hlk.reception = some r → r.framingError = false → r.chars = x :: a :: b :: rest →
      isDigit a = true → isDigit b = true → digitsValue [a, b] = s.hlk.settings.station ∨ digitsValue [a, b] = 0 →
      s.hlk.inProgress = none → s.hlk.reply = none → s.hlk.buffer = [] →
      ∃ t, exec (.characterReceived 0x0A#8 false) s = .next t ∧
        let characters := match rest with
          | c :: d :: e :: _ => if [c, d, e].all isUpper then [c, d, e] else "???".toList
          | _ => "???".toList
        let refused (status : Status) (command : Text) : Prop :=
          if digitsValue [a, b] = 0 then t = { s with hlk := { s.hlk with reception := none } }
          else t = { s with hlk := t.hlk } ∧ t.hlk.inProgress = none ∧ LinkKept s t ∧
            ∃ eligible, t.hlk.reply = some ⟨command, status, [], s.tmb.tick, (s.hlk.settings.delay * 32768 + 999) / 1000,
              eligible, none⟩
        let ends (content : Text) (d e : Char) : Prop := rest = content ++ ['|', d, e] ∧
          d ∈ "0123456789ABCDEF".toList ∧ e ∈ "0123456789ABCDEF".toList ∧ ∀ c ∈ rest, 0x20 ≤ c.toNat ∧ c.toNat ≤ 0x7E
        let agrees (content : Text) (d e : Char) : Prop :=
          [d, e] = hexByte (((a :: b :: content ++ ['|']).map Char.toNat).sum % 256)
        let formed (content : Text) (command : Text) (fields : Text) : Prop := content = command ++ fields ∧
          command.length = 3 ∧ command.all isUpper = true ∧ (fields = [] ∨ ∃ c more, fields = ' ' :: c :: more)
        (r.overLong = true → refused .len "???".toList) ∧
        (r.overLong = false →
          ((∀ content d e, ¬ ends content d e) → refused .syn characters) ∧
          ∀ content d e, ends content d e →
            (¬ agrees content d e → refused .chk characters) ∧
            (agrees content d e →
              ((∀ command fields, ¬ formed content command fields) → refused .syn characters) ∧
              ∀ command fields, formed content command fields →
                ((∀ c : Command, c.text ≠ command) → refused .unk command) ∧
                (∀ c : Command, c.text = command → c ≠ .tis → digitsValue [a, b] = 0 →
                  t = { s with hlk := { s.hlk with reception := none } })))) ∧
    (∀ code, exec (.characterReceived code true) s = .next { s with hlk := { s.hlk with
      framing := true
      reception := s.hlk.reception.map (fun r => { r with framingError := true }) } }) ∧
    (exec (.characterReceived 0x3E#8 false) s = .next { s with hlk := { s.hlk with
      reception := some ⟨s.tmb.tick, ['>'], 1, false, false⟩ } }) ∧
    (∀ code, code ≠ 0x3E#8 → s.hlk.reception = none → exec (.characterReceived code false) s = .next s) ∧
    (∀ code r, code ≠ 0x3E#8 → code ≠ 0x0A#8 → s.hlk.reception = some r →
      exec (.characterReceived code false) s = .next { s with hlk := { s.hlk with
        reception := some (if r.overLong = true ∨ 119 ≤ r.received then
            { r with received := r.received + 1, overLong := true, chars := r.chars.take 3 }
          else { r with received := r.received + 1, chars := r.chars ++ [Char.ofNat code.toNat] }) } }) ∧
    (∀ r, s.hlk.reception = some r →
      r.framingError = true ∨ (∀ x a b rest, r.chars = x :: a :: b :: rest → isDigit a = false ∨ isDigit b = false ∨
        (digitsValue [a, b] ≠ s.hlk.settings.station ∧ digitsValue [a, b] ≠ 0)) →
      exec (.characterReceived 0x0A#8 false) s = .next { s with hlk := { s.hlk with reception := none } }) ∧
    (∀ r x a b rest, s.hlk.reception = some r → r.framingError = false → r.chars = x :: a :: b :: rest →
      isDigit a = true → isDigit b = true → digitsValue [a, b] = s.hlk.settings.station ∨ digitsValue [a, b] = 0 →
      s.hlk.inProgress ≠ none ∨ s.hlk.reply ≠ none →
      exec (.characterReceived 0x0A#8 false) s = .next { s with hlk :=
        if s.hlk.buffer.length < 2 then
          { s.hlk with
            reception := none
            buffer := s.hlk.buffer ++ [⟨digitsValue [a, b], if r.overLong then [] else rest, r.overLong⟩] }
        else { s.hlk with reception := none, overrun := true } }) ∧
    (∀ r, s.hlk.reception = some r → 32768 ≤ tickSpan r.startTick s.tmb.tick →
      exec .frameTimeout s = .next { s with hlk := { s.hlk with reception := none } })

/-- R191: the reply slot as the owning block fills it, with the delay in ticks. R187, R193, R202: the characters of a reply and
of a notice, the text of the link marks, and the division of a long reply, none of whose fields is too long for a frame, into
frames of at most 320 characters. FRAME_SENT and REPLY_ELIGIBLE (R191 to R193, R197, R202), and FRAME_SENT with link settings
that wait for an IDLE transmitter (R186). R194: what a posted notice leaves, by the mask and the queue's occupancy. R192: the
choice of an IDLE transmitter. R190: when a reply has been sent, the frame that waits in the buffer is taken, as its row would
be, before that choice (log entry 33). -/
def Obligations.TransmitterSendsRepliesBeforeNotices : Prop :=
  (∀ (station : Nat) (command : Text) (status : Status) (marks : Text) (fields : List Text), station ≤ 99 →
    let hex := "0123456789ABCDEF".toList
    let digits := [hex[station / 10]!, hex[station % 10]!]
    let line (start : Char) (content : Text) : Text :=
      let sum := ((content ++ ['|']).map Char.toNat).sum % 256
      [start] ++ content ++ ['|', hex[sum / 16]!, hex[sum % 16]!, '\n']
    let form (part : List Text) (mark : Text) : Text :=
      line '<' (digits ++ command ++ [' '] ++ status.text ++ part.flatMap (fun f => ',' :: f) ++ [','] ++ mark)
    let run := replyRun station command status marks (fields.length + 1) fields
    (∀ n : Notice, noticeFrame station n = line '!' (digits ++ n.kind.text ++ n.fields.flatMap (fun f => ',' :: f))) ∧
    ((form fields marks).length ≤ 320 → run = [form fields marks]) ∧
    ((form [] marks).length ≤ 320 → (∀ f ∈ fields, (form [f] ['+']).length ≤ 320) →
      ∃ (groups : List (List Text)) (last : List Text),
        run = groups.map (fun g => form g ['+']) ++ [form last marks] ∧ groups.flatten ++ last = fields ∧
        (∀ frame ∈ run, frame.length ≤ 320) ∧
        ∀ before g after, groups ++ [last] = before ++ g :: after → after ≠ [] →
          g ≠ [] ∧ 320 < (form (g ++ after.flatten) marks).length ∧
          ∀ f rest, after.flatten = f :: rest → 320 < (form (g ++ [f]) ['+']).length)) ∧
  (∀ overrun framing overflow : Bool,
    let letters := (if overrun then ['O'] else []) ++ (if framing then ['F'] else []) ++ (if overflow then ['N'] else [])
    linkMarks overrun framing overflow = if letters = [] then ['-'] else letters) ∧
  (∀ (s : State) (c : Command) (status : Status) (fields : List Text), s.hlk.inProgress = some c →
    s.hlk.transmitter ≠ .idle →
    answer status fields s = { s with hlk := { s.hlk with
      inProgress := none
      reply := some ⟨c.text, status, fields, s.tmb.tick, (s.hlk.settings.delay * 32768 + 999) / 1000, false, none⟩ } }) ∧
  (∀ (s : State) (kind : NoticeKind) (fields : List Text),
    let admitted : Bool := match kind with
      | .evo => s.hlk.settings.mask.evo
      | .evc => s.hlk.settings.mask.evc
      | .ivc => s.hlk.settings.mask.ivc
      | .svn => s.hlk.settings.mask.svn
      | .phn => s.hlk.settings.mask.phn
      | .tqn => s.hlk.settings.mask.tqn
      | .stn => s.hlk.settings.mask.stn
      | .tkn => s.hlk.settings.mask.tkn
      | .pwn => s.hlk.settings.mask.pwn
    (admitted = false → postNotice kind fields s = s) ∧
    (admitted = true → s.hlk.notices.length < 16 →
      postNotice kind fields s = transmit { s with hlk := { s.hlk with notices := s.hlk.notices ++ [⟨kind, fields⟩] } }) ∧
    (admitted = true → 16 ≤ s.hlk.notices.length →
      postNotice kind fields s = { s with hlk := { s.hlk with overflow := true } })) ∧
  (∀ s : State,
    (linkOn s = false ∨ s.hlk.transmitter ≠ .idle → transmit s = s) ∧
    (linkOn s = true → s.hlk.transmitter = .idle →
      let waits : Prop := ∀ r, s.hlk.reply = some r → r.eligible = false ∧ tickSpan r.formedAt s.tmb.tick < r.delay
      (∀ r, s.hlk.reply = some r → ¬ waits → ∃ f rest, replyRun s.hlk.settings.station r.command r.status
          (linkMarks s.hlk.overrun s.hlk.framing s.hlk.overflow) (r.fields.length + 1) r.fields = f :: rest ∧
        transmit s = { s with hlk := { s.hlk with
          transmitter := .reply f rest
          reply := some { r with eligible := true }
          overrun := false
          framing := false
          overflow := false } }) ∧
      (waits → transmit s = match s.hlk.notices with
        | [] => s
        | n :: rest => { s with hlk := { s.hlk with
            transmitter := .notice n (noticeFrame s.hlk.settings.station n)
            notices := rest } }))) ∧
  (∀ (s : State) (f : Text) (r : Reply) (i : Instr) (c : Command) (fields : List Text) (later : List Frame),
    linkOn s = true → s.OneRequest → s.hlk.adoption = none → s.hlk.reception = none → s.hlk.inProgress = none →
    s.hlk.transmitter = .reply f [] → s.hlk.reply = some r → r.link = none →
    requestForm i = some (c, fields) → wellFormedFields fields = true → 1 ≤ s.hlk.settings.station →
    s.hlk.settings.station ≤ 99 → s.hlk.buffer = requestFrame s.hlk.settings.station c fields :: later →
    ∃ u, exec i { s with hlk := { s.hlk with reply := none, buffer := [] } } = .next u ∧
      exec .frameSent s = .next (transmit { u with hlk := { u.hlk with transmitter := .idle, buffer := later } })) ∧
  (∀ (s : State) (l : LinkSettings), linkOn s = true → s.hlk.adoption = some l →
    let adopted (reply : Option Reply) : State := transmit { s with hlk := { s.hlk with
      settings := l
      adoption := none
      buffer := []
      reception := none
      reply := reply
      transmitter := .idle } }
    (∀ f next rest, s.hlk.transmitter = .reply f (next :: rest) →
      exec .frameSent s = .next { s with hlk := { s.hlk with transmitter := .reply next rest } }) ∧
    (∀ f r, s.hlk.transmitter = .reply f [] → s.hlk.reply = some r → r.link = none →
      exec .frameSent s = .next (adopted none)) ∧
    ∀ n f, s.hlk.transmitter = .notice n f → exec .frameSent s = .next (adopted s.hlk.reply)) ∧
  ∀ s : State, linkOn s = true → s.OneRequest → s.hlk.adoption = none →
    let started (r : Reply) : Hlk :=
      let marks := linkMarks s.hlk.overrun s.hlk.framing s.hlk.overflow
      let frames := replyRun s.hlk.settings.station r.command r.status marks (r.fields.length + 1) r.fields
      { s.hlk with
        transmitter := .reply (frames.headD []) frames.tail
        reply := some { r with eligible := true }
        overrun := false
        framing := false
        overflow := false }
    (∀ f next rest, s.hlk.transmitter = .reply f (next :: rest) →
      exec .frameSent s = .next { s with hlk := { s.hlk with transmitter := .reply next rest } }) ∧
    (∀ f r, s.hlk.transmitter = .reply f [] → s.hlk.reply = some r → r.link = none → s.hlk.buffer = [] →
      exec .frameSent s = .next { s with hlk := match s.hlk.notices with
        | [] => { s.hlk with reply := none, transmitter := .idle }
        | n :: rest => { s.hlk with
            reply := none
            transmitter := .notice n (noticeFrame s.hlk.settings.station n)
            notices := rest } }) ∧
    (∀ f r l, s.hlk.transmitter = .reply f [] → s.hlk.reply = some r → r.link = some l →
      ∃ t, exec .frameSent s = .next t ∧ t = { s with tmb := t.tmb, evs := t.evs, hlk := t.hlk } ∧ t.hlk.settings = l ∧
        t.hlk.configMark = false ∧ t.hlk.buffer = [] ∧ t.hlk.reception = none ∧ t.hlk.reply = none ∧
        t.hlk.inProgress = none ∧ t.hlk.overrun = s.hlk.overrun ∧ t.hlk.framing = s.hlk.framing ∧
        t.hlk.overflow = s.hlk.overflow ∧ (t.hlk.notices = s.hlk.notices ∨ t.hlk.notices = s.hlk.notices.tail) ∧
        Queues s t .cfg (settingsPayload .link s.svc.active l s.tmb.enabled s.tmb.polarity) s.svc.generation) ∧
    (∀ n f r, s.hlk.transmitter = .notice n f → s.hlk.reply = some r → r.eligible = true →
      exec .frameSent s = .next { s with hlk := started r }) ∧
    (∀ n f, s.hlk.transmitter = .notice n f → s.hlk.reply = none → s.hlk.buffer = [] →
      exec .frameSent s = .next { s with hlk := match s.hlk.notices with
        | [] => { s.hlk with transmitter := .idle }
        | m :: rest => { s.hlk with
            transmitter := .notice m (noticeFrame s.hlk.settings.station m)
            notices := rest } }) ∧
    (∀ r, s.hlk.reply = some r → r.eligible = false → r.delay ≤ tickSpan r.formedAt s.tmb.tick →
      exec .replyEligible s = .next { s with hlk :=
        if s.hlk.transmitter = .idle then started { r with eligible := true }
        else { s.hlk with reply := some { r with eligible := true } } })

/-- IDN (R196), LNK (R197) and STA (R198), with the fields that LNK reads spelled out; that STA gives the start kind a field of
its own is the model's choice (log entry 23), and so is that a number with a leading '-' is no decimal number (log entry 40). -/
def Obligations.IdnLnkAndStaAnswerForTheLink : Prop :=
  (∀ (s : State) (fields : List Text), s.LinkFree → wellFormedFields fields = true →
    ∃ t, exec (.idn fields) s = .next t ∧
      if fields ≠ [] then AnsweredOnly s t .idn .syn []
      else AnsweredOnly s t .idn .ok ["TASFORA VQ-340".toList, num (Config.hardwareRevision.val + 1),
        fixedDigits 10 Config.serialNumber.val, num 32768, num 12, num 6]) ∧
  (∀ s : State, s.LinkFree → ∃ t, exec (.lnk []) s = .next t ∧
    AnsweredOnly s t .lnk .ok [num s.hlk.settings.rate, num s.hlk.settings.station, num s.hlk.settings.delay,
      s.hlk.settings.mask.text, bitText s.hlk.configMark]) ∧
  (∀ (s : State) (l : LinkSettings), s.LinkFree → l.inRange = true →
    wellFormedFields [num l.rate, num l.station, num l.delay, l.mask.text] = true →
    ∃ t eligible, exec (.lnk [num l.rate, num l.station, num l.delay, l.mask.text]) s = .next t ∧
      t.hlk.reply = some ⟨"LNK".toList, .ok, [num l.rate, num l.station, num l.delay, l.mask.text], s.tmb.tick,
        (s.hlk.settings.delay * 32768 + 999) / 1000, eligible, some l⟩ ∧
      t.hlk.inProgress = none ∧ LinkKept s t ∧ t = { s with hlk := t.hlk }) ∧
  (∀ (s : State) (fields : List Text), s.LinkFree → wellFormedFields fields = true → fields ≠ [] →
    let decimal (f : Text) (n : Nat) : Prop := f ≠ [] ∧ (∀ c ∈ f, c ∈ "0123456789".toList) ∧
      f.foldl (fun v c => 10 * v + (c.toNat - 48)) 0 = n
    (∀ l, readLink fields = some l ↔ ∃ rate station delay mask, fields = [rate, station, delay, mask] ∧
      decimal rate l.rate ∧ decimal station l.station ∧ decimal delay l.delay ∧
      (mask = "NONE".toList ∧ (∀ k, l.mask.has k = false) ∨ mask = "ALL".toList ∧ (∀ k, l.mask.has k = true) ∨
        ∃ kinds : List NoticeKind, kinds ≠ [] ∧ kinds.Nodup ∧ mask = List.intercalate ['/'] (kinds.map NoticeKind.text) ∧
          ∀ k, l.mask.has k = true ↔ k ∈ kinds)) ∧
    (allNoticeKinds.map NoticeKind.text = ["EVO".toList, "EVC".toList, "IVC".toList, "SVN".toList, "PHN".toList,
      "TQN".toList, "STN".toList, "TKN".toList, "PWN".toList]) ∧
    (readLink fields = none → ∃ t, exec (.lnk fields) s = .next t ∧ AnsweredOnly s t .lnk .syn []) ∧
    (∀ l, readLink fields = some l → l.inRange = false →
      ∃ t, exec (.lnk fields) s = .next t ∧ AnsweredOnly s t .lnk .rng [])) ∧
  (∀ (s : State) (fields : List Text), linkOn s = true → s.hlk.inProgress = none → s.hlk.reply = none → s.hlk.buffer = [] →
    wellFormedFields fields = true → ∃ t, exec (.sta fields) s = .next t ∧
      if fields ≠ [] then AnsweredOnly s t .sta .syn []
      else AnsweredOnly s t .sta .ok [s.spm.power.text, optText StartKind.text s.spm.startKind,
        measurementText s.svc.measuring, s.svc.survey.state.text, s.evs.state.text, s.evs.mode.text,
        num s.evs.pwq.length, s.tmb.quality.text, s.cyt.tracker.text, phaseText s.cyt.reference,
        phaseSetText (allPhases.filter (fun p => (s.cyt.presence.get p).any Presence.present)),
        bitText (s.svc.staged != []), bitText s.hlk.configMark])

/-- R187, R190, R201: a request frame with fields that a frame can carry is read as its command and its fields. That a field
may hold a bar is the model's choice (log entry 21). -/
def Obligations.RequestFrameReadsBack : Prop :=
  ∀ (station : Nat) (c : Command) (fields : List Text), wellFormedFields fields = true →
    readFrame (requestFrame station c fields) = .request c fields

/-- R187 to R190: a request row does what its frame does, received character by character, where the request can be taken as
it arrives; so does the broadcast TIS. In STARTING every command but STA is answered BSY and a broadcast is discarded; with the
link off nothing is received. That a row stands for a whole frame is the model's reading of the table (log entry 3). -/
def Obligations.RequestRowDoesWhatItsCharactersDo : Prop :=
  (∀ (s : State) (fields : List Text), linkOn s = true → s.hlk.inProgress = none → s.hlk.reply = none → s.hlk.buffer = [] →
     wellFormedFields fields = true → 1 ≤ s.hlk.settings.station → s.hlk.settings.station ≤ 99 →
     (∀ i c, requestForm i = some (c, fields) → receiveAll (lineFrame s.hlk.settings.station c fields) s = exec i s) ∧
     receiveAll (lineFrame 0 .tis fields) s = exec (.tis true fields) s) ∧
  (∀ (i : Instr) (s : State) (c : Command) (fields : List Text), requestForm i = some (c, fields) →
     wellFormedFields fields = true →
     (s.spm.power = .starting → c ≠ .sta → s.hlk.inProgress = none → s.hlk.reply = none → s.hlk.buffer = [] →
       (∃ t, exec i s = .next t ∧ AnsweredOnly s t c .bsy []) ∧
       exec (.tis true fields) s = .next { s with hlk := { s.hlk with reception := none } }) ∧
     (s.spm.power = .dormant ∨ s.spm.power = .off → exec i s = .next s ∧ exec (.tis true fields) s = .next s))

/-! ## The machine -/

/-- A step carries out the command at the front of the queue with the queue's rest. On an empty queue it takes the first timed
event that is due, and with none due one crystal tick passes. The events are due as R178 (the qualification), R172 (the
ride-through window), R188 (the frame), R191 (the reply), R132 (the holdover), R126 (the anchor) and R7 (the calibration
window) say. The model's choices: the queue, the order of the events, that an event stays due after its tick and a timer of
R172 or R178 for half the range of the tick counter (log entry 2), and that the anchor's expiry, which R126 gives at 36,045
ticks, is due from 36,046 ticks on (log entry 19). -/
def Obligations.StepRunsTheFrontCommand : Prop :=
  (∀ (s : State) (i : Instr) (rest : List Instr), s.pending = i :: rest → step s = exec i { s with pending := rest }) ∧
  (∀ (s : State) (i : Instr), step (s.withCommand i) = exec i s) ∧
  ∀ s : State, s.pending = [] →
    let qualified := s.spm.power = .starting ∧ ∃ x, s.spm.qualification = some x ∧ (s.tmb.tick - x).toNat < 2147483648
    let windowEnded := s.spm.power = .rideThrough ∧ ∃ x, s.spm.rideTimer = some x ∧ (s.tmb.tick - x).toNat < 2147483648
    let frameLate := linkOn s = true ∧ ∃ r, s.hlk.reception = some r ∧ 32768 ≤ tickSpan r.startTick s.tmb.tick
    let replyDue := linkOn s = true ∧ ∃ r, s.hlk.reply = some r ∧ r.eligible = false ∧
      r.delay ≤ tickSpan r.formedAt s.tmb.tick
    let heldOver := s.tmb.quality = .locked ∧ sampling s = true ∧
      ∃ w, s.tmb.watchFrom = some w ∧ 98304 ≤ tickSpan w s.tmb.tick
    let anchorOld := s.tmb.anchorExpired = false ∧ ∃ a, s.tmb.anchor = some a ∧ 36045 < tickSpan a s.tmb.tick
    let calibrates := sampling s = true ∧ ∃ o, s.ich.lastOpen = some o ∧ 1966080 ≤ tickSpan o s.tmb.tick
    (qualified → step s = exec .qualificationEnd s) ∧
    (¬ qualified → windowEnded → step s = exec .rideThroughWindowEnd s) ∧
    (¬ qualified → ¬ windowEnded → frameLate → step s = exec .frameTimeout s) ∧
    (¬ qualified → ¬ windowEnded → ¬ frameLate → replyDue → step s = exec .replyEligible s) ∧
    (¬ qualified → ¬ windowEnded → ¬ frameLate → ¬ replyDue → heldOver → step s = exec .holdoverTimeout s) ∧
    (¬ qualified → ¬ windowEnded → ¬ frameLate → ¬ replyDue → ¬ heldOver → anchorOld →
      step s = exec .pulseAnchorExpiry s) ∧
    (¬ qualified → ¬ windowEnded → ¬ frameLate → ¬ replyDue → ¬ heldOver → ¬ anchorOld → calibrates →
      step s = exec .calibrationWindowOpen s) ∧
    (¬ qualified → ¬ windowEnded → ¬ frameLate → ¬ replyDue → ¬ heldOver → ¬ anchorOld → ¬ calibrates →
      step s = .next (crystalTick s))

/-- R5, R121, R139, R140, R145, R189, R194, R195: every step keeps the bounds, those of the link on the backup cell among them,
and takes one command from the queue at most. -/
def Obligations.EveryStepKeepsTheBounds : Prop :=
  ∀ s t : State, s.Sound → step s = .next t → t.Sound ∧ t.pending = s.pending.tail

/-- R160, R161, R168, R180, R190, R191, R195: every step keeps to one host request at a time. -/
def Obligations.EveryStepKeepsOneRequest : Prop :=
  ∀ s t : State, s.OneRequest → step s = .next t → t.OneRequest

/-- R180: a supply-good in OFF over an erased medium gives the reset state, in which every invariant holds. That reset is this
entry is the model's choice (log entry 1). -/
def Obligations.ResetIsTheColdStartAndMeetsTheInvariants : Prop :=
  (∀ s : State, s.spm.power = .off → s.evs.medium = [] → s.pins.backup = .good → s.pending = [] →
    exec (.supplyGood none false) s = .next State.reset) ∧
  State.reset.Sound ∧ State.reset.Sized ∧ State.reset.OneRequest ∧ State.reset.evd.Regular ∧
  State.reset.tlb.survey.Ordered ∧ State.reset.svc.InRange ∧ State.reset.svc.active.tint ≤ State.reset.svc.active.tdip

end ObligationStatements
end

