-- ==== Sys2Proof/Laws/Memory.lean ====
section
/-! SUPPORT. The medium: what each operation on its bytes does, and that the canonical form is kept; and the chain check over
bytes of 0. -/

namespace Sys2Proof.Machine

/-! ## The canonical form -/

theorem Memory.wfFrom_mono {low low' : Nat} {m : Memory} (h : Memory.wfFrom low m = true) (le : low' ≤ low) :
    Memory.wfFrom low' m = true := by
  cases m with
  | nil => rfl
  | cons c rest =>
    obtain ⟨a, b⟩ := c
    simp only [Memory.wfFrom, Bool.and_eq_true, decide_eq_true_eq] at h ⊢
    exact ⟨⟨⟨by omega, h.1.1.2⟩, h.1.2⟩, h.2⟩

/-- Every address of a canonical list lies at or above its bound and within the medium. -/
theorem Memory.wfFrom_mem {low : Nat} {m : Memory} (h : Memory.wfFrom low m = true) {c : Host.Cell} (hc : c ∈ m) :
    low ≤ c.1 ∧ c.1 < Memory.size ∧ c.2 ≠ Memory.erased := by
  induction m generalizing low with
  | nil => cases hc
  | cons d rest ih =>
    obtain ⟨a, b⟩ := d
    simp only [Memory.wfFrom, Bool.and_eq_true, decide_eq_true_eq] at h
    obtain ⟨⟨⟨h1, h2⟩, h3⟩, h4⟩ := h
    rcases List.mem_cons.mp hc with rfl | hc
    · exact ⟨h1, h2, h3⟩
    · have := ih h4 hc
      exact ⟨by omega, this.2⟩

theorem Memory.insert_wfFrom {low a : Nat} {m : Memory} (b : Byte) (h : Memory.wfFrom low m = true) (la : low ≤ a)
    (ha : a < Memory.size) : Memory.wfFrom low (m.insert a b) = true := by
  induction m generalizing low with
  | nil =>
    unfold Memory.insert
    split
    · rfl
    · simp_all [Memory.wfFrom]
  | cons d rest ih =>
    obtain ⟨x, c⟩ := d
    have whole := h
    simp only [Memory.wfFrom, Bool.and_eq_true, decide_eq_true_eq] at h
    obtain ⟨⟨⟨h1, h2⟩, h3⟩, h4⟩ := h
    unfold Memory.insert
    split
    · split
      · exact whole
      · rename_i lt ne
        simp only [Memory.wfFrom, Bool.and_eq_true, decide_eq_true_eq]
        exact ⟨⟨⟨la, ha⟩, ne⟩, ⟨⟨⟨by omega, h2⟩, h3⟩, h4⟩⟩
    · split
      · split
        · exact Memory.wfFrom_mono h4 (by omega)
        · rename_i _ eq ne
          simp only [Memory.wfFrom, Bool.and_eq_true, decide_eq_true_eq]
          exact ⟨⟨⟨la, ha⟩, ne⟩, by subst eq; exact h4⟩
      · simp only [Memory.wfFrom, Bool.and_eq_true, decide_eq_true_eq]
        exact ⟨⟨⟨h1, h2⟩, h3⟩, ih h4 (by omega)⟩

/-- A write of one byte keeps the canonical form. -/
theorem Memory.write_wf {m : Memory} (a : Nat) (b : Byte) (h : m.wf = true) : (m.write a b).wf = true := by
  unfold Memory.write
  split
  · exact Memory.insert_wfFrom b h (Nat.zero_le _) ‹_›
  · exact h

/-- A write of several bytes keeps the canonical form. -/
theorem Memory.writeBytes_wf {m : Memory} (a : Nat) (bytes : List Byte) (h : m.wf = true) :
    (m.writeBytes a bytes).wf = true := by
  induction bytes generalizing m a with
  | nil => exact h
  | cons b rest ih => exact ih (a + 1) (Memory.write_wf a b h)

/-- A program of a slot keeps the canonical form. -/
theorem Memory.writeSlot_wf {m : Memory} (n : Nat) (bytes : List Byte) (h : m.wf = true) :
    (m.writeSlot n bytes).wf = true := Memory.writeBytes_wf _ _ h

theorem Memory.filter_wfFrom {low : Nat} {m : Memory} (p : Host.Cell → Bool) (h : Memory.wfFrom low m = true) :
    Memory.wfFrom low (m.filter p) = true := by
  induction m generalizing low with
  | nil => rfl
  | cons d rest ih =>
    obtain ⟨x, c⟩ := d
    simp only [Memory.wfFrom, Bool.and_eq_true, decide_eq_true_eq] at h
    obtain ⟨⟨⟨h1, h2⟩, h3⟩, h4⟩ := h
    simp only [List.filter_cons]
    split
    · simp only [Memory.wfFrom, Bool.and_eq_true, decide_eq_true_eq]
      exact ⟨⟨⟨h1, h2⟩, h3⟩, ih h4⟩
    · exact Memory.wfFrom_mono (ih h4) (by omega)

/-- An erase keeps the canonical form. -/
theorem Memory.eraseSector_wf {m : Memory} (sector : Nat) (h : m.wf = true) : (m.eraseSector sector).wf = true :=
  Memory.filter_wfFrom _ h

/-! ## What a byte reads as -/

/-- A byte below the first listed address reads as erased. -/
theorem Memory.read_below {low a : Nat} {m : Memory} (h : Memory.wfFrom low m = true) (lt : a < low) :
    m.read a = Memory.erased := by
  induction m generalizing low with
  | nil => rfl
  | cons d rest ih =>
    obtain ⟨x, c⟩ := d
    simp only [Memory.wfFrom, Bool.and_eq_true, decide_eq_true_eq] at h
    obtain ⟨⟨⟨h1, h2⟩, h3⟩, h4⟩ := h
    unfold Memory.read
    split
    · omega
    · exact ih h4 (by omega)

theorem Memory.read_insert {low a : Nat} {m : Memory} (b : Byte) (h : Memory.wfFrom low m = true) (x : Nat) :
    (m.insert a b).read x = if x = a then b else m.read x := by
  induction m generalizing low with
  | nil =>
    unfold Memory.insert
    split
    · split
      · simp_all [Memory.read]
      · rfl
    · simp only [Memory.read]
      split <;> split <;> simp_all
  | cons d rest ih =>
    obtain ⟨y, c⟩ := d
    simp only [Memory.wfFrom, Bool.and_eq_true, decide_eq_true_eq] at h
    obtain ⟨⟨⟨h1, h2⟩, h3⟩, h4⟩ := h
    have below : ∀ z, z < y + 1 → Memory.read rest z = Memory.erased := fun z hz => Memory.read_below h4 hz
    have rec' := ih h4
    unfold Memory.insert
    split
    · split
      · rename_i lt eq
        by_cases hx : x = a
        · have : y ≠ x := by omega
          simp [Memory.read, hx, below a (by omega), eq]
          omega
        · simp [hx]
      · simp only [Memory.read]
        by_cases hx : x = a
        · simp [hx]
        · have : a ≠ x := fun e => hx e.symm
          simp [hx, this]
    · split
      · rename_i _ eq
        split
        · rename_i be
          by_cases hx : x = a
          · simp [hx, below a (by omega), be]
          · have : y ≠ x := by omega
            simp [Memory.read, hx, this]
        · by_cases hx : x = a
          · simp [Memory.read, hx]
          · have h1 : a ≠ x := fun e => hx e.symm
            have h2 : y ≠ x := by omega
            simp [Memory.read, hx, h1, h2]
      · simp only [Memory.read]
        split
        · rename_i ne eq
          have : x ≠ a := by omega
          simp [this]
        · exact rec'

/-- Everything a write of one byte does: the byte at a place within the medium, no other byte. -/
theorem Memory.read_write {m : Memory} (h : m.wf = true) (a x : Nat) (b : Byte) :
    (m.write a b).read x = if x = a ∧ a < Memory.size then b else m.read x := by
  unfold Memory.write
  split
  · rename_i lt
    rw [Memory.read_insert b h x]
    simp [lt]
  · rename_i ge
    simp [ge]

/-- Everything a write of several bytes does. -/
theorem Memory.read_writeBytes {m : Memory} (h : m.wf = true) (a x : Nat) (bytes : List Byte) :
    (m.writeBytes a bytes).read x =
      if a ≤ x ∧ x < a + bytes.length ∧ x < Memory.size then (bytes[x - a]?).getD Memory.erased else m.read x := by
  induction bytes generalizing m a with
  | nil =>
    simp only [Memory.writeBytes, List.length_nil]
    rw [if_neg (by omega)]
  | cons b rest ih =>
    rw [Memory.writeBytes, ih (Memory.write_wf a b h) (a + 1), Memory.read_write h]
    by_cases hx : x = a
    · subst hx
      have h1 : ¬ (x + 1 ≤ x) := by omega
      simp only [h1, false_and, if_false, true_and, List.length_cons, Nat.sub_self, List.getElem?_cons_zero,
        Option.getD_some, le_refl]
      by_cases hs : x < Memory.size
      · have : x < x + (rest.length + 1) := by omega
        simp [hs]
      · simp [hs]
    · by_cases hlt : a < x
      · have e : x - a = (x - (a + 1)) + 1 := by omega
        have h1 : a + 1 ≤ x := hlt
        have h2 : a ≤ x := by omega
        have h3 : (x < a + 1 + rest.length) ↔ (x < a + (rest.length + 1)) := by omega
        simp only [h1, h2, hx, true_and, false_and, if_false, List.length_cons, h3, e, List.getElem?_cons_succ]
      · have h1 : ¬ (a + 1 ≤ x) := by omega
        have h2 : ¬ (a ≤ x) := by omega
        simp [h1, h2, hx]

/-- Bytes read one by one. -/
theorem Memory.readBytes_eq (m : Memory) (a n : Nat) :
    m.readBytes a n = (List.range n).map (fun i => m.read (a + i)) := by
  induction n generalizing a with
  | zero => rfl
  | succ n ih =>
    rw [Memory.readBytes, ih, List.range_succ_eq_map, List.map_cons, List.map_map]
    congr 1
    apply List.map_congr_left
    intro i _
    show m.read (a + 1 + i) = m.read (a + (i + 1))
    congr 1
    omega

/-- Everything an erase does: the bytes of the sector read as erased, no other byte changes. -/
theorem Memory.read_eraseSector {low : Nat} {m : Memory} (h : Memory.wfFrom low m = true) (sector x : Nat) :
    (m.eraseSector sector).read x = if x / 4096 = sector then Memory.erased else m.read x := by
  unfold Memory.eraseSector
  induction m generalizing low with
  | nil => simp [Memory.read]
  | cons d rest ih =>
    obtain ⟨y, c⟩ := d
    simp only [Memory.wfFrom, Bool.and_eq_true, decide_eq_true_eq] at h
    obtain ⟨⟨⟨h1, h2⟩, h3⟩, h4⟩ := h
    have rec' := ih h4
    simp only [List.filter_cons]
    split
    · rename_i keep
      simp only [Memory.read]
      split
      · rename_i eq
        subst eq
        simp at keep
        simp [keep]
      · exact rec'
    · rename_i drop
      rw [rec']
      split
      · rfl
      · rename_i ne
        have : y ≠ x := by
          intro e
          subst e
          simp at drop
          exact ne drop
        simp [Memory.read, this]

/-- The medium after reset is canonical. -/
theorem Memory.reset_wf : State.reset.evs.medium.wf = true := rfl

/-! ## The chain check (R144) -/

/-- The shift of the check register leaves it 0 only where it was 0. -/
theorem crcShift_eq_zero {c : BitVec 32} : crcShift c = 0#32 ↔ c = 0#32 := by
  refine ⟨fun h => ?_, fun h => by subst h; decide⟩
  unfold crcShift at h
  split at h
  · have low := congrArg (fun x : BitVec 32 => x.getLsbD 0) h
    simp at low
  · rename_i high
    have := BitVec.toNat_eq.mp h
    simp [BitVec.msb_eq_decide, BitVec.toNat_shiftLeft, Nat.shiftLeft_eq] at this high
    bv_omega

/-- Bytes of 0 leave the check register 0 only where it was 0. -/
theorem crc32_zeros (c : BitVec 32) (n : Nat) : crc32 c (List.replicate n 0#8) = 0#32 ↔ c = 0#32 := by
  induction n generalizing c with
  | zero => rfl
  | succ n ih =>
    rw [List.replicate_succ, crc32, List.foldl_cons, ← crc32, ih]
    simp [crcByte, crcShift_eq_zero]
end Sys2Proof.Machine
end

