-- ==== Sys2Proof/Laws/State.lean ====
section
/-! SUPPORT. What each update of a record leaves, field by field. -/

namespace Sys2Proof.Machine

/-! ## Per-phase quantities -/

@[simp] theorem PerPhase.put_get_same {α : Type} (x : PerPhase α) (p : Phase) (v : α) : (x.put p v).get p = v := by
  cases p <;> rfl

theorem PerPhase.put_get_other {α : Type} (x : PerPhase α) {p q : Phase} (v : α) (h : q ≠ p) :
    (x.put p v).get q = x.get q := by
  cases p <;> cases q <;> first | rfl | exact absurd rfl h

@[simp] theorem PerPhase.build_get {α : Type} (f : Phase → α) (p : Phase) : (PerPhase.build f).get p = f p := by
  cases p <;> rfl

/-! ## The reading -/

@[simp] theorem Tmb.afterReading_seconds (t : Tmb) : t.afterReading.seconds = t.seconds := by
  unfold Tmb.afterReading; split <;> (try split) <;> rfl

@[simp] theorem Tmb.afterReading_sub (t : Tmb) : t.afterReading.sub = t.sub := by
  unfold Tmb.afterReading; split <;> (try split) <;> rfl

@[simp] theorem Tmb.afterReading_tick (t : Tmb) : t.afterReading.tick = t.tick := by
  unfold Tmb.afterReading; split <;> (try split) <;> rfl

@[simp] theorem Tmb.afterReading_quality (t : Tmb) : t.afterReading.quality = t.quality := by
  unfold Tmb.afterReading; split <;> (try split) <;> rfl

@[simp] theorem Tmb.afterReading_anchor (t : Tmb) : t.afterReading.anchor = t.anchor := by
  unfold Tmb.afterReading; split <;> (try split) <;> rfl

/-- A reading changes the last reading given and the held indication, and nothing else of the timebase. -/
theorem Tmb.afterReading_only (t : Tmb) :
    t.afterReading = { t with lastReading := t.afterReading.lastReading, held := t.afterReading.held } := by
  unfold Tmb.afterReading; split <;> (try split) <;> rfl

@[simp] theorem takeReading_ich (s : State) : (takeReading s).ich = s.ich := rfl
@[simp] theorem takeReading_cyt (s : State) : (takeReading s).cyt = s.cyt := rfl
@[simp] theorem takeReading_hcu (s : State) : (takeReading s).hcu = s.hcu := rfl
@[simp] theorem takeReading_evd (s : State) : (takeReading s).evd = s.evd := rfl
@[simp] theorem takeReading_iva (s : State) : (takeReading s).iva = s.iva := rfl
@[simp] theorem takeReading_tlb (s : State) : (takeReading s).tlb = s.tlb := rfl
@[simp] theorem takeReading_svc (s : State) : (takeReading s).svc = s.svc := rfl
@[simp] theorem takeReading_tmb (s : State) : (takeReading s).tmb = s.tmb.afterReading := rfl
@[simp] theorem takeReading_evs (s : State) : (takeReading s).evs = s.evs := rfl
@[simp] theorem takeReading_spm (s : State) : (takeReading s).spm = s.spm := rfl
@[simp] theorem takeReading_hlk (s : State) : (takeReading s).hlk = s.hlk := rfl
@[simp] theorem takeReading_pins (s : State) : (takeReading s).pins = s.pins := rfl
@[simp] theorem takeReading_pending (s : State) : (takeReading s).pending = s.pending := rfl

/-! ## A step owed to the store -/

@[simp] theorem oweStep_owed (step : OwedStep) (s : State) : (oweStep step s).tmb.owed = some step := rfl
@[simp] theorem oweStep_evd (step : OwedStep) (s : State) : (oweStep step s).evd = s.evd := rfl
@[simp] theorem oweStep_iva (step : OwedStep) (s : State) : (oweStep step s).iva = s.iva := rfl
@[simp] theorem oweStep_evs (step : OwedStep) (s : State) : (oweStep step s).evs = s.evs := rfl
@[simp] theorem oweStep_spm (step : OwedStep) (s : State) : (oweStep step s).spm = s.spm := rfl
@[simp] theorem oweStep_hlk (step : OwedStep) (s : State) : (oweStep step s).hlk = s.hlk := rfl

/-- With no step owed nothing is delivered. -/
theorem deliverOwed_none {s : State} (h : s.tmb.owed = none) : deliverOwed s = s := by
  unfold deliverOwed
  rw [h]

/-- An owed step is delivered once (R131). -/
theorem deliverOwed_some {s : State} {step : OwedStep} (h : s.tmb.owed = some step) :
    deliverOwed s = deliverStep step { s with tmb := { s.tmb with owed := none } } := by
  unfold deliverOwed
  rw [h]

@[simp] theorem Tmb.afterReading_owed (t : Tmb) : t.afterReading.owed = t.owed := by
  unfold Tmb.afterReading; split <;> (try split) <;> rfl

/-! ## Values staged (R100) -/

/-- A filter by names that keeps each name it holds leaves the names in the list's order. -/
theorem filterMap_names_sublist {α β : Type} (f : α → Option (α × β)) (keeps : ∀ a v, f a = some v → v.1 = a) (l : List α) :
    ((l.filterMap f).map Prod.fst).Sublist l := by
  induction l with
  | nil => exact List.Sublist.refl _
  | cons a l ih =>
    rw [List.filterMap_cons]
    split
    · exact ih.cons a
    · rename_i v h
      rw [List.map_cons, keeps a v h]
      exact ih.cons_cons a

/-- The staged names stand once each, in the order of R97 (R100). -/
theorem stageValues_ordered (staged values : List (Setting × Int)) :
    ((stageValues staged values).map Prod.fst).Sublist allSettings := by
  refine filterMap_names_sublist _ (fun n nv h => ?_) allSettings
  cases given : valueGiven values n with
  | some v =>
    rw [given] at h
    exact congrArg Prod.fst (Option.some.inj h).symm
  | none =>
    rw [given] at h
    cases old : valueGiven staged n with
    | some v =>
      rw [old] at h
      exact congrArg Prod.fst (Option.some.inj h).symm
    | none =>
      rw [old] at h
      cases h
/-! ## Values becoming active (R99, R103) -/

@[simp] theorem activate_active (values : List (Setting × Int)) (s : State) :
    (activate values s).svc.active = s.svc.active.write values := rfl
@[simp] theorem activate_generation (values : List (Setting × Int)) (s : State) :
    (activate values s).svc.generation = s.svc.generation + 1 := rfl
@[simp] theorem activate_staged (values : List (Setting × Int)) (s : State) :
    (activate values s).svc.staged = s.svc.staged := rfl
@[simp] theorem activate_survey (values : List (Setting × Int)) (s : State) :
    (activate values s).svc.survey = s.svc.survey := rfl
@[simp] theorem activate_measuring (values : List (Setting × Int)) (s : State) :
    (activate values s).svc.measuring = s.svc.measuring := rfl
@[simp] theorem activate_cyt (values : List (Setting × Int)) (s : State) : (activate values s).cyt =
    { s.cyt with fnChanged := s.cyt.fnChanged || (s.svc.active.write values).fn != s.svc.active.fn } := rfl
@[simp] theorem activate_evd (values : List (Setting × Int)) (s : State) : (activate values s).evd = s.evd := rfl
@[simp] theorem activate_iva (values : List (Setting × Int)) (s : State) : (activate values s).iva = s.iva := rfl
@[simp] theorem activate_tlb (values : List (Setting × Int)) (s : State) : (activate values s).tlb = s.tlb := rfl
@[simp] theorem activate_tmb (values : List (Setting × Int)) (s : State) : (activate values s).tmb = s.tmb := rfl
@[simp] theorem activate_evs (values : List (Setting × Int)) (s : State) : (activate values s).evs = s.evs := rfl
@[simp] theorem activate_spm (values : List (Setting × Int)) (s : State) : (activate values s).spm = s.spm := rfl
@[simp] theorem activate_hlk (values : List (Setting × Int)) (s : State) : (activate values s).hlk = s.hlk := rfl

/-! ## The start of sampling (R14, R23) -/

@[simp] theorem Cyt.atStart_tracker (c : Cyt) (set : Settings) : (c.atStart set).tracker = .freewheel := rfl
@[simp] theorem Cyt.atStart_progress (c : Cyt) (set : Settings) : (c.atStart set).progress = .fresh := rfl
@[simp] theorem Cyt.atStart_last (c : Cyt) (set : Settings) : (c.atStart set).last = none := rfl
@[simp] theorem Cyt.atStart_beforeLast (c : Cyt) (set : Settings) : (c.atStart set).beforeLast = none := rfl
@[simp] theorem Cyt.atStart_reference (c : Cyt) (set : Settings) : (c.atStart set).reference = c.reference := rfl
@[simp] theorem Cyt.atStart_fnInUse (c : Cyt) (set : Settings) : (c.atStart set).fnInUse = c.fnInUse := rfl
@[simp] theorem Cyt.atStart_fnChanged (c : Cyt) (set : Settings) : (c.atStart set).fnChanged = c.fnChanged := rfl
@[simp] theorem Cyt.atStart_wiringInUse (c : Cyt) (set : Settings) : (c.atStart set).wiringInUse = c.wiringInUse := rfl
@[simp] theorem Cyt.atStart_referenceChanged (c : Cyt) (set : Settings) :
    (c.atStart set).referenceChanged = c.referenceChanged := rfl

/-- With the WIRING in use the active one, the channels followed from the start are those wired (R2). -/
theorem Cyt.begins_same {c : Cyt} {set : Settings} (h : c.wiringInUse = set.wiring) (p : Phase) :
    c.begins set p = wired set.wiring p := by
  unfold Cyt.begins
  rw [h, Bool.or_self]

/-! ## The restore of a cold start (R119) -/

@[simp] theorem Cyt.restored_fnInUse (c : Cyt) (set : Settings) : (c.restored set).fnInUse = set.fn := rfl
@[simp] theorem Cyt.restored_fnChanged (c : Cyt) (set : Settings) : (c.restored set).fnChanged = false := rfl
@[simp] theorem Cyt.restored_wiringInUse (c : Cyt) (set : Settings) : (c.restored set).wiringInUse = set.wiring := rfl
@[simp] theorem Cyt.restored_reference (c : Cyt) (set : Settings) : (c.restored set).reference = c.reference := rfl
@[simp] theorem Cyt.restored_tracker (c : Cyt) (set : Settings) : (c.restored set).tracker = c.tracker := rfl

/-! ## Tally cells -/

@[simp] theorem putCell_tlb_frozen (i : Nat) (g : GeneralCell) (s : State) : (putCell i g s).tlb.frozen = s.tlb.frozen := rfl
@[simp] theorem putCell_tlb_survey (i : Nat) (g : GeneralCell) (s : State) : (putCell i g s).tlb.survey = s.tlb.survey := rfl
@[simp] theorem putCell_tlb_cells (i : Nat) (g : GeneralCell) (s : State) :
    (putCell i g s).tlb.cells = s.tlb.cells.set i g := rfl
@[simp] theorem putCell_hlk (i : Nat) (g : GeneralCell) (s : State) : (putCell i g s).hlk = s.hlk := rfl
@[simp] theorem putCell_svc (i : Nat) (g : GeneralCell) (s : State) : (putCell i g s).svc = s.svc := rfl

/-! ## Event contexts -/

@[simp] theorem Evd.setContext_context_same (e : Evd) (k : EventKind) (c : Option Context) :
    (e.setContext k c).context k = c := by cases k <;> rfl

theorem Evd.setContext_context_other (e : Evd) {k j : EventKind} (c : Option Context) (h : j ≠ k) :
    (e.setContext k c).context j = e.context j := by
  cases k <;> cases j <;> first | rfl | exact absurd rfl h

@[simp] theorem Evd.setContext_counter (e : Evd) (k : EventKind) (c : Option Context) :
    (e.setContext k c).counter = e.counter := by cases k <;> rfl

@[simp] theorem Evd.setContext_phases (e : Evd) (k : EventKind) (c : Option Context) :
    (e.setContext k c).phases = e.phases := by cases k <;> rfl

/-! ## The check word and the dormancy entry -/

@[simp] theorem storeCheckWord_retained (s : State) : (storeCheckWord s).retained = s.retained := rfl
@[simp] theorem storeCheckWord_checkWord (s : State) :
    (storeCheckWord s).spm.checkWord = some (checkWordOf (Config.contextImage s.retained)) := rfl
@[simp] theorem storeCheckWord_power (s : State) : (storeCheckWord s).spm.power = s.spm.power := rfl
@[simp] theorem storeCheckWord_dormancyEntry (s : State) :
    (storeCheckWord s).spm.dormancyEntry = s.spm.dormancyEntry := rfl
@[simp] theorem storeCheckWord_tmb (s : State) : (storeCheckWord s).tmb = s.tmb := rfl
@[simp] theorem storeCheckWord_evs (s : State) : (storeCheckWord s).evs = s.evs := rfl
@[simp] theorem storeCheckWord_hlk (s : State) : (storeCheckWord s).hlk = s.hlk := rfl

/-- The check word agrees with a context that the backup cell kept whole. -/
@[simp] theorem contextAgrees_storeCheckWord (s : State) : contextAgrees none (storeCheckWord s) = true := by
  simp [contextAgrees, contextBytes]

@[simp] theorem noteDormancy_dormancyEntry (s : State) :
    (noteDormancy s).spm.dormancyEntry = some ⟨extendedTick s, reading s⟩ := rfl
@[simp] theorem noteDormancy_checkWord (s : State) : (noteDormancy s).spm.checkWord = s.spm.checkWord := rfl
@[simp] theorem noteDormancy_tmb (s : State) : (noteDormancy s).tmb = s.tmb.afterReading := rfl
@[simp] theorem noteDormancy_evs (s : State) : (noteDormancy s).evs = s.evs := rfl
@[simp] theorem noteDormancy_hlk (s : State) : (noteDormancy s).hlk = s.hlk := rfl

/-! ## A warm start and its giving up -/

@[simp] theorem takeBackKept_spm (s : State) : (takeBackKept s).spm = s.spm := by
  unfold takeBackKept
  split <;> rfl
@[simp] theorem takeBackKept_evs (s : State) : (takeBackKept s).evs = s.evs := by
  unfold takeBackKept
  split <;> rfl

/-- With nothing on the backup cell nothing is taken back. -/
theorem takeBackKept_none {s : State} (h : s.spm.kept = none) : takeBackKept s = s := by
  unfold takeBackKept
  rw [h]

/-- What the timebase and the link take back from the backup cell, with the clocks run on (R178, R195). -/
theorem takeBackKept_some {s : State} {k : Kept} (h : s.spm.kept = some k) : takeBackKept s =
    { s with tmb := { k.tmb with seconds := s.tmb.seconds, sub := s.tmb.sub, tick := s.tmb.tick }, hlk := k.hlk } := by
  unfold takeBackKept
  rw [h]

@[simp] theorem fallDormant_tmb (s : State) : (fallDormant s).tmb = s.tmb := rfl
@[simp] theorem fallDormant_evs (s : State) : (fallDormant s).evs = s.evs := rfl
@[simp] theorem fallDormant_hlk (s : State) : (fallDormant s).hlk = s.hlk.switchedOff := rfl
@[simp] theorem fallDormant_power (s : State) : (fallDormant s).spm.power = .dormant := rfl
@[simp] theorem fallDormant_startKind (s : State) : (fallDormant s).spm.startKind = none := rfl
@[simp] theorem fallDormant_kept (s : State) : (fallDormant s).spm.kept = none := rfl
@[simp] theorem fallDormant_dormancyEntry (s : State) : (fallDormant s).spm.dormancyEntry = s.spm.dormancyEntry := rfl
@[simp] theorem fallDormant_abortedRestarts (s : State) : (fallDormant s).spm.abortedRestarts = s.spm.abortedRestarts := rfl
@[simp] theorem Spm.running_kept (m : Spm) : m.running.kept = none := rfl

/-- A link that is off stays as it is when it is switched off again (R195). -/
theorem Hlk.switchedOff_off {h : Hlk} (buffer : h.buffer = []) (reception : h.reception = none)
    (inProgress : h.inProgress = none) (reply : h.reply = none) (transmitter : h.transmitter = .idle)
    (adoption : h.adoption = none) : h.switchedOff = h := by
  cases h
  cases buffer
  cases reception
  cases inProgress
  cases reply
  cases transmitter
  cases adoption
  rfl

/-! ## Link state -/

@[simp] theorem Hlk.discardFrames_buffer (h : Hlk) : h.discardFrames.buffer = [] := rfl
@[simp] theorem Hlk.discardFrames_reception (h : Hlk) : h.discardFrames.reception = none := rfl
@[simp] theorem Hlk.discardFrames_notices (h : Hlk) : h.discardFrames.notices = h.notices := rfl
@[simp] theorem Hlk.inForce_settings (h : Hlk) (l : LinkSettings) : (h.inForce l).settings = l := rfl
@[simp] theorem Hlk.inForce_buffer (h : Hlk) (l : LinkSettings) : (h.inForce l).buffer = [] := rfl
@[simp] theorem Hlk.inForce_notices (h : Hlk) (l : LinkSettings) : (h.inForce l).notices = h.notices := rfl

end Sys2Proof.Machine
end

