-- ==== Sys2Proof/Laws/Calm.lean ====
section
/-! SUPPORT. What every operation short of a power change, a completion of the medium and a sample keeps: the queue of
waiting commands, the power state, the oscillator mark, the medium and the bounds of `State.Sound`. -/

namespace Sys2Proof.Machine

/-- What such an operation keeps, from a state to the one after it. -/
structure Calm (s t : State) : Prop where
  pending : t.pending = s.pending
  power : t.spm.power = s.spm.power
  osc : t.ich.osc = s.ich.osc
  medium : t.evs.medium = s.evs.medium
  sound : s.Sound → t.Sound

theorem Calm.refl (s : State) : Calm s s := ⟨rfl, rfl, rfl, rfl, id⟩

theorem Calm.trans {s t u : State} (h : Calm s t) (k : Calm t u) : Calm s u :=
  ⟨k.pending.trans h.pending, k.power.trans h.power, k.osc.trans h.osc, k.medium.trans h.medium, fun x => k.sound (h.sound x)⟩

/-- `Calm.trans` with its second part first. -/
theorem Calm.after {s t u : State} (k : Calm t u) (h : Calm s t) : Calm s u := h.trans k

/-- A change of blocks that hold none of what `Calm` names. -/
theorem Calm.same {s t : State} (hi : t.ich = s.ich) (ht : t.tmb = s.tmb) (he : t.evs = s.evs) (hs : t.spm = s.spm)
    (hl : t.hlk = s.hlk) (hp : t.pending = s.pending) : Calm s t where
  pending := hp
  power := by rw [hs]
  osc := by rw [hi]
  medium := by rw [he]
  sound := fun x => ⟨by rw [he]; exact x.medium, by rw [he]; exact x.queue, by rw [hl]; exact x.notices,
    by rw [hl]; exact x.buffer, by rw [hi]; exact x.divisor, by rw [hi]; exact x.pendingDivisor,
    by rw [ht]; exact x.sub, by rw [ht]; exact x.seconds, by rw [hs]; exact x.kept⟩

/-- A change of the link. -/
theorem Calm.link {s : State} {h : Hlk} (hn : s.hlk.notices.length ≤ 16 → h.notices.length ≤ 16)
    (hb : s.hlk.buffer.length ≤ 2 → h.buffer.length ≤ 2) : Calm s { s with hlk := h } :=
  ⟨rfl, rfl, rfl, rfl, fun x => ⟨x.medium, x.queue, hn x.notices, hb x.buffer, x.divisor, x.pendingDivisor, x.sub, x.seconds,
    x.kept⟩⟩

/-- A change of the timebase. -/
theorem Calm.clock {s : State} {t : Tmb} (hs : s.tmb.sub < 32768 → t.sub < 32768)
    (hm : s.tmb.seconds ≤ max32 → t.seconds ≤ max32) : Calm s { s with tmb := t } :=
  ⟨rfl, rfl, rfl, rfl, fun x => ⟨x.medium, x.queue, x.notices, x.buffer, x.divisor, x.pendingDivisor, hs x.sub, hm x.seconds,
    x.kept⟩⟩

/-- A change of the store. -/
theorem Calm.store {s : State} {e : Evs} (hm : e.medium = s.evs.medium) (hq : s.evs.pwq.length ≤ 32 → e.pwq.length ≤ 32) :
    Calm s { s with evs := e } :=
  ⟨rfl, rfl, rfl, hm, fun x => ⟨by show e.medium.wf = true; rw [hm]; exact x.medium, hq x.queue, x.notices, x.buffer,
    x.divisor, x.pendingDivisor, x.sub, x.seconds, x.kept⟩⟩

/-- A change of the store beside blocks that hold none of what `Calm` names. -/
theorem Calm.stored {s t : State} (hm : t.evs.medium = s.evs.medium) (hq : t.evs.pwq = s.evs.pwq) (hi : t.ich = s.ich)
    (ht : t.tmb = s.tmb) (hs : t.spm = s.spm) (hl : t.hlk = s.hlk) (hp : t.pending = s.pending) : Calm s t where
  pending := hp
  power := by rw [hs]
  osc := by rw [hi]
  medium := hm
  sound := fun x => ⟨by rw [hm]; exact x.medium, by rw [hq]; exact x.queue, by rw [hl]; exact x.notices,
    by rw [hl]; exact x.buffer, by rw [hi]; exact x.divisor, by rw [hi]; exact x.pendingDivisor,
    by rw [ht]; exact x.sub, by rw [ht]; exact x.seconds, by rw [hs]; exact x.kept⟩

theorem service_calm (v : Svc) (q : State) : Calm q { q with svc := v } :=
  Calm.same rfl rfl rfl rfl rfl rfl

theorem events_calm (v : Evd) (q : State) : Calm q { q with evd := v } :=
  Calm.same rfl rfl rfl rfl rfl rfl

theorem intervals_calm (v : Iva) (q : State) : Calm q { q with iva := v } :=
  Calm.same rfl rfl rfl rfl rfl rfl

theorem tracking_calm (c : Cyt) (h : Hcu) (q : State) : Calm q { q with cyt := c, hcu := h } :=
  Calm.same rfl rfl rfl rfl rfl rfl

/-! ## Readings, replies and notices -/

theorem takeReading_calm (s : State) : Calm s (takeReading s) :=
  Calm.clock (fun h => by simpa using h) (fun h => by simpa using h)

theorem startReply_calm (r : Reply) (s : State) : Calm s (startReply r s) := Calm.link id id

theorem startNotice_calm (s : State) : Calm s (startNotice s) := by
  unfold startNotice
  split
  · exact Calm.refl s
  · rename_i n rest h
    exact Calm.link (fun x => by rw [h] at x; exact Nat.le_of_succ_le x) id

theorem transmit_calm (s : State) : Calm s (transmit s) := by
  unfold transmit
  split
  · split
    · split
      · exact startReply_calm _ s
      · exact startNotice_calm s
    · exact startNotice_calm s
  · exact Calm.refl s

theorem placeReply_calm (command : Text) (status : Status) (fields : List Text) (link : Option LinkSettings) (s : State) :
    Calm s (placeReply command status fields link s) := (Calm.after (transmit_calm _) (Calm.link id id))

theorem answer_calm (status : Status) (fields : List Text) (s : State) : Calm s (answer status fields s) := by
  unfold answer
  split
  · exact placeReply_calm _ _ _ _ s
  · exact Calm.refl s

theorem postNotice_calm (kind : NoticeKind) (fields : List Text) (s : State) : Calm s (postNotice kind fields s) := by
  unfold postNotice
  split
  · exact Calm.refl s
  · split
    · rename_i h
      exact (Calm.after (transmit_calm _) (Calm.link (fun _ => by simp; omega) id))
    · exact Calm.link id id

theorem postWithReading_calm (kind : NoticeKind) (fields : Time → List Text) (s : State) :
    Calm s (postWithReading kind fields s) := (Calm.after (postNotice_calm _ _ _) (takeReading_calm s))

theorem answerRead_calm (request : ReadRequest) (bytes : List Byte) (place : Text) (mismatch : Bool) (s : State) :
    Calm s (answerRead request bytes place mismatch s) := (Calm.after (answer_calm _ _ _) (Calm.store rfl id))

theorem answerUnavailable_calm (s : State) : Calm s (answerUnavailable s) := answer_calm _ _ s

/-! ## The medium's next operation -/

theorem startProgram_calm (s : State) : Calm s (startProgram s) := by
  unfold startProgram
  split
  · exact Calm.refl s
  · dsimp only
    split
    · exact Calm.store rfl id
    · exact Calm.store rfl id

theorem startErase_calm (sector : Nat) (s : State) : Calm s (startErase sector s) := Calm.store rfl id

theorem startRead_calm (request : ReadRequest) (s : State) : Calm s (startRead request s) := by
  unfold startRead
  dsimp only
  split
  · exact Calm.store rfl id
  · split
    · exact (Calm.after (startProgram_calm _) ((Calm.after (answerRead_calm _ _ _ _ _) (Calm.store rfl id))))
    · exact (Calm.after (answerRead_calm _ _ _ _ _) (Calm.store rfl id))
  · split
    · exact (Calm.after (startProgram_calm _) ((Calm.after (answerUnavailable_calm _) (Calm.store rfl id))))
    · exact (Calm.after (answerUnavailable_calm _) (Calm.store rfl id))

theorem ordinaryChoice_calm (s : State) : Calm s (ordinaryChoice s) := by
  unfold ordinaryChoice
  split
  · exact startErase_calm _ s
  · exact startRead_calm _ s
  · split
    · exact startProgram_calm s
    · exact Calm.refl s
  · split
    · exact startProgram_calm s
    · exact startRead_calm _ s
  · split
    · exact startProgram_calm s
    · exact Calm.refl s

theorem eraseAllChoice_calm (s : State) : Calm s (eraseAllChoice s) := by
  unfold eraseAllChoice
  split
  · exact startProgram_calm s
  · split
    · exact startErase_calm _ s
    · exact Calm.refl s

theorem mediumChoice_calm (s : State) : Calm s (mediumChoice s) := by
  unfold mediumChoice
  split
  · exact Calm.refl s
  · split
    · exact Calm.refl s
    · exact eraseAllChoice_calm s
    · exact ordinaryChoice_calm s
    · exact ordinaryChoice_calm s
    · exact ordinaryChoice_calm s

/-! ## Records offered -/

theorem dropRecord_calm (s : State) : Calm s (dropRecord s) := Calm.store rfl id

theorem takeRecord_calm (r : Record) (s : State) (h : s.evs.pwq.length < 32) : Calm s (takeRecord r s) :=
  (Calm.after (mediumChoice_calm _) (Calm.store rfl (fun _ => by simp; omega)))

theorem recordTaken_room {s : State} (h : recordTaken s = true) : s.evs.pwq.length < 32 := by
  simp only [recordTaken, Bool.and_eq_true, decide_eq_true_eq] at h
  exact h.2

theorem offer_calm (kind : RecordKind) (payload : List Byte) (s : State) : Calm s (offer kind payload s) := by
  unfold offer
  split
  · rename_i h
    exact (Calm.after (takeRecord_calm _ _ (recordTaken_room h)) (takeReading_calm s))
  · exact dropRecord_calm s

theorem offerTimeRecord_calm (payload : List Byte) (time : Time) (quality : Quality) (s : State) :
    Calm s (offerTimeRecord payload time quality s) := by
  unfold offerTimeRecord
  split
  · rename_i h
    exact takeRecord_calm _ _ (recordTaken_room h)
  · exact dropRecord_calm s

theorem offerSettings_calm (cause : SettingsCause) (s : State) : Calm s (offerSettings cause s) := offer_calm _ _ s

theorem postStore_calm (direction : String) (state : StoreState) (reason : String) (s : State) :
    Calm s (postStore direction state reason s) := postWithReading_calm _ _ s

theorem clearProtection_calm (s : State) : Calm s (clearProtection s) := by
  unfold clearProtection
  dsimp only
  split
  · exact (Calm.after (mediumChoice_calm _) ((Calm.after (postStore_calm _ _ _ _) (Calm.store rfl id))))
  · exact (Calm.after (mediumChoice_calm _) (Calm.store rfl id))

/-! ## The timebase -/

theorem postQuality_calm (before : Quality) (cause : QualityCause) (s : State) : Calm s (postQuality before cause s) := by
  unfold postQuality
  split
  · exact Calm.refl s
  · exact postWithReading_calm _ _ s

theorem changeQuality_calm (after : Quality) (cause : QualityCause) (s : State) : Calm s (changeQuality after cause s) :=
  (Calm.after (postQuality_calm _ _ _) (Calm.clock id id))

theorem signalStep_calm (s : State) : Calm s (signalStep s) := by
  unfold signalStep
  split
  · exact Calm.same rfl rfl rfl rfl rfl rfl
  · exact Calm.refl s

theorem deliverStep_calm (step : OwedStep) (s : State) : Calm s (deliverStep step s) :=
  (signalStep_calm _).after (offerTimeRecord_calm _ _ _ _)

theorem oweStep_calm (step : OwedStep) (s : State) : Calm s (oweStep step s) := Calm.clock id id

theorem reportStep_calm (step : OwedStep) (s : State) : Calm s (reportStep step s) := by
  unfold reportStep
  split
  · exact deliverStep_calm step s
  · exact oweStep_calm step s

theorem deliverOwed_calm (s : State) : Calm s (deliverOwed s) := by
  unfold deliverOwed
  split
  · exact (deliverStep_calm _ _).after (Calm.clock id id)
  · exact Calm.refl s

theorem timeStep_calm (cause : StepCause) (seconds sub : Nat) (after : Quality) (errors : List Int) (s : State)
    (hs : s.tmb.sub < 32768 → sub < 32768) (hm : s.tmb.seconds ≤ max32 → seconds ≤ max32) :
    Calm s (timeStep cause seconds sub after errors s) := by
  unfold timeStep
  exact (postQuality_calm _ _ _).after ((reportStep_calm _ _).after ((takeReading_calm _).after (Calm.clock hs hm)))

theorem countTick_calm (s : State) : Calm s (countTick s) :=
  ⟨rfl, rfl, rfl, rfl, fun x => ⟨x.medium, x.queue, x.notices, x.buffer, x.divisor, x.pendingDivisor, x.sub, x.seconds,
    x.kept⟩⟩

theorem countRtc_calm (s : State) : Calm s (countRtc s) := by
  unfold countRtc
  split
  · rename_i h
    exact Calm.clock (fun _ => by show s.tmb.sub + 1 < 32768; omega) id
  · split
    · rename_i h
      exact Calm.clock (fun _ => by show 0 < 32768; omega) (fun _ => by show s.tmb.seconds + 1 ≤ max32; omega)
    · split
      · exact Calm.clock (fun _ => by show 0 < 32768; omega) (fun _ => Nat.zero_le _)
      · exact timeStep_calm _ _ _ _ _ _ (fun _ => by omega) (fun _ => Nat.zero_le _)

theorem crystalTick_calm (s : State) : Calm s (crystalTick s) := by
  unfold crystalTick
  split
  · exact (Calm.after (countRtc_calm _) (countTick_calm s))
  · exact Calm.refl s

theorem correctClock_calm (error : Int) (s : State) : Calm s (correctClock error s) := by
  unfold correctClock
  split
  · split
    · rename_i h
      exact Calm.clock (fun _ => by show 0 < 32768; omega) (fun _ => by show s.tmb.seconds + 1 ≤ max32; omega)
    · exact timeStep_calm _ _ _ _ _ _ (fun _ => by omega) (fun _ => Nat.zero_le _)
  · split
    · exact Calm.clock (fun _ => by show 0 < 32768; omega) id
    · exact Calm.clock (fun _ => by show 0 < 32768; omega) id

theorem correctPhase_calm (error : Int) (s : State) : Calm s (correctPhase error s) :=
  (Calm.after (changeQuality_calm _ _ _) ((Calm.after (Calm.clock id id) (correctClock_calm error s))))

theorem stepTarget_seconds (error : Int) (t : Tmb) (h : t.seconds ≤ max32) : (stepTarget error t).1 ≤ max32 := by
  unfold stepTarget
  split
  · split
    · rename_i h; exact h
    · exact Nat.zero_le _
  · exact h

theorem disagree_calm (error : Int) (s : State) : Calm s (disagree error s) := by
  unfold disagree
  dsimp only
  split
  · exact Calm.clock id id
  · exact timeStep_calm _ _ _ _ _ _ (fun _ => by omega) (stepTarget_seconds error s.tmb)

theorem takePulse_calm (s : State) : Calm s (takePulse s) := by
  unfold takePulse
  split
  · exact Calm.clock id id
  · dsimp only
    split
    · exact (Calm.after (correctPhase_calm _ _) (Calm.clock (t := s.tmb.acceptPulse) id id))
    · exact (Calm.after (disagree_calm _ _) (Calm.clock (t := s.tmb.acceptPulse) id id))

theorem expireAnchor_calm (s : State) : Calm s (expireAnchor s) := Calm.clock id id

theorem enterHoldover_calm (s : State) : Calm s (enterHoldover s) := changeQuality_calm _ _ s

theorem msToSub_lt {ms : Nat} (h : ms ≤ 999) : msToSub ms < 32768 := by unfold msToSub; omega

theorem setTime_calm (broadcast : Bool) (seconds ms : Nat) (s : State) (hm : seconds ≤ max32) (hs : ms ≤ 999) :
    Calm s (setTime broadcast seconds ms s) :=
  (Calm.after (answer_calm _ _ _) (timeStep_calm _ _ _ _ _ _ (fun _ => msToSub_lt hs) (fun _ => hm)))

theorem runTis_calm (broadcast : Bool) (fields : List Text) (s : State) : Calm s (runTis broadcast fields s) := by
  unfold runTis
  split
  · exact answer_calm _ _ s
  · split
    · rename_i h
      exact setTime_calm _ _ _ s h.1 h.2
    · exact answer_calm _ _ s

theorem setReference_calm (enabled : Bool) (polarity : Polarity) (s : State) : Calm s (setReference enabled polarity s) := by
  unfold setReference
  dsimp only
  have written : Calm s { s with tmb := s.tmb.withReference enabled polarity } := Calm.clock id id
  split
  · exact (Calm.after (answer_calm _ _ _) ((Calm.after (offerSettings_calm _ _) ((Calm.after (changeQuality_calm _ _ _) written)))))
  · exact (Calm.after (answer_calm _ _ _) ((Calm.after (offerSettings_calm _ _) written)))

theorem runTrf_calm (fields : List Text) (s : State) : Calm s (runTrf fields s) := by
  unfold runTrf
  split
  · exact answer_calm _ _ s
  · exact setReference_calm _ _ s

theorem runTim_calm (fields : List Text) (s : State) : Calm s (runTim fields s) := by
  unfold runTim
  split
  · exact answer_calm _ _ s
  · exact (Calm.after (answer_calm _ _ _) (takeReading_calm s))

/-! ## The tally bank -/

theorem putCell_calm (i : Nat) (g : GeneralCell) (s : State) : Calm s (putCell i g s) := Calm.same rfl rfl rfl rfl rfl rfl

theorem postMark_calm (i : Nat) (g : GeneralCell) (s : State) : Calm s (postMark i g s) := postWithReading_calm _ _ s

theorem cellTakes_calm (item : Item) (s : State) (i : Nat) : Calm s (cellTakes item s i) := by
  unfold cellTakes
  dsimp only
  split
  · split
    · exact (Calm.after (postMark_calm _ _ _) (putCell_calm _ _ s))
    · exact putCell_calm _ _ s
  · exact Calm.refl s

/-- An operation repeated over a list keeps what each one keeps. -/
theorem foldl_calm {α : Type} (f : State → α → State) (h : ∀ s x, Calm s (f s x)) (xs : List α) (s : State) :
    Calm s (xs.foldl f s) := by
  induction xs generalizing s with
  | nil => exact Calm.refl s
  | cons x rest ih => exact (Calm.after (ih (f s x)) (h s x))

theorem surveyTakes_calm (item : Item) (s : State) : Calm s (surveyTakes item s) := by
  unfold surveyTakes
  split
  · exact Calm.same rfl rfl rfl rfl rfl rfl
  · exact Calm.refl s

theorem countSkipped_calm (skipped : Nat) (s : State) : Calm s (countSkipped skipped s) := by
  unfold countSkipped
  split
  · exact Calm.same rfl rfl rfl rfl rfl rfl
  · exact Calm.refl s

theorem matricesTake_calm (item : Item) (s : State) : Calm s (matricesTake item s) := by
  unfold matricesTake
  split
  · exact Calm.same rfl rfl rfl rfl rfl rfl
  all_goals exact Calm.refl s

theorem handItem_calm (item : Item) (s : State) : Calm s (handItem item s) :=
  (Calm.after (matricesTake_calm _ _) ((Calm.after (surveyTakes_calm _ _) (foldl_calm _ (cellTakes_calm item) _ s))))

theorem clearSurveyCounts_calm (s : State) : Calm s (clearSurveyCounts s) := Calm.same rfl rfl rfl rfl rfl rfl

theorem runTlf_calm (fields : List Text) (s : State) : Calm s (runTlf fields s) := by
  unfold runTlf
  split
  · exact answer_calm _ _ s
  · exact (Calm.after (answer_calm _ _ _) (Calm.same rfl rfl rfl rfl rfl rfl))

theorem runTlu_calm (fields : List Text) (s : State) : Calm s (runTlu fields s) := by
  unfold runTlu
  split
  · exact answer_calm _ _ s
  · exact (Calm.after (answer_calm _ _ _) (Calm.same rfl rfl rfl rfl rfl rfl))

theorem runTlc_calm (fields : List Text) (s : State) : Calm s (runTlc fields s) := by
  unfold runTlc
  split
  · exact answer_calm _ _ s
  · split
    · exact (Calm.after (answer_calm _ _ _) (putCell_calm _ _ s))
    · exact answer_calm _ _ s

theorem runTlr_calm (fields : List Text) (s : State) : Calm s (runTlr fields s) := by
  unfold runTlr
  repeat' split
  all_goals exact answer_calm _ _ s

theorem runTlx_calm (fields : List Text) (s : State) : Calm s (runTlx fields s) := by
  unfold runTlx
  split
  · split
    · exact (Calm.after (answer_calm _ _ _) (Calm.same rfl rfl rfl rfl rfl rfl))
    · split
      · split
        · exact (Calm.after (answer_calm _ _ _) (putCell_calm _ _ s))
        · exact answer_calm _ _ s
      · exact answer_calm _ _ s
      · exact answer_calm _ _ s
  · exact answer_calm _ _ s

theorem runTlm_calm (fields : List Text) (s : State) : Calm s (runTlm fields s) := by
  unfold runTlm
  repeat' split
  all_goals exact answer_calm _ _ s

/-! ## Settings and the survey -/

theorem applyAtOnce_calm (values : List (Setting × Int)) (s : State) : Calm s (applyAtOnce values s) :=
  (Calm.after (answer_calm _ _ _) ((Calm.after (offerSettings_calm _ _) (Calm.same rfl rfl rfl rfl rfl rfl))))

theorem stage_calm (values : List (Setting × Int)) (s : State) : Calm s (stage values s) :=
  (Calm.after (answer_calm _ _ _) (Calm.same rfl rfl rfl rfl rfl rfl))

theorem runSet_calm (fields : List Text) (s : State) : Calm s (runSet fields s) := by
  unfold runSet
  split
  · exact answer_calm _ _ s
  · split
    · exact answer_calm _ _ s
    · split
      · exact answer_calm _ _ s
      · split
        · exact stage_calm _ s
        · exact applyAtOnce_calm _ s

theorem runGet_calm (fields : List Text) (s : State) : Calm s (runGet fields s) := by
  unfold runGet
  dsimp only
  split
  · exact answer_calm _ _ s
  · split
    · exact answer_calm _ _ s
    · exact answer_calm _ _ s

theorem concludeSurvey_calm (cause : VerdictCause) (after : SurveyState) (s : State) : Calm s (concludeSurvey cause after s) := by
  unfold concludeSurvey
  exact Calm.after (postNotice_calm _ _ _)
    (Calm.trans (offer_calm .vdt (formVerdict cause s).payload s) (Calm.same rfl rfl rfl rfl rfl rfl))

theorem markSettingsChanged_calm (s : State) : Calm s (markSettingsChanged s) := Calm.same rfl rfl rfl rfl rfl rfl

theorem applyStaged_calm (s : State) : Calm s (applyStaged s) := by
  unfold applyStaged
  split
  · exact Calm.refl s
  · exact (Calm.after (markSettingsChanged_calm _) ((Calm.after (offerSettings_calm _ _) (Calm.same rfl rfl rfl rfl rfl rfl))))

theorem protected_calm (v : Svc) (p : Option Nat) (q : State) :
    Calm q { q with svc := v, evs := { q.evs with protectionStart := p } } :=
  Calm.stored rfl rfl rfl rfl rfl rfl rfl

theorem startSurvey_calm (mark : Nat) (s : State) : Calm s (startSurvey mark s) := by
  unfold startSurvey
  dsimp only
  exact Calm.after (protected_calm _ _ _) (Calm.after (offer_calm _ _ _)
    (Calm.trans (clearSurveyCounts_calm s) (Calm.store rfl id)))

theorem advanceSurvey_calm (k : Closure) (s : State) : Calm s (advanceSurvey k s) := by
  unfold advanceSurvey
  split
  · split
    · split
      · exact startSurvey_calm _ s
      · exact Calm.refl s
    · exact Calm.refl s
  · dsimp only
    split
    · exact (Calm.after (concludeSurvey_calm _ _ _) (countSkipped_calm _ s))
    · exact countSkipped_calm _ s
  all_goals exact Calm.refl s

theorem takeClosure_calm (k : Closure) (s : State) : Calm s (takeClosure k s) :=
  (Calm.after (advanceSurvey_calm k _) (applyStaged_calm s))

theorem RequestedStart.taken_calm (r : RequestedStart) (s : State) : Calm s (r.taken s) := by
  cases r
  · exact takeReading_calm s
  · exact Calm.refl s

theorem armSurvey_calm (start : RequestedStart) (days : Nat) (s : State) : Calm s (armSurvey start days s) :=
  (Calm.after (answer_calm _ _ _) (Calm.after (service_calm _ _) (start.taken_calm s)))

theorem runSvs_calm (fields : List Text) (s : State) : Calm s (runSvs fields s) := by
  unfold runSvs
  split
  · exact answer_calm _ _ s
  · dsimp only
    split
    · exact answer_calm _ _ s
    · split
      · exact answer_calm _ _ s
      · exact armSurvey_calm _ _ s

theorem runSva_calm (fields : List Text) (s : State) : Calm s (runSva fields s) := by
  unfold runSva
  split
  · exact answer_calm _ _ s
  · split
    · exact (Calm.after (answer_calm _ _ _) (Calm.same rfl rfl rfl rfl rfl rfl))
    · exact (Calm.after (answer_calm _ _ _) (concludeSurvey_calm _ _ s))
    all_goals exact answer_calm _ _ s

theorem releaseSurvey_calm (s : State) : Calm s (releaseSurvey s) :=
  (Calm.after (answer_calm _ _ _) (Calm.after (service_calm _ _)
    (Calm.after (clearProtection_calm _) (offer_calm _ _ s))))

theorem runSvr_calm (fields : List Text) (s : State) : Calm s (runSvr fields s) := by
  unfold runSvr
  split
  · exact answer_calm _ _ s
  · split
    · exact releaseSurvey_calm s
    · exact releaseSurvey_calm s
    all_goals exact answer_calm _ _ s

theorem runSvq_calm (fields : List Text) (s : State) : Calm s (runSvq fields s) := by
  unfold runSvq
  split <;> exact answer_calm _ _ s

theorem runSvv_calm (fields : List Text) (s : State) : Calm s (runSvv fields s) := by
  unfold runSvv
  split <;> exact answer_calm _ _ s

/-! ## Events -/

theorem setContext_calm (kind : EventKind) (c : Option Context) (s : State) : Calm s (setContext kind c s) :=
  Calm.same rfl rfl rfl rfl rfl rfl

theorem postClose_calm (c : Context) (k : CloseAt) (sequence : Option Nat) (s : State) : Calm s (postClose c k sequence s) :=
  postNotice_calm _ _ s

theorem closeRecord_calm (c : Context) (k : CloseAt) (s : State) : Calm s (closeRecord c k s) := by
  unfold closeRecord
  dsimp only
  have posted := (Calm.after (postClose_calm c k (offeredSequence s) _) (offer_calm .evt (c.record k).payload s))
  split
  · exact (Calm.after (setContext_calm _ _ _) posted)
  · exact (Calm.after (setContext_calm _ _ _) ((Calm.after (handItem_calm _ _) posted)))

theorem closeEnded_calm (phases : PerPhase (Option PhaseState)) (r : Report) (cause : CloseCause) (s : State)
    (kind : EventKind) : Calm s (closeEnded phases r cause s kind) := by
  unfold closeEnded
  split
  · split
    · exact Calm.refl s
    · exact closeRecord_calm _ _ s
  · exact Calm.refl s

theorem postOpen_calm (c : Context) (phases : PerPhase (Option PhaseState)) (s : State) : Calm s (postOpen c phases s) :=
  postNotice_calm _ _ s

theorem issueNumber_calm (s : State) : Calm s (issueNumber s) := Calm.same rfl rfl rfl rfl rfl rfl

theorem openRecord_calm (kind : EventKind) (phases : PerPhase (Option PhaseState)) (r : Report) (s : State) :
    Calm s (openRecord kind phases r s) := by
  unfold openRecord
  dsimp only
  have placed := (issueNumber_calm s).trans
    (setContext_calm kind (some (Context.opening kind (issueNumber s).evd.counter r)) _)
  split
  · exact (Calm.after (postOpen_calm _ _ _) ((Calm.after (events_calm _ _) placed)))
  · exact (Calm.after (postOpen_calm _ _ _) placed)

theorem openHolding_calm (phases : PerPhase (Option PhaseState)) (r : Report) (s : State) (kind : EventKind) :
    Calm s (openHolding phases r s kind) := by
  unfold openHolding
  split
  · exact Calm.refl s
  · split
    · exact openRecord_calm _ _ _ s
    · exact Calm.refl s

theorem limitRecord_calm (phases : PerPhase (Option PhaseState)) (r : Report) (s : State) (kind : EventKind) :
    Calm s (limitRecord phases r s kind) := by
  unfold limitRecord
  split
  · split
    · exact (Calm.after (postOpen_calm _ _ _) ((Calm.after (setContext_calm _ _ _) ((Calm.after (issueNumber_calm _) (closeRecord_calm _ _ s))))))
    · exact Calm.refl s
  · exact Calm.refl s

theorem processReport_calm (r : Report) (span : Nat) (s : State) : Calm s (processReport r span s).1 := by
  unfold processReport
  dsimp only
  exact Calm.after (events_calm _ _) (Calm.after (foldl_calm _ (limitRecord_calm _ r) _ _)
    (Calm.after (events_calm _ _) (Calm.after (foldl_calm _ (openHolding_calm _ r) _ _)
      (Calm.after (foldl_calm _ (closeEnded_calm _ r _) _ _) (events_calm _ _)))))

theorem stopRecord_calm (s : State) (kind : EventKind) : Calm s (stopRecord s kind) := by
  unfold stopRecord
  split
  · exact closeRecord_calm _ _ s
  · exact Calm.refl s

theorem stopRecords_calm (s : State) : Calm s (stopRecords s) := foldl_calm _ stopRecord_calm _ s

theorem runEvl_calm (fields : List Text) (s : State) : Calm s (runEvl fields s) := by
  unfold runEvl
  split <;> exact answer_calm _ _ s

/-! ## Intervals -/

theorem endPeriod_calm (s : State) : Calm s (endPeriod s) := by
  unfold endPeriod
  split
  · exact (Calm.after (handItem_calm _ _) (Calm.same rfl rfl rfl rfl rfl rfl))
  · exact Calm.refl s

theorem beginPeriod_calm (reasons : PeriodReasons) (r : Report) (s : State) : Calm s (beginPeriod reasons r s) :=
  Calm.same rfl rfl rfl rfl rfl rfl

theorem endWindow_calm (endTime : Time) (s : State) : Calm s (endWindow endTime s) := by
  unfold endWindow
  split
  · exact (Calm.after (handItem_calm _ _) (Calm.same rfl rfl rfl rfl rfl rfl))
  · exact Calm.refl s

theorem windowTakes_calm (r : Report) (anyOpen closureDue : Bool) (s : State) :
    Calm s (windowTakes r anyOpen closureDue s) := by
  unfold windowTakes
  dsimp only
  split
  · exact (Calm.after (endWindow_calm _ _) (Calm.same rfl rfl rfl rfl rfl rfl))
  · exact Calm.same rfl rfl rfl rfl rfl rfl

theorem openInterval_calm (startMark : Nat) (marks : IntervalMarks) (s : State) : Calm s (openInterval startMark marks s) :=
  Calm.same rfl rfl rfl rfl rfl rfl

theorem addCloses_calm (n : Nat) (s : State) : Calm s (addCloses n s) := Calm.same rfl rfl rfl rfl rfl rfl

theorem postInterval_calm (r : IntervalRecord) (sequence : Option Nat) (s : State) : Calm s (postInterval r sequence s) :=
  postNotice_calm _ _ s

theorem closeInterval_calm (cause : ClosureCause) (closeTime : Time) (opened : Option Nat) (s : State) :
    Calm s (closeInterval cause closeTime opened s) := by
  unfold closeInterval
  split
  · dsimp only
    exact Calm.after (takeClosure_calm _ _) (Calm.after (intervals_calm _ _) (Calm.after (handItem_calm _ _)
      (Calm.after (postInterval_calm _ _ _) (offer_calm _ _ s))))
  · exact Calm.refl s

theorem periodTakes_calm (plan : BoundaryPlan) (r : Report) (cycle : Option Cycle) (s : State) :
    Calm s (periodTakes plan r cycle s) := by
  unfold periodTakes
  dsimp only
  split
  · exact Calm.after (intervals_calm _ _) (Calm.after (beginPeriod_calm _ _ _) (endPeriod_calm s))
  · exact intervals_calm _ s

theorem takePlanned_calm (plan : BoundaryPlan) (r : Report) (ind : Indications) (cycle : Option Cycle) (s : State) :
    Calm s (takePlanned plan r ind cycle s) := by
  unfold takePlanned
  dsimp only
  have counted := ((Calm.after (windowTakes_calm r ind.anyOpen plan.closure.isSome _) (periodTakes_calm plan r cycle s))).trans
    (addCloses_calm ind.closes _)
  split
  · exact (Calm.after (openInterval_calm _ _ _) ((Calm.after (closeInterval_calm _ _ _ _) counted)))
  · exact counted

theorem takeBoundary_calm (r : Report) (ind : Indications) (cycle : Option Cycle) (s : State) :
    Calm s (takeBoundary r ind cycle s) := by
  unfold takeBoundary
  dsimp only
  split
  · exact Calm.after (intervals_calm _ _) (Calm.after (takePlanned_calm _ _ _ _ _) (intervals_calm _ s))
  · exact Calm.after (intervals_calm _ _) (Calm.after (takePlanned_calm _ _ _ _ _) (openInterval_calm _ _ s))

theorem haltPeriod_calm (s : State) : Calm s (haltPeriod s) :=
  (Calm.after (endPeriod_calm _) (Calm.same rfl rfl rfl rfl rfl rfl))

theorem haltOpened_calm (s : State) : Calm s (haltOpened s) := by
  unfold haltOpened
  split
  · exact Calm.refl s
  · exact (Calm.after (openInterval_calm _ _ _) (takeReading_calm s))

theorem haltMarked_calm (s : State) : Calm s (haltMarked s) := Calm.same rfl rfl rfl rfl rfl rfl

theorem haltIntervals_calm (stops : Nat) (s : State) : Calm s (haltIntervals stops s) := by
  unfold haltIntervals
  dsimp only
  exact Calm.after (intervals_calm _ _) (Calm.after (closeInterval_calm _ _ _ _) (Calm.after (haltMarked_calm _)
    (Calm.after (addCloses_calm _ _) (Calm.after (endWindow_calm _ _) (Calm.after (haltPeriod_calm _) (haltOpened_calm s))))))

theorem runMvw_calm (fields : List Text) (s : State) : Calm s (runMvw fields s) := by
  unfold runMvw
  split <;> exact answer_calm _ _ s

theorem runMvf_calm (fields : List Text) (s : State) : Calm s (runMvf fields s) := by
  unfold runMvf
  split <;> exact answer_calm _ _ s

/-! ## Samples and boundaries -/

theorem clampDivisor_range (d : Nat) : 950 ≤ clampDivisor d ∧ clampDivisor d ≤ 1050 := by
  unfold clampDivisor; split <;> (try split) <;> omega

theorem openCalibration_calm (s : State) : Calm s (openCalibration s) :=
  ⟨rfl, rfl, rfl, rfl, fun x => ⟨x.medium, x.queue, x.notices, x.buffer, x.divisor, x.pendingDivisor, x.sub, x.seconds,
    x.kept⟩⟩

theorem startSampling_calm (s : State) : Calm s (startSampling s) :=
  ⟨rfl, rfl, rfl, rfl, fun x => ⟨x.medium, x.queue, x.notices, x.buffer, x.divisor, x.pendingDivisor, x.sub, x.seconds,
    x.kept⟩⟩

theorem countSample_calm (xs : PerPhase (Int × Bool)) (s : State) : Calm s (countSample xs s) :=
  Calm.same rfl rfl rfl rfl rfl rfl

theorem settleBoundary_calm (kind : Placed) (s : State) : Calm s (settleBoundary kind s) where
  pending := rfl
  power := rfl
  osc := by unfold settleBoundary Ich.atBoundary; dsimp only; split <;> rfl
  medium := rfl
  sound := fun x => by
    refine ⟨x.medium, x.queue, x.notices, x.buffer, ?_, ?_, x.sub, x.seconds, x.kept⟩
    · unfold settleBoundary Ich.atBoundary
      dsimp only
      split
      · rename_i d h
        exact x.pendingDivisor d h
      · exact x.divisor
    · unfold settleBoundary Ich.atBoundary
      dsimp only
      split
      · intro d h
        cases h
      · exact x.pendingDivisor

theorem keepReport_calm (kind : Placed) (r : Report) (s : State) : Calm s (keepReport kind r s) :=
  Calm.after (tracking_calm _ _ _) (takeReading_calm s)

theorem deliverReport_calm (r : Report) (cycle : Option Cycle) (span : Nat) (s : State) :
    Calm s (deliverReport r cycle span s) := by
  unfold deliverReport
  split
  · exact (Calm.after (takeBoundary_calm _ _ _ _) ((Calm.after (processReport_calm _ _ _) (handItem_calm _ s))))
  · exact Calm.refl s

theorem postPresence_calm (r : Report) (s : State) (p : Phase) : Calm s (postPresence r s p) := postNotice_calm _ _ s

theorem updatePresence_calm (r : Report) (s : State) : Calm s (updatePresence r s) :=
  (Calm.after (foldl_calm _ (postPresence_calm r) _ _) (Calm.same rfl rfl rfl rfl rfl rfl))

theorem placeBoundary_calm (kind : Placed) (s : State) : Calm s (placeBoundary kind s) := by
  unfold placeBoundary
  exact ((Calm.after (deliverReport_calm _ _ _ _) ((Calm.after (keepReport_calm _ _ _) (settleBoundary_calm kind s))))).trans
    (updatePresence_calm _ _)

theorem takeSample_calm (raw : PerPhase (BitVec 16)) (s : State) : Calm s (takeSample raw s) := by
  unfold takeSample
  dsimp only
  split
  · exact (Calm.after (placeBoundary_calm _ _) (countSample_calm _ s))
  · exact countSample_calm _ s

theorem runCal_calm (fields : List Text) (s : State) : Calm s (runCal fields s) := by
  unfold runCal
  split <;> exact answer_calm _ _ s

theorem runMvh_calm (fields : List Text) (s : State) : Calm s (runMvh fields s) := by
  unfold runMvh
  split <;> exact answer_calm _ _ s

theorem runPhm_calm (fields : List Text) (s : State) : Calm s (runPhm fields s) := by
  unfold runPhm
  split
  · exact answer_calm _ _ s
  · exact (Calm.after (answer_calm _ _ _) (Calm.same rfl rfl rfl rfl rfl rfl))

/-! ## Measurement -/

theorem startMeasurement_calm (s : State) : Calm s (startMeasurement s) :=
  (Calm.after (answer_calm _ _ _) ((Calm.after (offer_calm _ _ _) (Calm.same rfl rfl rfl rfl rfl rfl))))

theorem stopBlocks_calm (s : State) : Calm s (stopBlocks s) :=
  Calm.after (service_calm _ _) (Calm.after (haltIntervals_calm _ _) (stopRecords_calm s))

theorem stopMeasurement_calm (s : State) : Calm s (stopMeasurement s) :=
  (Calm.after (answer_calm _ _ _) ((Calm.after (offer_calm _ _ _) (stopBlocks_calm s))))

theorem runMea_calm (fields : List Text) (s : State) : Calm s (runMea fields s) := by
  unfold runMea
  split
  · unfold runGo
    split
    · exact answer_calm _ _ s
    · exact startMeasurement_calm s
  · split
    · unfold runHalt
      split
      · exact answer_calm _ _ s
      · split
        · exact answer_calm _ _ s
        · exact stopMeasurement_calm s
    · exact answer_calm _ _ s

/-! ## Reads, STQ and STE -/

theorem takeSte_calm (s : State) : Calm s (takeSte s) := by
  unfold takeSte
  split
  · split
    · exact Calm.after (answer_calm _ _ _) (Calm.store rfl id)
    · exact answer_calm _ _ s
  all_goals exact answer_calm _ _ s

theorem runSte_calm (fields : List Text) (s : State) : Calm s (runSte fields s) := by
  unfold runSte
  split
  · exact answer_calm _ _ s
  · split
    · split
      · exact (mediumChoice_calm _).after (takeSte_calm s)
      · exact takeSte_calm s
    · exact Calm.store rfl id

theorem read_calm (request : ReadRequest) (s : State) : Calm s (read request s) := by
  unfold read
  split
  · exact answerRead_calm _ _ _ _ s
  · exact (Calm.after (mediumChoice_calm _) (Calm.store rfl id))
  · exact answerUnavailable_calm s

theorem runReadOf_calm (form : ReadForm) (fields : List Text) (s : State) : Calm s (runReadOf form fields s) := by
  unfold runReadOf
  split
  · split
    · split
      · exact read_calm _ s
      · exact answer_calm _ _ s
    · exact answer_calm _ _ s
  · exact answer_calm _ _ s

theorem runRdn_calm (fields : List Text) (s : State) : Calm s (runRdn fields s) := by
  unfold runRdn
  split
  · exact answer_calm _ _ s
  · split
    · exact read_calm _ s
    · exact answerUnavailable_calm s

theorem runStq_calm (fields : List Text) (s : State) : Calm s (runStq fields s) := by
  unfold runStq
  split <;> exact answer_calm _ _ s

/-! ## The link -/

theorem runIdn_calm (fields : List Text) (s : State) : Calm s (runIdn fields s) := by
  unfold runIdn
  split <;> exact answer_calm _ _ s

theorem runLnk_calm (fields : List Text) (s : State) : Calm s (runLnk fields s) := by
  unfold runLnk
  split
  · exact answer_calm _ _ s
  · split
    · exact answer_calm _ _ s
    · split
      · exact placeReply_calm _ _ _ _ s
      · exact answer_calm _ _ s

theorem runSta_calm (fields : List Text) (s : State) : Calm s (runSta fields s) := by
  unfold runSta
  split <;> exact answer_calm _ _ s

theorem runCommand_calm (c : Command) (fields : List Text) (s : State) : Calm s (runCommand c fields s) := by
  cases c
  · exact runCal_calm fields s
  · exact runMvh_calm fields s
  · exact runPhm_calm fields s
  · exact runEvl_calm fields s
  · exact runMvw_calm fields s
  · exact runMvf_calm fields s
  · exact runTlc_calm fields s
  · exact runTlr_calm fields s
  · exact runTlx_calm fields s
  · exact runTlf_calm fields s
  · exact runTlu_calm fields s
  · exact runTlm_calm fields s
  · exact runSet_calm fields s
  · exact runGet_calm fields s
  · exact runMea_calm fields s
  · exact runSvs_calm fields s
  · exact runSva_calm fields s
  · exact runSvr_calm fields s
  · exact runSvq_calm fields s
  · exact runSvv_calm fields s
  · exact runTis_calm false fields s
  · exact runTrf_calm fields s
  · exact runTim_calm fields s
  · exact runReadOf_calm .decoded fields s
  · exact runReadOf_calm .raw fields s
  · exact runRdn_calm fields s
  · exact runStq_calm fields s
  · exact runSte_calm fields s
  · exact runIdn_calm fields s
  · exact runLnk_calm fields s
  · exact runSta_calm fields s

theorem handOver_calm (c : Command) (fields : List Text) (s : State) : Calm s (handOver c fields s) := by
  unfold handOver
  dsimp only
  have taken : Calm s { s with hlk := { s.hlk with inProgress := some c } } := Calm.link id id
  split
  · exact (Calm.after (answer_calm _ _ _) taken)
  · exact (Calm.after (runCommand_calm _ _ _) taken)

theorem handBroadcast_calm (c : Command) (fields : List Text) (s : State) : Calm s (handBroadcast c fields s) := by
  unfold handBroadcast
  split
  · exact runTis_calm _ _ s
  · exact Calm.refl s

theorem takeFrame_calm (f : Frame) (s : State) : Calm s (takeFrame f s) := by
  unfold takeFrame
  split
  · split
    · exact Calm.refl s
    · exact placeReply_calm _ _ _ _ s
  · split
    · exact handBroadcast_calm _ _ s
    · exact handOver_calm _ _ s

theorem takeFrames_calm (n : Nat) (s : State) : Calm s (takeFrames n s) := by
  induction n generalizing s with
  | zero => exact Calm.refl s
  | succ n ih =>
    unfold takeFrames
    split
    · exact Calm.refl s
    · rename_i f rest h
      split
      · have dropped : Calm s { s with hlk := { s.hlk with buffer := rest } } :=
          Calm.link id (fun x => by rw [h] at x; exact Nat.le_of_succ_le x)
        exact (Calm.after (ih _) ((Calm.after (takeFrame_calm _ _) dropped)))
      · exact Calm.refl s

theorem takeWaiting_calm (s : State) : Calm s (takeWaiting s) := takeFrames_calm _ s

theorem frameKept_calm (f : Frame) (s : State) : Calm s (frameKept f s) := by
  unfold frameKept
  split
  · exact (Calm.after (takeWaiting_calm _) (Calm.link id (fun _ => by simp; omega)))
  · exact Calm.link id id

theorem dropReception_calm (s : State) : Calm s (dropReception s) := Calm.link id id

theorem frameCompletes_calm (r : Reception) (s : State) : Calm s (frameCompletes r s) := by
  unfold frameCompletes
  dsimp only
  have ended : Calm s { s with hlk := { s.hlk with reception := none } } := Calm.link id id
  split
  · exact ended
  · split
    · exact ended
    · split
      · exact (Calm.after (frameKept_calm _ _) ended)
      · exact ended

theorem badCharacter_calm (s : State) : Calm s (badCharacter s) := Calm.link id id

theorem goodCharacter_calm (c : Char) (s : State) : Calm s (goodCharacter c s) := by
  unfold goodCharacter
  split
  · exact Calm.link id id
  · split
    · exact Calm.refl s
    · split
      · exact frameCompletes_calm _ s
      · exact Calm.link id id

theorem makeEligible_calm (s : State) : Calm s (makeEligible s) := (Calm.after (transmit_calm _) (Calm.link id id))

theorem linkTakesEffect_calm (l : LinkSettings) (s : State) : Calm s (linkTakesEffect l s) :=
  (Calm.after (offerSettings_calm _ _) (Calm.link id (fun _ => by simp)))

theorem endReply_calm (s : State) : Calm s (endReply s) := by
  unfold endReply
  dsimp only
  have emptied : Calm s { s with hlk := { s.hlk with reply := none } } := Calm.link id id
  split
  · exact (Calm.after (linkTakesEffect_calm _ _) emptied)
  · exact emptied

theorem Hlk.adopt_notices (h : Hlk) : h.adopt.notices = h.notices := by unfold Hlk.adopt; split <;> rfl

theorem Hlk.adopt_buffer (h : Hlk) : h.adopt.buffer.length ≤ h.buffer.length := by
  unfold Hlk.adopt
  split
  · simp
  · exact le_refl _

theorem transmitterIdle_calm (s : State) : Calm s (transmitterIdle s) := by
  unfold transmitterIdle
  dsimp only
  exact (Calm.after (transmit_calm _) ((Calm.after (Calm.link id id) ((Calm.link (fun x => by rw [Hlk.adopt_notices]; exact x) (fun x => le_trans (Hlk.adopt_buffer _) x)).trans
    (takeWaiting_calm _)))))

theorem request_calm (c : Command) (fields : List Text) (s : State) : Calm s (request c fields s) := by
  unfold request
  split
  · exact Calm.refl s
  · split
    · exact (Calm.after (handOver_calm _ _ _) (dropReception_calm s))
    · exact (Calm.after (frameKept_calm _ _) (dropReception_calm s))

theorem broadcastTis_calm (fields : List Text) (s : State) : Calm s (broadcastTis fields s) := by
  unfold broadcastTis
  split
  · exact Calm.refl s
  · split
    · exact (Calm.after (handBroadcast_calm _ _ _) (dropReception_calm s))
    · exact (Calm.after (frameKept_calm _ _) (dropReception_calm s))

end Sys2Proof.Machine
end

