-- ==== Sys2Proof/Laws/Link.lean ====
section
/-! SUPPORT. What taking a request and answering it do: the lemmas that a statement about a host command cites. -/

namespace Sys2Proof.Machine

/-- The state in which a request reaches its owning block: the frame in reception is gone and the command is in progress. -/
def taken (c : Command) (s : State) : State :=
  { s with hlk := { s.hlk with reception := none, inProgress := some c } }

/-- A request that can be taken as it arrives reaches its owning block (R190). -/
theorem request_taken {s : State} (h : s.LinkFree) (c : Command) {fields : List Text} (w : wellFormedFields fields = true) :
    request c fields s = runCommand c fields (taken c s) := by
  obtain ⟨power, free, slot, buffer⟩ := h
  have on : linkOn s = true := by
    unfold linkOn
    cases power with
    | inl x => simp [x]
    | inr x => simp [x]
  have once : takenAtOnce fields s = true := by simp [takenAtOnce, canTake, free, slot, buffer, w]
  have running : s.spm.power ≠ .starting := by
    intro x
    cases power with
    | inl y => rw [x] at y; cases y
    | inr y => rw [x] at y; cases y
  unfold request
  rw [if_neg (by simp [on]), if_pos once]
  unfold handOver dropReception
  dsimp only
  rw [if_neg (fun x => running x.1)]
  rfl

/-- The transmitter's choice changes the link alone. -/
theorem transmit_others (s : State) : transmit s = { s with hlk := (transmit s).hlk } := by
  unfold transmit
  split
  · split
    · split
      · rfl
      · unfold startNotice
        split <;> rfl
    · unfold startNotice
      split <;> rfl
  · rfl

/-- What the transmitter's choice keeps of the link. -/
theorem transmit_link (s : State) :
    (transmit s).hlk.settings = s.hlk.settings ∧ (transmit s).hlk.configMark = s.hlk.configMark ∧
      (transmit s).hlk.adoption = s.hlk.adoption ∧ (transmit s).hlk.buffer = s.hlk.buffer ∧
      (transmit s).hlk.reception = s.hlk.reception ∧ (transmit s).hlk.inProgress = s.hlk.inProgress ∧
      ((transmit s).hlk.notices = s.hlk.notices ∨ (transmit s).hlk.notices = s.hlk.notices.tail) ∧
      (transmit s).hlk.defcomAtStart = s.hlk.defcomAtStart := by
  have notice : ∀ x : State, (startNotice x).hlk.settings = x.hlk.settings ∧
      (startNotice x).hlk.configMark = x.hlk.configMark ∧ (startNotice x).hlk.adoption = x.hlk.adoption ∧
      (startNotice x).hlk.buffer = x.hlk.buffer ∧ (startNotice x).hlk.reception = x.hlk.reception ∧
      (startNotice x).hlk.inProgress = x.hlk.inProgress ∧
      ((startNotice x).hlk.notices = x.hlk.notices ∨ (startNotice x).hlk.notices = x.hlk.notices.tail) ∧
      (startNotice x).hlk.defcomAtStart = x.hlk.defcomAtStart := by
    intro x
    unfold startNotice
    split
    · exact ⟨rfl, rfl, rfl, rfl, rfl, rfl, .inl rfl, rfl⟩
    · rename_i n rest h
      exact ⟨rfl, rfl, rfl, rfl, rfl, rfl, .inr (by rw [h]; rfl), rfl⟩
  unfold transmit
  split
  · split
    · split
      · exact ⟨rfl, rfl, rfl, rfl, rfl, rfl, .inl rfl, rfl⟩
      · exact notice s
    · exact notice s
  · exact ⟨rfl, rfl, rfl, rfl, rfl, rfl, .inl rfl, rfl⟩

/-- A reply in the slot stays there, but for becoming eligible (R191, R192). -/
theorem transmit_reply {s : State} {r : Reply} (h : s.hlk.reply = some r) :
    ∃ eligible, (transmit s).hlk.reply = some { r with eligible := eligible } := by
  unfold transmit
  split
  · split
    · rename_i x hx
      rw [hx] at h
      cases h
      split
      · exact ⟨true, rfl⟩
      · refine ⟨r.eligible, ?_⟩
        unfold startNotice
        split <;> exact hx
    · rename_i hx
      rw [hx] at h
      cases h
  · exact ⟨r.eligible, h⟩

/-- A busy transmitter starts nothing (R192). -/
theorem transmit_busy {s : State} (h : s.hlk.transmitter ≠ .idle) : transmit s = s := by
  unfold transmit
  rw [if_neg (fun x => h x.2)]

/-- The block that owns the command in progress answers it (R191). -/
theorem answer_answered {s : State} {c : Command} (h : s.hlk.inProgress = some c) (status : Status) (fields : List Text) :
    Answered (answer status fields s) c status fields := by
  unfold answer
  rw [h]
  dsimp only
  unfold placeReply
  obtain ⟨e, he⟩ := transmit_reply (s := { s with hlk := { s.hlk with
    inProgress := none
    reply := some ⟨c.text, status, fields, s.tmb.tick, delayTicks s.hlk.settings.delay, false, none⟩ } }) rfl
  refine ⟨⟨e, ?_⟩, (transmit_link _).2.2.2.2.2.1⟩
  rw [he, (transmit_link _).1, transmit_others]
  rfl

/-- Answering changes the link alone. -/
theorem answer_others (status : Status) (fields : List Text) (s : State) :
    answer status fields s = { s with hlk := (answer status fields s).hlk } := by
  unfold answer
  split
  · unfold placeReply
    rw [transmit_others]
  · rfl

/-- What the answer to a command taken at once keeps of the link. -/
theorem answer_kept {s u : State} {c : Command} (h : u.hlk = (taken c s).hlk) (status : Status) (fields : List Text)
    (free : s.hlk.inProgress = none) : LinkKept s (answer status fields u) := by
  unfold answer
  have hc : u.hlk.inProgress = some c := by rw [h]; rfl
  rw [hc]
  dsimp only
  unfold placeReply
  have k := transmit_link { u with hlk := { u.hlk with
    inProgress := none
    reply := some ⟨c.text, status, fields, u.tmb.tick, delayTicks u.hlk.settings.delay, false, none⟩ } }
  obtain ⟨k1, k2, k3, k4, k5, _, k7, _⟩ := k
  refine ⟨k1.trans ?_, k2.trans ?_, k3.trans ?_, k4.trans ?_, k5.trans ?_, ?_, ?_⟩
  · show u.hlk.settings = _; rw [h]; rfl
  · show u.hlk.configMark = _; rw [h]; rfl
  · show u.hlk.adoption = _; rw [h]; rfl
  · show u.hlk.buffer = _; rw [h]; rfl
  · show u.hlk.reception = _; rw [h]; rfl
  · rcases k7 with e | e
    · exact .inl (e.trans (by show u.hlk.notices = _; rw [h]; rfl))
    · exact .inr (e.trans (by show u.hlk.notices.tail = _; rw [h]; rfl))
  · intro busy
    rw [transmit_busy (s := { u with hlk := { u.hlk with
      inProgress := none
      reply := some ⟨c.text, status, fields, u.tmb.tick, delayTicks u.hlk.settings.delay, false, none⟩ } })
      (by show u.hlk.transmitter ≠ .idle; rw [h]; exact busy)]
    dsimp only
    rw [h]
    show ({ s.hlk with reception := none, inProgress := none, reply := _ } : Hlk) = _
    rw [← free]

/-- A command that does nothing but answer. -/
theorem answer_only {s : State} {c : Command} (status : Status) (fields : List Text) (free : s.hlk.inProgress = none) :
    AnsweredOnly s (answer status fields (taken c s)) c status fields :=
  ⟨answer_answered rfl _ _, answer_kept (c := c) rfl _ _ free, by
    rw [answer_others]
    rfl⟩

end Sys2Proof.Machine
end

