-- ==== Sys2Proof/Laws/Effects.lean ====
section
/-! SUPPORT. What a reading, a notice and the choice of the medium's next operation change, and that they change nothing
else. -/

namespace Sys2Proof.Machine

/-! ## Readings (R123) -/

/-- A second reading at the same moment is the first one again. -/
@[simp] theorem Tmb.handedOut_afterReading (t : Tmb) : t.afterReading.handedOut = t.handedOut := by
  unfold Tmb.afterReading
  cases h : t.lastReading with
  | none => simp [Tmb.handedOut, h, Tmb.formed]
  | some last =>
    dsimp only
    split
    · rfl
    · rename_i k
      simp only [Tmb.handedOut, h]
      rw [if_neg k]
      simp [Tmb.formed]

@[simp] theorem reading_takeReading (s : State) : reading (takeReading s) = reading s := Tmb.handedOut_afterReading s.tmb

/-- A reading given is the last reading given. -/
@[simp] theorem Tmb.afterReading_lastReading (t : Tmb) : t.afterReading.lastReading = some t.handedOut := by
  unfold Tmb.afterReading Tmb.handedOut
  cases h : t.lastReading with
  | none => rfl
  | some last =>
    dsimp only
    split
    · exact h
    · rfl

/-- After a reading the held indication is set exactly where the reading was the one held. -/
theorem Tmb.afterReading_held (t : Tmb) : t.afterReading.held = (t.held && t.formed.lt t.handedOut) := by
  have irrefl : ∀ a : Time, a.lt a = false := fun a => by simp [Time.lt]
  unfold Tmb.afterReading Tmb.handedOut
  cases h : t.lastReading with
  | none => simp [irrefl]
  | some last =>
    dsimp only
    split
    · rename_i k
      simp [k.1, k.2]
    · rename_i k
      simp [irrefl]

/-! ## Notices (R194) -/

/-- A notice changes the link alone. -/
theorem postNotice_others (kind : NoticeKind) (fields : List Text) (s : State) :
    postNotice kind fields s = { s with hlk := (postNotice kind fields s).hlk } := by
  unfold postNotice
  split
  · rfl
  · split
    · rw [transmit_others]
    · rfl

/-- A notice with a reading changes the last reading and the link alone. -/
theorem postWithReading_others (kind : NoticeKind) (fields : Time → List Text) (s : State) :
    postWithReading kind fields s =
      { s with tmb := s.tmb.afterReading, hlk := (postWithReading kind fields s).hlk } := by
  unfold postWithReading
  rw [postNotice_others]
  rfl

/-- What a notice keeps of the link. -/
theorem postNotice_link (kind : NoticeKind) (fields : List Text) (s : State) :
    (postNotice kind fields s).hlk.settings = s.hlk.settings ∧ (postNotice kind fields s).hlk.configMark = s.hlk.configMark ∧
      (postNotice kind fields s).hlk.adoption = s.hlk.adoption ∧ (postNotice kind fields s).hlk.buffer = s.hlk.buffer ∧
      (postNotice kind fields s).hlk.reception = s.hlk.reception ∧
      (postNotice kind fields s).hlk.inProgress = s.hlk.inProgress := by
  unfold postNotice
  split
  · exact ⟨rfl, rfl, rfl, rfl, rfl, rfl⟩
  · split
    · obtain ⟨a, b, c, d, e, f, _⟩ := transmit_link { s with hlk := { s.hlk with notices := s.hlk.notices ++ [⟨kind, fields⟩] } }
      exact ⟨a, b, c, d, e, f⟩
    · exact ⟨rfl, rfl, rfl, rfl, rfl, rfl⟩

/-- A kind that the mask does not hold leaves the link as it was. -/
theorem postNotice_masked {kind : NoticeKind} {fields : List Text} {s : State} (h : s.hlk.settings.mask.has kind = false) :
    postNotice kind fields s = s := by
  unfold postNotice
  rw [if_pos (by simp [h])]

/-- With the transmitter busy and room in the queue, a notice of the mask joins the queue's end. -/
theorem postNotice_queued {kind : NoticeKind} {fields : List Text} {s : State} (h : s.hlk.settings.mask.has kind = true)
    (room : s.hlk.notices.length < 16) (busy : s.hlk.transmitter ≠ .idle) :
    postNotice kind fields s = { s with hlk := { s.hlk with notices := s.hlk.notices ++ [⟨kind, fields⟩] } } := by
  unfold postNotice
  rw [if_neg (by simp [h]), if_pos room]
  exact transmit_busy busy

/-- A queue grows by one notice at most. -/
theorem noticeJoins_length (mask : NoticeMask) (queue : List Notice) (n : Notice) :
    (noticeJoins mask queue n).length ≤ queue.length + 1 := by
  unfold noticeJoins
  split <;> simp

theorem foldl_noticeJoins_length (mask : NoticeMask) (posted queue : List Notice) :
    (posted.foldl (noticeJoins mask) queue).length ≤ queue.length + posted.length := by
  induction posted generalizing queue with
  | nil => simp
  | cons n rest ih =>
    have step := noticeJoins_length mask queue n
    have more := ih (noticeJoins mask queue n)
    simp only [List.foldl_cons, List.length_cons]
    omega

/-- A queue grows by the notices of the mask at most. -/
theorem foldl_noticeJoins_admitted (mask : NoticeMask) (posted queue : List Notice) :
    (posted.foldl (noticeJoins mask) queue).length ≤
      queue.length + (posted.filter (fun n => mask.has n.kind)).length := by
  induction posted generalizing queue with
  | nil => simp
  | cons n rest ih =>
    have more := ih (noticeJoins mask queue n)
    have step := noticeJoins_length mask queue n
    simp only [List.foldl_cons]
    by_cases h : mask.has n.kind = true
    · rw [List.filter_cons_of_pos (by exact h), List.length_cons]
      omega
    · have same : noticeJoins mask queue n = queue := by
        unfold noticeJoins
        rw [if_neg (fun x => h x.1)]
      rw [same] at more
      rw [same, List.filter_cons_of_neg (by exact h)]
      exact more

/-- With room for all, what joins a queue does not depend on its head. -/
theorem foldl_noticeJoins_cons (mask : NoticeMask) (head : Notice) (posted queue : List Notice)
    (room : queue.length + 1 + posted.length ≤ 16) :
    posted.foldl (noticeJoins mask) (head :: queue) = head :: posted.foldl (noticeJoins mask) queue := by
  induction posted generalizing queue with
  | nil => rfl
  | cons n rest ih =>
    have step := noticeJoins_length mask queue n
    have joins : noticeJoins mask (head :: queue) n = head :: noticeJoins mask queue n := by
      unfold noticeJoins
      simp only [List.length_cons] at room ⊢
      by_cases h : mask.has n.kind = true
      · rw [if_pos ⟨h, by omega⟩, if_pos ⟨h, by omega⟩]
        rfl
      · rw [if_neg (fun x => h x.1), if_neg (fun x => h x.1)]
    simp only [List.length_cons] at room
    simp only [List.foldl_cons, joins]
    exact ih _ (by omega)

/-- What one posted notice leaves of the queue (R192, R194). -/
theorem postNotice_posts (kind : NoticeKind) (fields : List Text) (s : State) :
    Posts s (postNotice kind fields s) [⟨kind, fields⟩] := by
  have settings := (postNotice_link kind fields s).1
  by_cases h : s.hlk.settings.mask.has kind = true
  · by_cases room : s.hlk.notices.length < 16
    · refine ⟨fun busy => ?_, fun idle _ => ?_⟩
      · rw [postNotice_queued h room busy]
        simp [noticeJoins, h, room]
      · have joined : noticeJoins (postNotice kind fields s).hlk.settings.mask s.hlk.notices ⟨kind, fields⟩ =
            s.hlk.notices ++ [⟨kind, fields⟩] := by
          rw [settings]
          simp [noticeJoins, h, room]
        simp only [List.foldl_cons, List.foldl_nil, joined]
        unfold postNotice
        rw [if_neg (by simp [h]), if_pos room]
        unfold transmit
        split
        · have started : ∀ x : State, (startNotice x).hlk.notices = x.hlk.notices ∨ ∃ n, x.hlk.notices =
              n :: (startNotice x).hlk.notices ∧
                (startNotice x).hlk.transmitter = .notice n (noticeFrame (startNotice x).hlk.settings.station n) := by
            intro x
            unfold startNotice
            split
            · exact .inl rfl
            · rename_i n rest k
              exact .inr ⟨n, k, rfl⟩
          split
          · split
            · exact .inl rfl
            · exact started _
          · exact started _
        · exact .inl rfl
    · have full : postNotice kind fields s = { s with hlk := { s.hlk with overflow := true } } := by
        unfold postNotice
        rw [if_neg (by simp [h]), if_neg room]
      rw [full]
      exact ⟨fun _ => by simp [noticeJoins, h, room], fun _ fits => by
        simp only [List.length_cons, List.length_nil] at fits
        omega⟩
  · have masked := postNotice_masked (fields := fields) (Bool.eq_false_iff.mpr h)
    rw [masked]
    exact ⟨fun _ => by simp [noticeJoins, h], fun _ _ => .inl (by simp [noticeJoins, h])⟩

theorem Posts.refl (s : State) : Posts s s [] :=
  ⟨fun _ => by simp, fun _ _ => .inl rfl⟩

/-- Notices posted one after the other, under one mask. -/
theorem Posts.trans {s t u : State} {first second : List Notice} (h : Posts s t first) (k : Posts t u second)
    (same : u.hlk.settings = t.hlk.settings) : Posts s u (first ++ second) := by
  refine ⟨fun busy => ?_, fun idle room => ?_⟩
  · obtain ⟨a, b, c⟩ := h.busy busy
    obtain ⟨d, e, f⟩ := k.busy (by rw [a]; exact busy)
    rw [same] at e f ⊢
    refine ⟨d.trans a, by rw [e, b, List.foldl_append], ?_⟩
    rw [f, c, List.filter_append, List.length_append]
    have l1 := foldl_noticeJoins_admitted t.hlk.settings.mask first s.hlk.notices
    have l2 := foldl_noticeJoins_admitted t.hlk.settings.mask second t.hlk.notices
    rw [← b] at l1
    rw [← e] at l2
    constructor
    · rintro ((x | x) | x)
      · exact .inl x
      · exact .inr (by omega)
      · exact .inr (by omega)
    · rintro (x | x)
      · exact .inl (.inl x)
      · by_cases y : t.hlk.notices.length < s.hlk.notices.length + (first.filter (fun n => t.hlk.settings.mask.has n.kind)).length
        · exact .inl (.inr y)
        · exact .inr (by omega)
  · rw [List.length_append] at room
    have long := foldl_noticeJoins_length t.hlk.settings.mask first s.hlk.notices
    simp only [same, List.foldl_append]
    rcases h.idle idle (by omega) with a | ⟨n, a, b⟩
    · rw [← a]
      by_cases z : t.hlk.transmitter = .idle
      · rcases k.idle z (by rw [a]; omega) with d | d
        · exact .inl (by rw [d, same])
        · rw [same] at d
          exact .inr d
      · exact .inl (by rw [(k.busy z).2.1, same])
    · obtain ⟨d, e, _⟩ := k.busy (by rw [b]; intro x; cases x)
      rw [same] at e
      rw [a]
      have short : t.hlk.notices.length + 1 ≤ s.hlk.notices.length + first.length := by
        rw [a] at long
        simpa using long
      rw [foldl_noticeJoins_cons _ _ _ _ (by omega), ← e]
      exact .inr ⟨n, rfl, d.trans b⟩

/-! ## The medium's next operation (R148) -/

/-- What the choice of the next operation can change: the operation in flight, the waiting read that it starts or answers
with the link and the last read, and, at the start of a program, sector conditions and the due erase. -/
structure Chooses (s t : State) : Prop where
  others : t = { s with evs := t.evs, hlk := t.hlk }
  store : t.evs = { s.evs with
    sectors := t.evs.sectors
    due := t.evs.due
    activity := t.evs.activity
    waitingRead := t.evs.waitingRead
    lastRead := t.evs.lastRead }
  entries : ∀ n, (sectorAt t.evs n).first = (sectorAt s.evs n).first ∧ (sectorAt t.evs n).valid = (sectorAt s.evs n).valid ∧
    (sectorAt t.evs n).voids = (sectorAt s.evs n).voids
  quiet : s.evs.waitingRead = none →
    t.hlk = s.hlk ∧ t.evs.lastRead = s.evs.lastRead ∧ t.evs.waitingRead = none

theorem Chooses.refl (s : State) : Chooses s s := ⟨rfl, rfl, fun _ => ⟨rfl, rfl, rfl⟩, fun h => ⟨rfl, rfl, h⟩⟩

theorem openSector_entry (sectors : List Sector) (sector n : Nat) :
    (((openSector sectors sector)[n]?).getD Sector.empty).first = ((sectors[n]?).getD Sector.empty).first ∧
    (((openSector sectors sector)[n]?).getD Sector.empty).valid = ((sectors[n]?).getD Sector.empty).valid ∧
    (((openSector sectors sector)[n]?).getD Sector.empty).voids = ((sectors[n]?).getD Sector.empty).voids := by
  unfold openSector
  rw [List.getElem?_mapIdx]
  cases sectors[n]? with
  | none => exact ⟨rfl, rfl, rfl⟩
  | some x =>
    simp only [Option.map_some, Option.getD_some]
    split
    · exact ⟨rfl, rfl, rfl⟩
    · split <;> exact ⟨rfl, rfl, rfl⟩

theorem startProgram_chooses (s : State) : Chooses s (startProgram s) := by
  unfold startProgram
  split
  · exact Chooses.refl s
  · dsimp only
    split
    · exact ⟨rfl, rfl, fun n => openSector_entry _ _ n, fun h => ⟨rfl, rfl, h⟩⟩
    · exact ⟨rfl, rfl, fun _ => ⟨rfl, rfl, rfl⟩, fun h => ⟨rfl, rfl, h⟩⟩

theorem startErase_chooses (sector : Nat) (s : State) : Chooses s (startErase sector s) :=
  ⟨rfl, rfl, fun _ => ⟨rfl, rfl, rfl⟩, fun h => ⟨rfl, rfl, h⟩⟩

theorem Chooses.trans {s t u : State} (h : Chooses s t) (k : Chooses t u) : Chooses s u where
  others := by rw [k.others, h.others]
  store := by rw [k.store, h.store]
  entries := fun n => ⟨(k.entries n).1.trans (h.entries n).1, (k.entries n).2.1.trans (h.entries n).2.1,
    (k.entries n).2.2.trans (h.entries n).2.2⟩
  quiet := fun w => by
    obtain ⟨a, b, c⟩ := h.quiet w
    obtain ⟨d, e, f⟩ := k.quiet c
    exact ⟨d.trans a, e.trans b, f⟩

theorem startRead_chooses {s : State} {request : ReadRequest} (w : s.evs.waitingRead ≠ none) : Chooses s (startRead request s) := by
  have loud : ∀ t : State, t = { s with evs := t.evs, hlk := t.hlk } →
      t.evs = { s.evs with waitingRead := t.evs.waitingRead, lastRead := t.evs.lastRead, activity := t.evs.activity } →
      Chooses s t := fun t h k =>
    ⟨h, by rw [k], fun n => by unfold sectorAt; rw [k]; exact ⟨rfl, rfl, rfl⟩, fun x => absurd x w⟩
  have read : ∀ image place mark, Chooses s (answerRead request image place mark { s with evs := { s.evs with waitingRead := none } }) := by
    intro image place mark
    unfold answerRead
    rw [answer_others]
    exact loud _ rfl rfl
  have gone : Chooses s (answerUnavailable { s with evs := { s.evs with waitingRead := none } }) := by
    unfold answerUnavailable
    rw [answer_others]
    exact loud _ rfl rfl
  unfold startRead
  dsimp only
  split
  · exact loud _ rfl rfl
  · split
    · exact (read _ _ _).trans (startProgram_chooses _)
    · exact read _ _ _
  · split
    · exact gone.trans (startProgram_chooses _)
    · exact gone

/-- What choosing the medium's next operation does. -/
theorem mediumChoice_chooses (s : State) : Chooses s (mediumChoice s) := by
  have reads : ∀ request, startableRead s = some request → s.evs.waitingRead ≠ none := by
    intro request h
    unfold startableRead at h
    split at h
    · cases h
    · rw [h]
      exact Option.some_ne_none _
  have ordinary : Chooses s (ordinaryChoice s) := by
    unfold ordinaryChoice
    split
    · exact startErase_chooses _ s
    · rename_i h
      exact startRead_chooses (reads _ h)
    · split
      · exact startProgram_chooses s
      · exact Chooses.refl s
    · rename_i h
      split
      · exact startProgram_chooses s
      · exact startRead_chooses (reads _ h)
    · split
      · exact startProgram_chooses s
      · exact Chooses.refl s
  unfold mediumChoice
  split
  · exact Chooses.refl s
  · split
    · exact Chooses.refl s
    · unfold eraseAllChoice
      split
      · exact startProgram_chooses s
      · split
        · exact startErase_chooses _ s
        · exact Chooses.refl s
    · exact ordinary
    · exact ordinary
    · exact ordinary

/-- A medium in use, or one that may not be used, gets no operation. -/
theorem mediumChoice_busy {s : State} (h : mediumUsable s = false) : mediumChoice s = s := by
  unfold mediumChoice
  rw [if_pos (by simp [h])]

/-! ## Time steps (R131) -/

/-- Offering a time record changes the store and the link alone. -/
theorem offerTimeRecord_others (payload : List Byte) (time : Time) (quality : Quality) (s : State) :
    offerTimeRecord payload time quality s =
      { s with evs := (offerTimeRecord payload time quality s).evs, hlk := (offerTimeRecord payload time quality s).hlk } := by
  unfold offerTimeRecord
  split
  · unfold takeRecord
    exact (mediumChoice_chooses _).others
  · rfl

/-- The signal of a step changes the event detector and the interval aggregator alone. -/
theorem signalStep_others (s : State) :
    signalStep s = { s with evd := (signalStep s).evd, iva := (signalStep s).iva } := by
  unfold signalStep
  split <;> rfl

/-- While STOPPED the signal of a step changes nothing. -/
theorem signalStep_stopped {s : State} (h : s.svc.measuring = false) : signalStep s = s := by
  unfold signalStep
  rw [if_neg (by simp [h])]

/-- Steps 5 and 6 of a time step change the store, the receivers of the signal and the link alone. -/
theorem deliverStep_others (step : OwedStep) (s : State) : deliverStep step s =
    { s with
      evs := (deliverStep step s).evs
      evd := (deliverStep step s).evd
      iva := (deliverStep step s).iva
      hlk := (deliverStep step s).hlk } := by
  unfold deliverStep
  rw [signalStep_others, offerTimeRecord_others]

end Sys2Proof.Machine
end

