-- ==== Sys2Proof/Laws/PerInstr.lean ====
section
/-! SUPPORT. What is proved constructor by constructor. Family Request: a request row that is well formed has fields that
a request frame can carry. -/

namespace Sys2Proof.Laws.Request

open Sys2Proof.Machine

/-- The fields of a well-formed request row are fields that a frame can carry (R187, R190). -/
def Statement (i : Instr) : Prop :=
  wellFormed i = true → ∀ c fields, requestForm i = some (c, fields) → wellFormedFields fields = true

/-- A row that is no request says nothing of fields. -/
theorem of_event {i : Instr} (none_of : requestForm i = none) : Statement i := fun _ c fields h => by simp [none_of] at h

/-- A row whose fields are its operand. -/
theorem of_fields {i : Instr} {c : Command} {fields : List Text} (form : requestForm i = some (c, fields))
    (checked : wellFormed i = wellFormedFields fields) : Statement i := fun ok c' fields' h => by
  rw [form] at h
  cases h
  exact checked ▸ ok

theorem sample (r1 r2 r3 : BitVec 16) : Statement (.sample r1 r2 r3) := of_event rfl
theorem trackingTimeout (r1 r2 r3 : BitVec 16) : Statement (.trackingTimeout r1 r2 r3) := of_event rfl
theorem syntheticBoundary (r1 r2 r3 : BitVec 16) : Statement (.syntheticBoundary r1 r2 r3) := of_event rfl
theorem calibrationWindowOpen : Statement .calibrationWindowOpen := of_event rfl
theorem calibrationComplete (n1 : BitVec 32) : Statement (.calibrationComplete n1) := of_event rfl
theorem referencePulse (edge : Polarity) : Statement (.referencePulse edge) := of_event rfl
theorem rtcWrap : Statement .rtcWrap := of_event rfl
theorem pulseAnchorExpiry : Statement .pulseAnchorExpiry := of_event rfl
theorem holdoverTimeout : Statement .holdoverTimeout := of_event rfl
theorem programComplete (readBack : Option (List Byte)) : Statement (.programComplete readBack) := of_event rfl
theorem eraseComplete (residue : List Host.Cell) : Statement (.eraseComplete residue) := of_event rfl
theorem slotReadComplete : Statement .slotReadComplete := of_event rfl
theorem scanReadComplete : Statement .scanReadComplete := of_event rfl
theorem supplyFail : Statement .supplyFail := of_event rfl
theorem supplyGood (found : Option (List Byte)) (strap : Bool) : Statement (.supplyGood found strap) := of_event rfl
theorem backupFail : Statement .backupFail := of_event rfl
theorem backupGood : Statement .backupGood := of_event rfl
theorem rideThroughWindowEnd : Statement .rideThroughWindowEnd := of_event rfl
theorem tickCounterWrap : Statement .tickCounterWrap := of_event rfl
theorem qualificationEnd : Statement .qualificationEnd := of_event rfl
theorem characterReceived (code : BitVec 8) (framingError : Bool) : Statement (.characterReceived code framingError) := of_event rfl
theorem frameTimeout : Statement .frameTimeout := of_event rfl
theorem replyEligible : Statement .replyEligible := of_event rfl
theorem frameSent : Statement .frameSent := of_event rfl
theorem cal (fields : List Text) : Statement (.cal fields) := of_fields rfl rfl
theorem mvh (fields : List Text) : Statement (.mvh fields) := of_fields rfl rfl
theorem phm (fields : List Text) : Statement (.phm fields) := of_fields rfl rfl
theorem evl (fields : List Text) : Statement (.evl fields) := of_fields rfl rfl
theorem mvw (fields : List Text) : Statement (.mvw fields) := of_fields rfl rfl
theorem mvf (fields : List Text) : Statement (.mvf fields) := of_fields rfl rfl
theorem tlc (fields : List Text) : Statement (.tlc fields) := of_fields rfl rfl
theorem tlr (fields : List Text) : Statement (.tlr fields) := of_fields rfl rfl
theorem tlx (fields : List Text) : Statement (.tlx fields) := of_fields rfl rfl
theorem tlf (fields : List Text) : Statement (.tlf fields) := of_fields rfl rfl
theorem tlu (fields : List Text) : Statement (.tlu fields) := of_fields rfl rfl
theorem tlm (fields : List Text) : Statement (.tlm fields) := of_fields rfl rfl
theorem set (fields : List Text) : Statement (.set fields) := of_fields rfl rfl
theorem get (fields : List Text) : Statement (.get fields) := of_fields rfl rfl
theorem meaGo : Statement .meaGo := fun _ _ _ h => by cases h; decide
theorem meaHalt : Statement .meaHalt := fun _ _ _ h => by cases h; decide
theorem svs (fields : List Text) : Statement (.svs fields) := of_fields rfl rfl
theorem sva (fields : List Text) : Statement (.sva fields) := of_fields rfl rfl
theorem svr (fields : List Text) : Statement (.svr fields) := of_fields rfl rfl
theorem svq (fields : List Text) : Statement (.svq fields) := of_fields rfl rfl
theorem svv (fields : List Text) : Statement (.svv fields) := of_fields rfl rfl
theorem tis (broadcast : Bool) (fields : List Text) : Statement (.tis broadcast fields) := by
  cases broadcast
  · exact of_fields rfl rfl
  · exact of_event rfl
theorem trf (fields : List Text) : Statement (.trf fields) := of_fields rfl rfl
theorem tim (fields : List Text) : Statement (.tim fields) := of_fields rfl rfl
theorem rdr (fields : List Text) : Statement (.rdr fields) := of_fields rfl rfl
theorem rdx (fields : List Text) : Statement (.rdx fields) := of_fields rfl rfl
theorem rdn (fields : List Text) : Statement (.rdn fields) := of_fields rfl rfl
theorem stq (fields : List Text) : Statement (.stq fields) := of_fields rfl rfl
theorem ste (fields : List Text) : Statement (.ste fields) := of_fields rfl rfl
theorem idn (fields : List Text) : Statement (.idn fields) := of_fields rfl rfl
theorem lnk (fields : List Text) : Statement (.lnk fields) := of_fields rfl rfl
theorem sta (fields : List Text) : Statement (.sta fields) := of_fields rfl rfl

end Sys2Proof.Laws.Request
end

