-- ==== Sys2Proof/Laws/Sound.lean ====
section
/-! SUPPORT. What the power changes, the completions of the medium and the samples keep: the queue of waiting commands and
the bounds of `State.Sound`. -/

namespace Sys2Proof.Machine

/-- What every operation keeps, from a state to the one after it. -/
structure Keeps (s t : State) : Prop where
  pending : t.pending = s.pending
  sound : s.Sound → t.Sound

theorem Keeps.refl (s : State) : Keeps s s := ⟨rfl, id⟩

theorem Calm.keeps {s t : State} (h : Calm s t) : Keeps s t := ⟨h.pending, h.sound⟩

/-- Transitivity, the second part first. -/
theorem Keeps.after {s t u : State} (k : Keeps t u) (h : Keeps s t) : Keeps s u :=
  ⟨k.pending.trans h.pending, fun x => k.sound (h.sound x)⟩

/-- A change of the supply monitor and the pins that keeps what the backup cell holds. -/
theorem supply_keeps {s t : State} (ht : t = { s with spm := t.spm, pins := t.pins }) (hk : t.spm.kept = s.spm.kept) :
    Keeps s t := by
  rw [ht]
  exact ⟨rfl, fun x => ⟨x.medium, x.queue, x.notices, x.buffer, x.divisor, x.pendingDivisor, x.sub, x.seconds,
    fun k h => x.kept k (hk ▸ h)⟩⟩

/-- What is kept up to a change of the supply monitor and the pins is kept past it. -/
theorem Keeps.supply {s t u : State} (k : Keeps s t) (hu : u = { t with spm := u.spm, pins := u.pins })
    (hk : u.spm.kept = t.spm.kept) : Keeps s u := (supply_keeps hu hk).after k

/-- A change of the supply monitor after which the backup cell holds nothing apart. -/
theorem released_keeps (m : Spm) (s : State) (hk : m.kept = none) : Keeps s { s with spm := m } :=
  ⟨rfl, fun x => ⟨x.medium, x.queue, x.notices, x.buffer, x.divisor, x.pendingDivisor, x.sub, x.seconds,
    fun _ h => by rw [show _ = none from hk] at h; cases h⟩⟩

/-- A change of the store that keeps its medium well formed and its queue within bounds. -/
theorem store_keeps {s : State} {e : Evs} (hm : s.evs.medium.wf = true → e.medium.wf = true)
    (hq : s.evs.pwq.length ≤ 32 → e.pwq.length ≤ 32) : Keeps s { s with evs := e } :=
  ⟨rfl, fun x => ⟨hm x.medium, hq x.queue, x.notices, x.buffer, x.divisor, x.pendingDivisor, x.sub, x.seconds, x.kept⟩⟩

/-- A change of the store and the supply monitor that keeps the medium, the queue and what the backup cell holds. -/
theorem stored_keeps {s t : State} (ht : t = { s with evs := t.evs, spm := t.spm }) (hm : t.evs.medium = s.evs.medium)
    (hq : t.evs.pwq = s.evs.pwq) (hk : t.spm.kept = s.spm.kept) : Keeps s t := by
  rw [ht]
  exact ⟨rfl, fun x => ⟨by show t.evs.medium.wf = true; rw [hm]; exact x.medium, by
    show t.evs.pwq.length ≤ 32; rw [hq]; exact x.queue, x.notices, x.buffer, x.divisor, x.pendingDivisor, x.sub, x.seconds, fun k h => x.kept k (hk ▸ h)⟩⟩

/-! ## Starting and OFF -/

@[simp] theorem coldStart_kept (reason : ColdReason) (s : State) : (coldStart reason s).spm.kept = none := rfl

@[simp] theorem wiped_kept (s : State) : (wiped s).spm.kept = none := rfl

theorem coldStart_keeps (reason : ColdReason) (s : State) : Keeps s (coldStart reason s) :=
  ⟨rfl, fun x => ⟨x.medium, Nat.zero_le _, Nat.zero_le _, Nat.zero_le _, (by decide : 950 ≤ 1000 ∧ 1000 ≤ 1050),
    (fun _ h => by cases h), (by decide : 0 < 32768), Nat.zero_le _,
    fun _ h => by rw [coldStart_kept] at h; cases h⟩⟩

theorem wiped_keeps (s : State) : Keeps s (wiped s) :=
  ⟨rfl, fun x => ⟨x.medium, Nat.zero_le _, Nat.zero_le _, Nat.zero_le _, (by decide : 950 ≤ 1000 ∧ 1000 ≤ 1050),
    (fun _ h => by cases h), (by decide : 0 < 32768), Nat.zero_le _,
    fun _ h => by rw [wiped_kept] at h; cases h⟩⟩

theorem enterOff_keeps (s : State) : Keeps s (enterOff s) := by
  unfold enterOff
  split
  · exact (coldStart_keeps _ _).after (wiped_keeps s)
  · exact wiped_keeps s

theorem warmStart_keeps (s : State) : Keeps s (warmStart s) :=
  (transmit_calm _).keeps.after ⟨rfl, fun x => ⟨x.medium, x.queue, x.notices, x.buffer, x.divisor, x.pendingDivisor, x.sub,
    x.seconds, fun _ h => (Option.some.inj h) ▸ ⟨x.notices, x.buffer⟩⟩⟩

theorem wake_keeps (found : Option (List Byte)) (s : State) : Keeps s (wake found s) := by
  unfold wake
  split
  · exact warmStart_keeps s
  · exact coldStart_keeps _ s

/-! ## Dormancy -/

theorem Hlk.switchedOff_buffer (h : Hlk) : h.switchedOff.buffer = [] := by
  unfold Hlk.switchedOff Hlk.adopt
  split <;> rfl

theorem Hlk.cutOff_notices (h : Hlk) (k : h.notices.length ≤ 16) : h.cutOff.notices.length ≤ 16 := by
  unfold Hlk.cutOff
  split
  · unfold Hlk.putBack
    simp
  · exact k
  · exact k

theorem Hlk.switchedOff_notices (h : Hlk) (k : h.notices.length ≤ 16) : h.switchedOff.notices.length ≤ 16 := by
  unfold Hlk.switchedOff
  rw [Hlk.adopt_notices]
  exact Hlk.cutOff_notices h k

theorem linkOff_keeps (s : State) : Keeps s { s with hlk := s.hlk.switchedOff } :=
  ⟨rfl, fun x => ⟨x.medium, x.queue, Hlk.switchedOff_notices _ x.notices, by
    show s.hlk.switchedOff.buffer.length ≤ 2
    rw [Hlk.switchedOff_buffer]; decide, x.divisor, x.pendingDivisor, x.sub, x.seconds, x.kept⟩⟩

theorem blocksAtDormancy_keeps (s : State) : Keeps s (blocksAtDormancy s) :=
  ⟨rfl, fun x => ⟨x.medium, x.queue, Hlk.switchedOff_notices _ x.notices, by
    show s.hlk.switchedOff.buffer.length ≤ 2
    rw [Hlk.switchedOff_buffer]; decide, x.divisor, x.pendingDivisor, x.sub, x.seconds, x.kept⟩⟩

theorem noteDormancy_keeps (s : State) : Keeps s (noteDormancy s) := by
  unfold noteDormancy
  dsimp only
  exact (takeReading_calm s).keeps.supply rfl rfl

theorem storeCheckWord_keeps (s : State) : Keeps s (storeCheckWord s) := supply_keeps rfl rfl

theorem sealContext_keeps (s : State) : Keeps s (sealContext s) := by
  unfold sealContext
  dsimp only
  exact (storeCheckWord_keeps _).after (((blocksAtDormancy_keeps _).after (noteDormancy_keeps s)).supply rfl rfl)

theorem enterDormant_keeps (s : State) : Keeps s (enterDormant s) := by
  unfold enterDormant
  split
  · exact enterOff_keeps s
  · dsimp only
    split
    · exact (wake_keeps _ _).after (sealContext_keeps s)
    · exact sealContext_keeps s

theorem takeBackKept_keeps (s : State) : Keeps s (takeBackKept s) := by
  unfold takeBackKept
  split
  next k h =>
    exact ⟨rfl, fun x => ⟨x.medium, x.queue, (x.kept k h).1, (x.kept k h).2, x.divisor, x.pendingDivisor, x.sub, x.seconds,
      x.kept⟩⟩
  · exact Keeps.refl s

theorem fallDormant_keeps (s : State) : Keeps s (fallDormant s) := (released_keeps _ _ rfl).after (linkOff_keeps s)

theorem returnDormant_keeps (s : State) : Keeps s (returnDormant s) := by
  unfold returnDormant
  split
  · exact (storeCheckWord_keeps _).after ((fallDormant_keeps _).after (takeBackKept_keeps s))
  · exact (noteDormancy_keeps _).after ((fallDormant_keeps s).supply rfl rfl)

theorem giveUpStart_keeps (s : State) : Keeps s (giveUpStart s) := by
  unfold giveUpStart
  split
  · exact enterOff_keeps s
  · split
    · exact (wake_keeps _ _).after (returnDormant_keeps s)
    · exact returnDormant_keeps s

/-! ## Supply and backup -/

theorem postPower_calm (event : String) (further : List Text) (s : State) : Calm s (postPower event further s) :=
  postWithReading_calm _ _ s

theorem beginRideThrough_keeps (s : State) : Keeps s (beginRideThrough s) := by
  unfold beginRideThrough
  dsimp only
  refine (postPower_calm _ _ _).keeps.after (Keeps.after (t := takeReading s) ?_ (takeReading_calm s).keeps)
  exact stored_keeps rfl rfl rfl rfl

theorem abortStart_keeps (s : State) : Keeps s (abortStart s) := by
  unfold abortStart
  dsimp only
  split
  · exact supply_keeps rfl rfl
  · exact supply_keeps rfl rfl
  · exact (giveUpStart_keeps _).after (stored_keeps rfl rfl rfl rfl)
  · exact (giveUpStart_keeps _).after (supply_keeps rfl rfl)
  · exact (giveUpStart_keeps _).after (supply_keeps rfl rfl)

theorem supplyFails_keeps (s : State) : Keeps s (supplyFails s) := by
  unfold supplyFails
  split
  · exact beginRideThrough_keeps s
  · exact supply_keeps rfl rfl
  · split
    · exact supply_keeps rfl rfl
    · exact abortStart_keeps s
  · exact Keeps.refl s
  · exact Keeps.refl s

theorem recover_keeps (s : State) : Keeps s (recover s) := by
  unfold recover
  dsimp only
  exact (postPower_calm _ _ _).keeps.after (stored_keeps rfl rfl rfl rfl)

theorem supplyReturns_keeps (found : Option (List Byte)) (low : Bool) (s : State) :
    Keeps s (supplyReturns found low s) := by
  unfold supplyReturns
  dsimp only
  split
  · exact supply_keeps rfl rfl
  · split
    · exact supply_keeps rfl rfl
    · exact (recover_keeps _).after (supply_keeps rfl rfl)
  · exact supply_keeps rfl rfl
  · exact (wake_keeps _ _).after (supply_keeps rfl rfl)
  · exact (coldStart_keeps _ _).after (supply_keeps rfl rfl)

theorem noteBackup_keeps (i : Indication) (s : State) : Keeps s (noteBackup i s) := supply_keeps rfl rfl

/-! ## The commitment and the warm resume -/

theorem endDrain_keeps (s : State) : Keeps s (endDrain s) := by
  unfold endDrain
  split
  · exact enterDormant_keeps s
  · exact Keeps.refl s

theorem commit_keeps (s : State) : Keeps s (commit s) := by
  unfold commit
  exact (endDrain_keeps _).after ((postPower_calm _ _ _).keeps.after
    ((offer_calm _ _ _).keeps.after (supply_keeps rfl rfl)))

theorem endWindowOfRide_keeps (s : State) : Keeps s (endWindowOfRide s) := by
  unfold endWindowOfRide
  dsimp only
  split
  · exact (commit_keeps _).after ((takeReading_calm s).keeps.supply rfl rfl)
  · exact (takeReading_calm s).keeps.supply rfl rfl

theorem resumeTimebase_calm (s : State) : Calm s (resumeTimebase s) := by
  unfold resumeTimebase
  split
  · exact changeQuality_calm _ _ s
  · exact Calm.refl s

theorem resumeStore_calm (s : State) : Calm s (resumeStore s) := (mediumChoice_calm _).after (Calm.store rfl id)

theorem announceResume_keeps (s : State) : Keeps s (announceResume s) := by
  unfold announceResume
  dsimp only
  exact ((postPower_calm _ _ _).keeps.after ((offer_calm _ _ _).keeps.after (takeReading_calm s).keeps)).supply rfl rfl

theorem resumed_calm (e : Evd) (v : Iva) (s : State) : Calm s { s with evd := e, iva := v } :=
  Calm.same rfl rfl rfl rfl rfl rfl

theorem warmResume_keeps (s : State) : Keeps s (warmResume s) := by
  unfold warmResume
  dsimp only
  exact (resumed_calm _ _ _).keeps.after ((startSampling_calm _).keeps.after ((announceResume_keeps _).after
    ((deliverOwed_calm _).keeps.after ((resumeStore_calm _).keeps.after ((resumeTimebase_calm _).keeps.after (released_keeps _ s rfl))))))

theorem endQualification_keeps (s : State) : Keeps s (endQualification s) := by
  unfold endQualification
  split
  · exact warmResume_keeps s
  · exact stored_keeps rfl rfl rfl rfl
  · exact Keeps.refl s

/-! ## Completions of the medium -/

theorem offerErased_calm (normal : Bool) (s : State) : Calm s (offerErased normal s) := offer_calm _ _ s

theorem enterFault_calm (reason : String) (s : State) : Calm s (enterFault reason s) := by
  unfold enterFault
  dsimp only
  have entered : Calm s (postStore "ENTER" .fault reason { s with evs := { s.evs with state := .fault } }) :=
    (postStore_calm _ _ _ _).after (Calm.store rfl id)
  split
  · exact (offerErased_calm _ _).after entered
  · exact entered

theorem takeWaitingSte_calm (s : State) : Calm s (takeWaitingSte s) := by
  unfold takeWaitingSte
  split
  · exact (takeSte_calm _).after (Calm.store rfl id)
  · exact Calm.refl s

theorem superviseCompletion_keeps (s : State) : Keeps s (superviseCompletion s) := by
  unfold superviseCompletion
  split
  · exact giveUpStart_keeps s
  · split
    · exact (mediumChoice_calm _).keeps.after (commit_keeps s)
    · split
      · exact enterDormant_keeps s
      · exact (mediumChoice_calm s).keeps

theorem completed_keeps (s : State) : Keeps s (completed s) :=
  (superviseCompletion_keeps _).after ((takeWaitingSte_calm _).keeps.after (store_keeps id id))

theorem judgeFull_calm (s : State) : Calm s (judgeFull s) := by
  unfold judgeFull
  split
  · exact (postStore_calm _ _ _ _).after (Calm.store rfl id)
  · exact Calm.refl s

theorem programSucceeds_calm (slot : Nat) (check : BitVec 32) (s : State) : Calm s (programSucceeds slot check s) := by
  unfold programSucceeds
  split
  · exact Calm.refl s
  · rename_i r rest h
    exact (judgeFull_calm _).after (Calm.store rfl (fun x => by
      show s.evs.pwq.tail.length ≤ 32
      rw [List.length_tail]; omega))

theorem programFails_calm (slot : Nat) (s : State) : Calm s (programFails slot s) := by
  unfold programFails
  dsimp only
  split
  · exact (judgeFull_calm _).after (Calm.store rfl id)
  · exact (enterFault_calm _ _).after (Calm.store rfl id)

theorem programEnds_keeps (slot : Nat) (image : List Byte) (check : BitVec 32) (readBack : Option (List Byte)) (s : State) :
    Keeps s (programEnds slot image check readBack s) := by
  unfold programEnds
  dsimp only
  refine (completed_keeps _).after ?_
  split
  · exact (programSucceeds_calm _ _ _).keeps.after (store_keeps (Memory.writeSlot_wf slot _) id)
  · exact (programFails_calm _ _).keeps.after (store_keeps (Memory.writeSlot_wf slot _) id)

/-! ## The end of a scan -/

theorem Hlk.restored_bounds (h : Hlk) (stored : Option StoredRecord) (k : h.notices.length ≤ 16) (b : h.buffer.length ≤ 2) :
    (h.restored stored).notices.length ≤ 16 ∧ (h.restored stored).buffer.length ≤ 2 := by
  unfold Hlk.restored
  dsimp only
  split
  · exact ⟨by rw [Hlk.adopt_notices]; exact k, le_trans (Hlk.adopt_buffer _) b⟩
  · exact ⟨k, b⟩

theorem Tmb.restored_counts (t : Tmb) (stored : Option StoredRecord) :
    (t.restored stored).sub = t.sub ∧ (t.restored stored).seconds = t.seconds := by
  unfold Tmb.restored
  split <;> exact ⟨rfl, rfl⟩

theorem restore_keeps (s : State) : Keeps s (restore s) :=
  ⟨rfl, fun x => ⟨x.medium, x.queue, (Hlk.restored_bounds _ _ x.notices x.buffer).1,
    (Hlk.restored_bounds _ _ x.notices x.buffer).2, x.divisor, x.pendingDivisor,
    by show (s.tmb.restored _).sub < 32768; rw [(Tmb.restored_counts _ _).1]; exact x.sub,
    by show (s.tmb.restored _).seconds ≤ max32; rw [(Tmb.restored_counts _ _).2]; exact x.seconds,
    x.kept⟩⟩

theorem recoverSurvey_calm (s : State) : Calm s (recoverSurvey s) := by
  unfold recoverSurvey
  split
  · split
    · exact service_calm _ s
    · split
      · exact (concludeSurvey_calm _ _ _).after (service_calm _ s)
      · exact Calm.refl s
  · exact Calm.refl s

theorem finishColdStart_keeps (s : State) : Keeps s (finishColdStart s) :=
  (startSampling_calm _).keeps.after ((released_keeps _ _ rfl).after ((postPower_calm _ _ _).keeps.after
    ((offer_calm _ _ _).keeps.after ((recoverSurvey_calm _).keeps.after (restore_keeps s)))))

theorem postScanState_calm (s : State) : Calm s (postScanState s) := by
  unfold postScanState
  split
  · exact postStore_calm _ _ _ s
  · exact postStore_calm _ _ _ s
  all_goals exact Calm.refl s

theorem endScan_keeps (eraseFailed : Bool) (s : State) : Keeps s (endScan eraseFailed s) := by
  unfold endScan
  dsimp only
  exact (mediumChoice_calm _).keeps.after ((finishColdStart_keeps _).after
    ((postScanState_calm _).keeps.after (store_keeps id id)))

theorem scanned_medium (e : Evs) (slots : List Nat) (w : Walk) :
    (scanned e slots w).medium = e.medium ∧ (scanned e slots w).pwq = e.pwq := by
  unfold scanned
  dsimp only
  split <;> exact ⟨rfl, rfl⟩

theorem handOverScan_calm (w : Walk) (s : State) : Calm s (handOverScan w s) :=
  Calm.stored rfl rfl rfl rfl rfl rfl rfl

theorem scanDelivered_keeps (s : State) : Keeps s (scanDelivered s) := by
  unfold scanDelivered
  dsimp only
  have handed : Keeps s (handOverScan (walkRing s.evs.medium (programmedSlots s.evs.medium))
      { s with evs := scanned s.evs (programmedSlots s.evs.medium) (walkRing s.evs.medium (programmedSlots s.evs.medium)) }) :=
    (handOverScan_calm _ _).keeps.after (store_keeps (fun x => by rw [(scanned_medium _ _ _).1]; exact x)
      (fun x => by rw [(scanned_medium _ _ _).2]; exact x))
  split
  · exact (startErase_calm _ _).keeps.after handed
  · exact (endScan_keeps _ _).after handed

/-! ## The end of an erase -/

theorem Memory.erasedLeaving_wf {m : Memory} (sector : Nat) (residue : List Host.Cell) (h : m.wf = true) :
    (m.erasedLeaving sector residue).wf = true := by
  have fold : ∀ (cells : List Host.Cell) (m : Memory), m.wf = true →
      (cells.foldl (fun m c => m.write (4096 * sector + c.1) c.2) m).wf = true := by
    intro cells
    induction cells with
    | nil => exact fun _ x => x
    | cons c rest ih => exact fun m x => ih _ (Memory.write_wf _ _ x)
  exact fold _ _ (Memory.eraseSector_wf sector h)

theorem Evs.erased_medium (e : Evs) (sector : Nat) : (e.erased sector).medium = e.medium ∧ (e.erased sector).pwq = e.pwq := by
  unfold Evs.erased
  dsimp only
  split <;> exact ⟨rfl, rfl⟩

theorem endEraseAll_calm (s : State) : Calm s (endEraseAll s) := by
  unfold endEraseAll
  dsimp only
  exact Calm.after (Calm.store rfl id) ((offerErased_calm _ _).after (Calm.store rfl id))

theorem frontAdvances_calm (s : State) : Calm s (frontAdvances s) := by
  unfold frontAdvances
  dsimp only
  split
  · exact (endEraseAll_calm _).after (Calm.store rfl id)
  · exact Calm.store rfl id

theorem eraseSucceeds_keeps (sector : Nat) (s : State) : Keeps s (eraseSucceeds sector s) := by
  unfold eraseSucceeds
  dsimp only
  have erased : Keeps s { s with evs := s.evs.erased sector } :=
    store_keeps (fun x => by rw [(Evs.erased_medium _ _).1]; exact x) (fun x => by rw [(Evs.erased_medium _ _).2]; exact x)
  split
  · split
    · exact (completed_keeps _).after erased
    · exact (endScan_keeps _ _).after erased
  · exact (completed_keeps _).after ((frontAdvances_calm _).keeps.after erased)
  all_goals exact (completed_keeps _).after erased

theorem eraseFails_keeps (sector : Nat) (s : State) : Keeps s (eraseFails sector s) := by
  unfold eraseFails
  dsimp only
  have failed : Keeps s { s with evs := s.evs.eraseFailed sector } := store_keeps id id
  split
  · split
    · exact (completed_keeps _).after failed
    · exact (endScan_keeps _ _).after failed
  all_goals exact (completed_keeps _).after ((enterFault_calm _ _).keeps.after failed)

theorem eraseEnds_keeps (sector : Nat) (residue : List Host.Cell) (s : State) : Keeps s (eraseEnds sector residue s) := by
  unfold eraseEnds
  dsimp only
  have written : Keeps s { s with evs := { s.evs with medium := s.evs.medium.erasedLeaving sector residue } } :=
    store_keeps (Memory.erasedLeaving_wf sector residue) id
  split
  · exact (eraseSucceeds_keeps _ _).after written
  · exact (eraseFails_keeps _ _).after written

/-! ## Calibration -/

theorem calibrated_keeps (n1 : Nat) (s : State) : Keeps s { s with ich := s.ich.calibrated n1 } :=
  ⟨rfl, fun x => ⟨x.medium, x.queue, x.notices, x.buffer, x.divisor, by
    intro d h
    have : clampDivisor (candidateDivisor n1) = d := Option.some.inj h
    rw [← this]
    exact clampDivisor_range _, x.sub, x.seconds, x.kept⟩⟩

end Sys2Proof.Machine
end

