-- ==== Sys2Proof/Tests/Slice0.lean ====
section
/-! SUPPORT. The checks of the package's own work: ill-formed terms, the manual's worked cases, and for every statement
with hypotheses a state and operands that meet them. -/

namespace Sys2Proof.Tests

open Sys2Proof.Machine

set_option Elab.async false

/-! ## WellFormed: one ill-formed term for each check -/

theorem test_field_with_comma_refused : wellFormed (.get [[',']]) = false := by decide
theorem test_field_with_start_character_refused : wellFormed (.sta [['>']]) = false := by decide
theorem test_field_below_printable_refused : wellFormed (.set [[Char.ofNat 0x1F]]) = false := by decide
theorem test_field_above_printable_refused : wellFormed (.set [[Char.ofNat 0x7F]]) = false := by decide
theorem test_lone_empty_field_refused : wellFormed (.cal [[]]) = false := by decide
theorem test_frame_of_121_characters_refused : wellFormed (.tlc [List.replicate 110 'A']) = false := by decide
theorem test_frame_of_120_characters_taken : wellFormed (.tlc [List.replicate 109 'A']) = true := by decide
theorem test_short_read_back_refused : wellFormed (.programComplete (some (List.replicate 127 0#8))) = false := by
  decide +kernel
theorem test_residue_past_the_sector_refused : wellFormed (.eraseComplete [(4096, 0#8)]) = false := by decide
theorem test_residue_that_is_erased_refused : wellFormed (.eraseComplete [(0, 0xFF#8)]) = false := by decide
theorem test_residue_named_twice_refused : wellFormed (.eraseComplete [(7, 0#8), (7, 1#8)]) = false := by decide

/-- No row of the opcode table has bits. -/
theorem test_no_word_spells_a_command : decodeTableWord 16 0x1234 = none := by decide

/-! ## The manual's worked cases -/

/-- R4, the worked case "divisor rounding and clamping". -/
theorem test_divisor_cases : [4712345, 5100000, 4801000].map candidateDivisor = [982, 1063, 1000] ∧
    clampDivisor 1063 = 1050 ∧ divisorClamped 1063 = true ∧ divisorClamped 982 = false := by decide

/-- R17, the worked case "one half-cycle value". -/
theorem test_half_cycle_value : rmsValue 51539607552 384 56571 = (10000, false) ∧ tenthsOfVolt 10000 2300 = 2300 ∧
    scaleRms 23169 56571 = 20000 := by decide

/-- R55, the worked case "a window across the start of a dip". -/
theorem test_window_value : rmsValue 322122547200 3840 56571 = (7905, false) := by decide

/-- R61, the worked case "an interval value". -/
theorem test_interval_value : isqrt (271500000000 / 3000) = 9513 ∧ spreadOf [9513, 9702, 9644] = 189 := by decide

/-- R67, its two cases. -/
theorem test_frequency_cases : rawFrequency 499 327702 = 49897 ∧ rawFrequency 500 327680 = 50000 := by decide

/-- R92, the chains of section 4.6: residual 8000 in 200 ms, 7450 in 320 ms, 3999 in 60,001 ms, a swell of 12,150 in 85 s. -/
theorem test_chain_places : (dipRow 8000, durationColumn 200) = (0, 0) ∧ (dipRow 7450, durationColumn 320) = (1, 1) ∧
    (dipRow 3999, durationColumn 60001) = (3, 5) ∧ (swellRow 12150, durationColumn 85000) = (1, 5) := by decide

/-- R144: the published check value of this polynomial and preset, most significant bit first, with no final inversion. -/
theorem test_check_vector : crc32 0xFFFFFFFF#32 ("123456789".toList.map (fun c => BitVec.ofNat 8 c.toNat)) = 0x0376E6E7#32 := by
  decide +kernel

/-- R187, the worked request. -/
theorem test_request_frame : lineFrame 1 .sta [] = ">01STA|C5\n".toList := by decide

/-- R187, the worked reply. -/
theorem test_reply_frame :
    replyFrame 1 "TLF".toList .ok ["FROZEN".toList] "-".toList = "<01TLF OK,FROZEN,-|D6\n".toList := by decide

/-- R199, the worked MEA record, without its check. -/
theorem test_record_image : hexBytes ((⟨18400, .mea, none, .locked, 57#32, 42#16, ⟨1000123, 250⟩,
      measurementPayload true⟩ : Record).image 0#32 |>.take 24) =
    "000047E00800020200000039002A000F42BB00FA02010000".toList := by decide +kernel

/-! ## States for the hypotheses -/

/-- RUN with the scan done, sampling begun and nothing waiting. -/
def running : State := startSampling { State.reset with
  spm := { State.reset.spm with power := .run, startKind := none, qualification := none, coldReason := none }
  evs := { State.reset.evs with state := .ready } }

/-- The same, MEASURING, with an interval in progress. -/
def measuring : State := { running with
  svc := { running.svc with measuring := true }
  iva := { Iva.cold with interval := some (Interval.begin 600 IntervalMarks.none) } }

/-- A dip of L1 open since tick 0. -/
def aDip : Context := ⟨.dip, 7#32, none, ⟨600, 0⟩, 0#32, 19660799, some ⟨300, .l1⟩, [⟨.l1, 0, 300, 0, true, 0⟩], 0, none,
  ⟨600, 0⟩, 0, some ⟨300, .l1⟩, 0, ⟨false, false, false, false, false⟩⟩

/-- L1 in an excursion LOW with its flag set, the dip open. -/
def dipping : State := { measuring with evd := { Evd.cold with
  phases := ⟨some ⟨.low, true⟩, some ⟨.normal, false⟩, some ⟨.normal, false⟩⟩
  dip := some aDip
  lastBoundary := some ⟨⟨600, 0⟩, 9#32⟩ } }

/-- A report of three phases at tick 9, L1 at 300 bp. -/
def lowReport (time : Time) : Report := ⟨time, 9#32, none, false, false, false, .l1, 192,
  ⟨some ⟨300, false, 192 * 90000⟩, some ⟨10000, false, 192 * 134217728⟩, some ⟨10000, false, 192 * 134217728⟩⟩⟩

theorem quiet_oneRequest {s : State} (waiting : s.evs.waitingRead = none) (activity : s.evs.activity = .idle)
    (ste : s.evs.steWaiting = false) (slot : s.hlk.inProgress = none) (abort : s.spm.abortPending = false) :
    s.OneRequest := by
  constructor <;> simp [waiting, activity, ste, slot, abort]

theorem running_free : running.LinkFree := ⟨.inl rfl, rfl, rfl, rfl⟩
theorem running_oneRequest : running.OneRequest := quiet_oneRequest rfl rfl rfl rfl rfl
theorem measuring_free : measuring.LinkFree := ⟨.inl rfl, rfl, rfl, rfl⟩
theorem measuring_oneRequest : measuring.OneRequest := quiet_oneRequest rfl rfl rfl rfl rfl
theorem running_sized : running.Sized := ⟨by decide, by decide, by decide, by decide, List.length_replicate⟩

theorem dipping_regular : dipping.evd.Regular := by
  constructor
  · intro k c h; cases k <;> simp [dipping, Evd.cold, Evd.context, aDip] at h ⊢; simp [← h]
  · intro p x h hx; cases p <;> simp [dipping, PerPhase.get] at h <;> subst h <;> simp_all

theorem dipping_inRange : dipping.svc.InRange := ⟨fun n => by cases n <;> decide, nofun, by decide⟩

/-! ## Hypotheses met: sampling -/

theorem witness_EverySampleIsOffsetAndLimited :
    let set := { Settings.default with o := ⟨-2048, 2047, 0⟩ }
    ∀ p, -2048 ≤ set.o.get p ∧ set.o.get p ≤ 2047 := by intro set p; cases p <;> decide

/-- The tracker one sample short of one nominal cycle. -/
def tracked : State := { running with cyt := { running.cyt with tracker := .tracking, progress := .sinceBoundary 382 } }

/-- L1 about to turn to POS. -/
def rising (s : State) : State := { s with cyt := { s.cyt with channels := { s.cyt.channels with
  l1 := some ⟨.neg, .positive, .neither, .neither, 95⟩ } } }

/-- FREEWHEEL, one sample short of the schedule. -/
def freewheeling : State := { running with cyt := { running.cyt with progress := .sinceBoundary 191 } }

/-- One sample more since the last boundary. -/
def later (s : State) : State := { s with cyt := { s.cyt with progress := s.cyt.progress.next } }

theorem witness_SampleJoinsTheCurrentHalves : sampling running = true ∧ running.places 0#16 0#16 0#16 = none ∧
    sampling tracked = true ∧ tracked.places 0#16 0#16 0#16 = none ∧ wired tracked.svc.active.wiring .l3 = true := by
  decide +kernel

theorem witness_BoundaryFormsTheReport : sampling tracked = true ∧
    (later tracked).places 0#16 0#16 0#16 = some .synthetic ∧
    (rising tracked).places 8192#16 0#16 0#16 = some (.real .positiveGoing) ∧
    (rising freewheeling).places 8192#16 0#16 0#16 = some .leaving ∧
    let told := { later tracked with svc := measuring.svc }
    sampling told = true ∧ told.svc.measuring = true ∧ told.places 0#16 0#16 0#16 = some .synthetic := by decide +kernel

theorem witness_TimeoutAndSchedulePlaceBoundaries : timeoutDue (later tracked) = true ∧
    (later tracked).change 0#16 0#16 0#16 = none ∧ timeoutDue (rising (later tracked)) = true ∧
    (rising (later tracked)).change 8192#16 0#16 0#16 = some .positiveGoing ∧ scheduleDue freewheeling = true ∧
    freewheeling.change 0#16 0#16 0#16 ≠ some .positiveGoing := by decide +kernel

/-- R14: an FN set to another value and back between two boundaries is a new FN, which brings FREEWHEEL at the next boundary,
where a SET of the value that FN holds brings nothing (log entry 27). -/
theorem test_new_fn_enters_freewheel :
    let after (s : State) : Cyt := s.cyt.atBoundary s.svc.active (.real .positiveGoing)
    let other := activate [(.fn, 60)] tracked
    (after tracked).tracker = .tracking ∧ (after (activate [(.fn, 50)] tracked)).tracker = .tracking ∧
    (after other).tracker = .freewheel ∧ (after other).fnInUse = .hz60 ∧
    (after (activate [(.fn, 50)] other)).tracker = .freewheel ∧ (after (activate [(.fn, 50)] other)).fnInUse = .hz50 ∧
    (after (activate [(.fn, 50)] other)).fnChanged = false := by decide

/-- R14: an FN that met no boundary before a dormancy leaves the old constants in use up to the first boundary after it. -/
theorem test_pending_fn_waits_for_the_first_boundary :
    let woken := startSampling (activate [(.fn, 60)] running)
    let begun := { woken with cyt := { woken.cyt with progress := .sinceFirst 160 } }
    woken.cyt.fnInUse = .hz50 ∧ begun.places 0#16 0#16 0#16 = none ∧
    (woken.cyt.atBoundary woken.svc.active .synthetic).fnInUse = .hz60 ∧
    (woken.cyt.atBoundary woken.svc.active .synthetic).fnChanged = false := by decide +kernel

/-- The same at another tick. -/
def atTick (tick : Tick) (s : State) : State := { s with tmb := { s.tmb with tick := tick } }

theorem witness_CalibrationSetsThePendingDivisor : sampling (atTick 1966080#32 running) = true ∧
    (∃ o, (atTick 1966080#32 running).ich.lastOpen = some o ∧ 1966080 ≤ tickSpan o 1966080#32) ∧
    sampling (atTick 8192#32 running) = true ∧ (atTick 8192#32 running).ich.windowOpen = true ∧
    ∃ o, (atTick 8192#32 running).ich.lastOpen = some o ∧ 8192 ≤ tickSpan o 8192#32 :=
  ⟨rfl, ⟨0#32, rfl, by decide⟩, rfl, rfl, 0#32, rfl, by decide⟩

theorem witness_OnlyCalibrationsAndColdStartsMoveOsc :
    (∃ t, exec (.calibrationComplete 5100000#32) (atTick 8192#32 running) = .next t ∧ t.ich.osc ≠ running.ich.osc) ∧
    let off := { running with
      ich := { running.ich with osc := true }
      spm := { running.spm with power := .off } }
    ∃ t, exec (.supplyGood none false) off = .next t ∧ t.ich.osc ≠ off.ich.osc :=
  ⟨⟨_, rfl, by decide +kernel⟩, _, rfl, by decide +kernel⟩

theorem witness_CalReportsTheSampleClock : running.LinkFree ∧ wellFormedFields [] = true ∧ wellFormedFields [['1']] = true :=
  ⟨running_free, by decide, by decide⟩

theorem witness_PhmReportsAndClearsTheMarks : running.LinkFree ∧ wellFormedFields [] = true ∧ wellFormedFields [['1']] = true :=
  ⟨running_free, by decide, by decide⟩

theorem witness_TenthContradictionFlipsPresence :
    let e (run : Nat) : Presence := ⟨true, run, false, false⟩
    decide (2000 ≤ 2000) = (e 9).present ∧ decide (2000 ≤ 1999) ≠ (e 8).present ∧ (e 8).run < 9 ∧
    decide (2000 ≤ 1999) ≠ (e 9).present ∧ 9 ≤ (e 9).run := by decide

/-! ## Hypotheses met: voltage events -/

theorem witness_EveryCommandKeepsTheDetectorRegular : dipping.svc.active.tint ≤ dipping.svc.active.tdip ∧
    dipping.evd.Regular ∧ (∃ t, exec .meaHalt dipping = .next t) ∧ dipping.svc.InRange ∧
    ∃ t, step dipping = .next t ∧ ∀ r, t.evs.recovery.settings ≠ some r :=
  ⟨by decide, dipping_regular, ⟨_, rfl⟩, dipping_inRange, _, rfl, nofun⟩

/-- A report of three phases at their declared voltage. -/
def normalReport (time : Time) : Report := { lowReport time with
  values := ⟨some ⟨10000, false, 0⟩, some ⟨10000, false, 0⟩, some ⟨10000, false, 0⟩⟩ }

/-- No record is open but the dip, and it is short of Lmax at a report of the same tick. -/
theorem dipping_alone : dipping.evd.context .dip = some aDip ∧ (∀ k, k ≠ .dip → dipping.evd.context k = none) ∧
    ∀ k d, dipping.evd.context k = some d → d.elapsed + 0 < dipping.svc.active.lmax * 32768 := by
  refine ⟨rfl, fun k h => by cases k <;> simp_all [dipping, Evd.cold, Evd.context], fun k d h => ?_⟩
  cases k <;> simp [dipping, Evd.cold, Evd.context] at h
  subst h
  decide

theorem witness_RecordsAreOpenWhileTheirConditionHolds : dipping.evd.Regular ∧
    dipping.svc.active.tint ≤ dipping.svc.active.tdip ∧ dipping.evd.context .dip = some aDip ∧
    (∀ k, conditionHolds (phasesAfter dipping.evd.phases dipping.svc.active (normalReport ⟨600, 0⟩)) k = false) ∧
    (dipping.evd.lastBoundary.map (fun b => tickSpan b.tick (normalReport ⟨600, 0⟩).tick)).getD 0 = 0 ∧
    (∀ k, k ≠ .dip → dipping.evd.context k = none) ∧
    (∀ k d, dipping.evd.context k = some d → d.elapsed + 0 < dipping.svc.active.lmax * 32768) ∧
    let told := { dipping with hlk := { dipping.hlk with settings := .factory, transmitter := .reply [] [] } }
    told.hlk.settings.mask.evc = true ∧ told.hlk.transmitter ≠ .idle ∧ told.hlk.notices.length < 16 :=
  ⟨dipping_regular, by decide, rfl, by intro k; cases k <;> decide, by decide, dipping_alone.2.1, dipping_alone.2.2,
    rfl, nofun, by decide⟩

/-- A report of the same value on every phase. -/
def levelReport (v : Nat) : Report := { lowReport ⟨600, 0⟩ with
  values := ⟨some ⟨v, false, 0⟩, some ⟨v, false, 0⟩, some ⟨v, false, 0⟩⟩ }

/-- The clause on the thresholds (R26 to R29): the entry and the exit of each excursion and of the flag, on either side. -/
theorem witness_ThresholdsMoveThePhases :
    let moved (before : PhaseState) (v : Nat) :=
      (phasesAfter ⟨some before, none, none⟩ Settings.default (levelReport v)).get .l1
    (moved ⟨.normal, false⟩ 8999 = some ⟨.low, false⟩ ∧ moved ⟨.normal, false⟩ 9000 = some ⟨.normal, false⟩ ∧
      moved ⟨.normal, false⟩ 11000 = some ⟨.normal, false⟩ ∧ moved ⟨.normal, false⟩ 11001 = some ⟨.high, false⟩) ∧
    (moved ⟨.low, false⟩ 9199 = some ⟨.low, false⟩ ∧ moved ⟨.low, false⟩ 9200 = some ⟨.normal, false⟩) ∧
    (moved ⟨.high, false⟩ 10801 = some ⟨.high, false⟩ ∧ moved ⟨.high, false⟩ 10800 = some ⟨.normal, false⟩) ∧
    moved ⟨.low, false⟩ 499 = some ⟨.low, true⟩ ∧ moved ⟨.low, false⟩ 500 = some ⟨.low, false⟩ ∧
    moved ⟨.low, true⟩ 699 = some ⟨.low, true⟩ ∧ moved ⟨.low, true⟩ 700 = some ⟨.low, false⟩ := by decide

theorem measuring_regular : measuring.evd.Regular := by
  constructor
  · intro k c h; cases k <;> simp [measuring, running, startSampling, State.reset, Evd.cold, Evd.context] at h
  · intro p x h hx
    cases p <;> simp [measuring, running, startSampling, State.reset, Evd.cold, PerPhase.get] at h <;> subst h <;>
      exact absurd hx nofun

/-- The clauses on the records that open (R31, R32, R51): a dip and its interruption together, a swell, and an interruption
inside an open dip whose contained count is at either side of its maximum. -/
theorem witness_RecordsOpenWhereTheirConditionsBegin : measuring.evd.Regular ∧
    measuring.svc.active.tint ≤ measuring.svc.active.tdip ∧ 0 < measuring.svc.active.lmax ∧
    (∀ k, measuring.evd.context k = none) ∧
    (let phases := phasesAfter measuring.evd.phases measuring.svc.active (levelReport 300)
     conditionHolds phases .dip = true ∧ conditionHolds phases .swell = false ∧ conditionHolds phases .interruption = true) ∧
    conditionHolds (phasesAfter measuring.evd.phases measuring.svc.active (levelReport 11001)) .swell = true ∧
    (∀ count ∈ [0, 254, 255], let s := { dipping with evd := { dipping.evd with dip := some { aDip with
        containedCount := count } } }
      s.evd.dip = some { aDip with containedCount := count } ∧ s.evd.interruption = none ∧
      conditionHolds (phasesAfter s.evd.phases s.svc.active (levelReport 300)) .dip = true ∧
      conditionHolds (phasesAfter s.evd.phases s.svc.active (levelReport 300)) .interruption = true ∧
      aDip.elapsed + (s.evd.lastBoundary.map (fun b => tickSpan b.tick 9#32)).getD 0 < s.svc.active.lmax * 32768) ∧
    let told := { measuring with hlk := { measuring.hlk with
      settings := .factory
      transmitter := .reply [] []
      notices := List.replicate 14 ⟨.tkn, []⟩ } }
    told.hlk.settings.mask.evo = true ∧ told.hlk.transmitter ≠ .idle ∧
    told.hlk.notices.length + [EventKind.dip, .interruption].length ≤ 16 :=
  ⟨measuring_regular, by decide, by decide, by intro k; cases k <;> rfl, by decide, by decide, by decide, rfl, nofun,
    by decide⟩

theorem witness_AReportLengthensTheOpenRecord : dipping.evd.Regular ∧ dipping.evd.context .dip = some aDip ∧
    conditionHolds (phasesAfter dipping.evd.phases dipping.svc.active (lowReport ⟨600, 0⟩)) .dip = true ∧
    aDip.elapsed + (dipping.evd.lastBoundary.map (fun b => tickSpan b.tick 9#32)).getD 0 <
      dipping.svc.active.lmax * 32768 ∧
    let reached := { lowReport ⟨600, 0⟩ with tick := 10#32 }
    conditionHolds (phasesAfter dipping.evd.phases dipping.svc.active reached) .dip = true ∧
    dipping.svc.active.lmax * 32768 ≤
      aDip.elapsed + (dipping.evd.lastBoundary.map (fun b => tickSpan b.tick reached.tick)).getD 0 ∧
    ∀ k, k ≠ .dip → dipping.evd.context k = none ∧
      conditionHolds (phasesAfter dipping.evd.phases dipping.svc.active reached) k = false :=
  ⟨dipping_regular, rfl, by decide, by decide, by decide, by decide, fun k h =>
    ⟨dipping_alone.2.1 k h, by cases k <;> first | exact absurd rfl h | decide⟩⟩

/-- The clauses on the phase list (R35): at one report L1 leaves, L2 joins and L3 takes no part, and the dip goes on; and a
phase that is out and no longer wired. -/
theorem witness_PhaseListGoesOn :
    let moved := { lowReport ⟨600, 0⟩ with values := ⟨some ⟨9500, false, 0⟩, some ⟨300, false, 0⟩, some ⟨10000, false, 0⟩⟩ }
    let phases := phasesAfter dipping.evd.phases dipping.svc.active moved
    conditionHolds phases .dip = true ∧ takingPart phases .dip = [.l2] ∧ aDip.phases.map PhaseEntry.phase = [.l1] ∧
    (∃ e ∈ aDip.phases, e.phase = .l1 ∧ e.out = true) ∧
    let dropped := { moved with values := { moved.values with l1 := none } }
    conditionHolds (phasesAfter dipping.evd.phases dipping.svc.active dropped) .dip = true ∧ dropped.values.get .l1 = none := by
  decide

theorem witness_ExtremeIsTheStrictestValueReached : dipping.evd.phases.get .l1 = some ⟨.low, true⟩ ∧
    (PhaseState.mk .low true).takesPart aDip.kind = true ∧
    (lowReport ⟨600, 0⟩).values.get .l1 = some ⟨300, false, 192 * 90000⟩ ∧ aDip.extreme = some ⟨300, .l1⟩ ∧
    (let fresh := { aDip with extreme := none }
     fresh.extreme = none ∧ (fresh.progress dipping.evd.phases (lowReport ⟨600, 0⟩)).extreme = some ⟨300, .l1⟩) ∧
    -- below, at and above the extreme held; two phases that tie; no phase taking part
    [299, 300, 301].map (fun v => (aDip.progress dipping.evd.phases (levelReport v)).extreme.map Extreme.value) =
      [some 299, some 300, some 300] ∧
    (let both : PerPhase (Option PhaseState) := ⟨none, some ⟨.low, true⟩, some ⟨.low, true⟩⟩
     (aDip.progress both (levelReport 299)).extreme = some ⟨299, .l2⟩ ∧
     (aDip.progress both (levelReport 299)).chainExtreme = some ⟨299, .l2⟩) ∧
    (aDip.progress ⟨some ⟨.normal, false⟩, none, none⟩ (levelReport 299)).extreme = aDip.extreme ∧
    ({ aDip with kind := .swell }.progress ⟨some ⟨.high, false⟩, none, none⟩ (levelReport 301)).extreme = some ⟨301, .l1⟩ := by
  decide

theorem witness_EvlListsTheOpenRecords : dipping.LinkFree ∧ wellFormedFields [] = true ∧ wellFormedFields [['1']] = true :=
  ⟨⟨.inl rfl, rfl, rfl, rfl⟩, by decide, by decide⟩

/-! ## Hypotheses met: windows, intervals and frequency -/

/-- The window in progress holds so many boundaries. -/
def withWindow (count : Nat) (s : State) : State := { s with iva := { s.iva with
  window := some { Window.begin .hz50 with count := count, samples := 192 * count } } }

theorem witness_WindowEndsAtItsFullCount :
    measuring.iva.interval = some (Interval.begin 600 IntervalMarks.none) ∧ measuring.iva.pendingStep = false ∧
    measuring.iva.resumed = false ∧ (lowReport ⟨1199, 999⟩).time.seconds < 600 + 600 ∧
    (∃ w, (withWindow 18 measuring).iva.window = some w ∧ w.count + 1 < w.full) ∧
    ∃ w, (withWindow 19 measuring).iva.window = some w ∧ ¬ w.count + 1 < w.full :=
  ⟨rfl, rfl, rfl, by decide, ⟨_, rfl, by decide⟩, _, rfl, by decide⟩

/-- A period in progress of so many cycles over 10 s of ticks. -/
def withPeriod (startMark cycles : Nat) (s : State) : State := { s with iva := { s.iva with
  period := some ⟨startMark, cycles, some (0#32, 327680#32), PeriodReasons.none⟩ } }

/-- The clauses on a window that begins (R54) and on its item, with a period that is not due. -/
theorem witness_WindowsBeginAndAreHandedOn : measuring.iva.window = none ∧ measuring.svc.active.fn = .hz50 ∧
    ({ measuring with svc := { measuring.svc with active := { measuring.svc.active with fn := .hz60 } } } : State).svc.active.fn
      = .hz60 ∧
    ∃ d, (withPeriod 1190 500 (withWindow 19 measuring)).iva.period = some d ∧
      (lowReport ⟨1199, 999⟩).time.seconds < d.startMark + 10 := ⟨rfl, rfl, rfl, _, rfl, by decide⟩

theorem witness_IntervalClosesAtItsEndMark :
    measuring.iva.interval = some (Interval.begin 600 IntervalMarks.none) ∧ measuring.iva.pendingStep = false ∧
    measuring.iva.resumed = false ∧ 600 + 600 ≤ (lowReport ⟨1200, 0⟩).time.seconds ∧ recordTaken measuring = true := by
  decide +kernel

/-- The clauses on what the interval takes as it closes: no period, one not due, one due and not valid, one due and valid;
and on the notice. -/
theorem witness_PeriodsAndNoticesAtTheEndMark : measuring.iva.period = none ∧
    (∃ d, (withPeriod 1191 500 measuring).iva.period = some d ∧ (lowReport ⟨1200, 0⟩).time.seconds < d.startMark + 10) ∧
    (∃ d, (withPeriod 1190 500 measuring).iva.period = some d ∧ d.startMark + 10 ≤ (lowReport ⟨1200, 0⟩).time.seconds ∧
      (d.value .hz50).valid = true ∧ (d.value .hz50).value = some 50000) ∧
    (∃ d, (withPeriod 1190 0 measuring).iva.period = some d ∧ (d.value .hz50).valid = false) ∧
    let told := { measuring with hlk := { measuring.hlk with
      settings := { LinkSettings.factory with mask := { LinkSettings.factory.mask with ivc := true } }
      transmitter := .reply [] [] } }
    told.hlk.settings.mask.ivc = true ∧ told.hlk.transmitter ≠ .idle ∧ told.hlk.notices.length < 16 :=
  ⟨rfl, ⟨_, rfl, by decide⟩, ⟨_, rfl, by decide, by decide +kernel, by decide +kernel⟩, ⟨_, rfl, by decide +kernel⟩, rfl, nofun,
    by decide⟩

/-- A pending step, or the indication of a resume, at the next boundary. -/
def broken (step resumed : Bool) : State := { measuring with iva := { measuring.iva with
  pendingStep := step
  resumed := resumed } }

theorem witness_StepAndResumeReopenTheInterval :
    (∃ i, (broken true false).iva.interval = some i) ∧ (broken true false).iva.pendingStep = true ∧
    (∃ i, (broken false true).iva.interval = some i ∧ i.startMark + 600 ≤ (lowReport ⟨1200, 0⟩).time.seconds ∧
      (lowReport ⟨1199, 999⟩).time.seconds < i.startMark + 600) ∧
    (broken false true).iva.pendingStep = false ∧ (broken false true).iva.resumed = true ∧
    -- the mark opened: the next one, with none skipped, and the one after it, with one skipped
    (lowReport ⟨1799, 999⟩).time.seconds / 600 * 600 = 600 + 600 ∧ 600 + 600 < (lowReport ⟨1800, 0⟩).time.seconds / 600 * 600 :=
  ⟨⟨_, rfl⟩, rfl, ⟨_, rfl, by decide, by decide⟩, rfl, rfl, by decide, by decide⟩

/-- The clauses on the period that ends into the interval: none, one with a valid value, and one without; and a window in
progress, with a reason for its flag. -/
theorem witness_BrokenIntervalsTakeTheirPeriod : ∀ step resumed, (broken step resumed).iva.period = none ∧
    (∃ d, (withPeriod 1190 500 (broken step resumed)).iva.period = some d ∧ (d.value .hz50).valid = true ∧
      (d.value .hz50).value = some 50000) ∧
    (∃ d, (withPeriod 1190 0 (broken step resumed)).iva.period = some d ∧ (d.value .hz50).valid = false) ∧
    ∃ w, (withWindow 19 (broken step resumed)).iva.window = some w ∧ w.count = 19 :=
  fun _ _ => ⟨rfl, ⟨_, rfl, by decide +kernel, by decide +kernel⟩, ⟨_, rfl, by decide +kernel⟩, _, rfl, rfl⟩

theorem witness_FrequencyIsTheNearestMillihertzInRange :
    let p (cycles : Nat) : Period := ⟨0, cycles, some (0xFFFFFFFF#32, 327679#32), PeriodReasons.none⟩
    0 < (p 425).cycles ∧ (p 425).ticks = some (0xFFFFFFFF#32, 327679#32) ∧ 0xFFFFFFFF#32 ≠ 327679#32 ∧
    ((p 425).value .hz50).value = some 42500 ∧ ((p 424).value .hz50).outOfRange = true ∧
    ((p 425).value .hz50).outOfRange = false := by decide +kernel

/-- An interval of one window with one frequency. -/
def oneWindow : Interval := { Interval.begin 600 IntervalMarks.none with
  windows := 1
  phases := ⟨⟨81000000, some (9000, 9000)⟩, ⟨100000000, some (10000, 10000)⟩, ⟨100000000, some (10000, 10000)⟩⟩
  frequencyCount := 1
  frequencySum := 50000
  frequencyRange := some (50000, 50000) }

theorem witness_IntervalValidityFollowsTheMarks : (Interval.begin 600 IntervalMarks.none).windows = 0 ∧
    (Interval.begin 600 IntervalMarks.none).frequencyCount = 0 ∧ oneWindow.windows ≠ 0 ∧
    (oneWindow.phases.get .l1).range = some (9000, 9000) ∧ oneWindow.frequencyCount ≠ 0 ∧
    oneWindow.frequencyRange = some (50000, 50000) ∧ (oneWindow.record ⟨1200, 0⟩ false measuring).spread = 1000 := by
  decide +kernel

theorem witness_MvhMvwAndMvfReportTheLatestValues : running.LinkFree ∧ wellFormedFields [] = true ∧
    wellFormedFields [['1']] = true := ⟨running_free, by decide, by decide⟩

/-! ## Hypotheses met: tally bank -/

theorem witness_EveryCommandKeepsTheBankRegular : running.Sized ∧ running.tlb.survey.Ordered ∧
    (∃ t, exec (.tlx ["ALL".toList]) running = .next t) ∧ ∃ t, step running = .next t :=
  ⟨running_sized, ⟨by decide, by decide, by decide, by decide⟩, ⟨_, rfl⟩, _, rfl⟩

/-- The clauses on a boundary: inside the period, at its end mark with a valid value, after a step, past a resume, and the
first one (R66, R68, R69, R71). -/
theorem witness_PeriodsAreTakenAndEnded :
    (∃ p, (withPeriod 1190 499 measuring).iva.period = some p ∧ ¬ p.startMark + 10 ≤ (lowReport ⟨1199, 999⟩).time.seconds ∧
      p.startMark + 10 ≤ (lowReport ⟨1200, 0⟩).time.seconds ∧ (p.value .hz50).valid = true ∧
      (∃ v, (p.value .hz50).value = some v)) ∧
    measuring.iva.interval.any (fun i => i.startMark + 600 ≤ 1199) = false ∧ measuring.iva.interval.isNone = false ∧
    (withPeriod 1190 499 measuring).iva.pendingStep = false ∧ (broken true false).iva.pendingStep = true ∧
    (broken false true).iva.resumed = true ∧ measuring.iva.interval.any (fun i => i.startMark + 600 ≤ 1200) = true ∧
    running.iva.interval = none :=
  ⟨⟨_, rfl, by decide, by decide, by decide +kernel, ⟨_, rfl⟩⟩, by decide, rfl, rfl, rfl, rfl, by decide, rfl⟩

/-- A cell that counts L1 below 9000 bp, at a count. -/
def counting (count : Nat) : GeneralCell :=
  ⟨⟨true, .half, none, some (.one .l1), .below, 9000, .level, .all, 5⟩, count, false, false, false, false⟩

/-- Cells 0, 10 and 11 enabled, with the bank COUNTING or FROZEN. -/
def tallying (frozen : Bool) : State := { running with tlb := { running.tlb with
  frozen := frozen
  cells := counting 4 :: List.replicate 9 GeneralCell.cold ++ [counting 16777214, counting 16777215] } }

theorem witness_GeneralCellTakesAnItem : (tallying false).Sized ∧
    (let item := Item.half (lowReport ⟨600, 0⟩)
     ∀ n ∈ [0, 10, 11], n < 12 ∧ (cellAt (tallying false).tlb n).config.enabled = true ∧
       (cellAt (tallying false).tlb n).config.source = item.source ∧
       (cellAt (tallying false).tlb n).config.met item = true) ∧
    (cellAt (tallying false).tlb 10).count < 16777215 ∧ 16777215 ≤ (cellAt (tallying false).tlb 11).count ∧
    (cellAt (tallying true).tlb 1).config.enabled = false ∧ (tallying true).tlb.frozen = true :=
  ⟨⟨by decide, by decide, by decide, by decide, List.length_replicate⟩, by decide, by decide, by decide, by decide, rfl⟩

/-- The clause on the TKN notice (R82): cell 0 reaches its mark, and no other; and the two cases of a posted notice (R192,
R194), with room for one more and without. -/
theorem witness_NoticesArePosted :
    (let taken := handItem (.half (lowReport ⟨600, 0⟩)) (tallying false)
     (cellAt taken.tlb 0).count = 5 ∧ (cellAt taken.tlb 10).count = 16777215 ∧ (counting 16777214).config.mark = 5) ∧
    (tallying false).hlk.transmitter = .idle ∧ (tallying false).hlk.notices.length + 12 ≤ 16 ∧
    (∀ count ∈ [15, 16], let s := { tallying false with hlk := { running.hlk with
        transmitter := .reply [] []
        notices := List.replicate count ⟨.tkn, []⟩ } }
      s.hlk.transmitter ≠ .idle ∧ s.hlk.notices.length = count ∧ s.LinkFree) ∧
    noticeJoins LinkSettings.factory.mask (List.replicate 15 ⟨.tkn, []⟩) ⟨.evo, []⟩ =
      List.replicate 15 ⟨.tkn, []⟩ ++ [⟨.evo, []⟩] ∧
    noticeJoins LinkSettings.factory.mask (List.replicate 16 ⟨.tkn, []⟩) ⟨.evo, []⟩ = List.replicate 16 ⟨.tkn, []⟩ :=
  ⟨by decide +kernel, rfl, by decide, fun count h => ⟨nofun, by simp, ⟨.inl rfl, rfl, rfl, rfl⟩⟩, by decide, by decide⟩

/-- The clauses on the test and the exclusion, source by source: at and past the threshold, and a flagged window (R79, R80). -/
theorem witness_TestsAndExclusionsBySource :
    let cell (source : CellSource) (kind : Option EventKind) (selector : Option Selector) : CellConfig :=
      ⟨true, source, kind, selector, .below, 9000, .level, .validOnly, 0⟩
    let values (v : Nat) : PerPhase (Option Nat) := ⟨some v, some 9500, none⟩
    (cell .win none (some .any)).met (.win (values 8999) true 600) = true ∧
    (cell .win none (some .all)).met (.win (values 8999) true 600) = false ∧
    (cell .int none (some (.one .l1))).met (.int (values 9000) true true 600) = false ∧
    (cell .int none (some (.one .l3))).met (.int (values 8999) true true 600) = false ∧
    (cell .frq none none).met (.frq 600 (some 8999) true false) = true ∧
    (cell .frq none none).met (.frq 600 none false false) = false ∧
    (cell .evt (some .dip) none).met (.evt ⟨.dip, 7#32, .ended, ⟨600, 0⟩, 10, ⟨8999, .l1⟩, 0⟩) = true ∧
    (cell .evt (some .dip) none).met (.evt ⟨.swell, 7#32, .ended, ⟨600, 0⟩, 10, ⟨8999, .l1⟩, 0⟩) = false ∧
    (Item.win (values 8999) true 600).excluded = true ∧ (Item.win (values 8999) false 600).excluded = false ∧
    (Item.int (values 8999) false true 600).excluded = true := by decide

theorem witness_ChainIsSortedIntoItsCell : Tlb.cold.frozen = false ∧ Tlb.cold.dip.counts.length = 24 ∧
    Tlb.cold.swell.counts.length = 18 ∧ Tlb.cold.pair.counts.length = 2 ∧
    [200, 201, 500, 501, 1000, 1001, 5000, 5001, 60000, 60001].map durationColumn = [0, 1, 1, 2, 2, 3, 3, 4, 4, 5] ∧
    (tallying true).tlb.frozen = true := by
  decide

theorem witness_TlfTluAndTlmServeTheBank : running.LinkFree ∧ wellFormedFields [] = true ∧
    wellFormedFields [['1']] = true ∧ [['1']] ≠ ["DIP".toList] ∧ [['1']] ≠ ["SWELL".toList] ∧ [['1']] ≠ ["INT".toList] :=
  ⟨running_free, by decide, by decide, by decide, by decide, by decide⟩

theorem witness_TlcTlrAndTlxServeTheCells : running.LinkFree ∧
    (let g := (counting 0).config
     g.inRange running.svc.active.wiring = true ∧ (g.kind.isSome ↔ g.source = .evt) ∧
     (g.selector.isSome ↔ g.source ≠ .frq ∧ g.source ≠ .evt) ∧
     wellFormedFields [num 11, "ON".toList, g.source.text, optText cellKindText g.kind, optText Selector.text g.selector,
       g.comparison.text, num g.threshold, g.mode.text, g.policy.text, num g.mark] = true) ∧
    let e : CellConfig := ⟨true, .evt, some .dip, none, .below, 1000, .level, .all, 0⟩
    e.inRange running.svc.active.wiring = true ∧ (e.kind.isSome ↔ e.source = .evt) ∧
    (e.selector.isSome ↔ e.source ≠ .frq ∧ e.source ≠ .evt) ∧
    wellFormedFields ["ON".toList] = true ∧ readTlcFields ["ON".toList] = none ∧ ["ON".toList].length ≠ 10 ∧
    (∀ f, ["ON".toList] = [f] → readNat f = none ∧ ∀ digits, f = 'S' :: digits → readNat digits = none) ∧
    readNat "12".toList = some 12 ∧ readNat "6".toList = some 6 :=
  ⟨running_free, by decide, by decide, by decide, by decide, by decide, by decide, by decide,
    fun f h => by obtain rfl := (List.cons.inj h).1; exact ⟨by decide, nofun⟩, by decide, by decide⟩

/-- The clause on the fields that TLC reads: a keyword of another list, a kind or selector that its source has not, and a number
with a sign are none. -/
theorem witness_TlcReadsItsFields :
    let fields (source kind selector threshold : String) : List Text := [['0'], "ON".toList, source.toList, kind.toList,
      selector.toList, "ABOVE".toList, threshold.toList, "LEVEL".toList, "ALL".toList, ['0']]
    (∃ x, readTlcFields (fields "EVT" "INT" "" "0900") = some x) ∧ (∃ x, readTlcFields (fields "INT" "" "3" "900") = some x) ∧
    readTlcFields (fields "EVT" "INTERRUPTION" "" "900") = none ∧ readTlcFields (fields "EVT" "" "" "900") = none ∧
    readTlcFields (fields "INT" "" "4" "900") = none ∧ readTlcFields (fields "FRQ" "" "ANY" "900") = none ∧
    readTlcFields (fields "HALF" "DIP" "ANY" "900") = none ∧ readTlcFields (fields "HALF" "" "ANY" "-900") = none :=
  ⟨⟨_, rfl⟩, ⟨_, rfl⟩, by decide, by decide, by decide, by decide, by decide, by decide⟩

/-- TLC with a threshold past the range of its source: FRQ to 70,000, the others to 20,000 (R80). -/
theorem witness_TlcPastItsRange : (∀ n ∈ [11, 12], ∀ threshold ∈ [70000, 70001], ∃ g,
    readTlcFields [num n, "ON".toList, "FRQ".toList, [], [], "ABOVE".toList, num threshold, "LEVEL".toList, "ALL".toList,
      "16777215".toList] = some (n, g) ∧ g.threshold = threshold ∧ g.mark = 16777215) := by
  intro n hn threshold ht
  simp only [List.mem_cons, List.not_mem_nil, or_false] at hn ht
  rcases hn with rfl | rfl <;> rcases ht with rfl | rfl <;> exact ⟨_, rfl, rfl, rfl⟩

/-! ## Hypotheses met: settings and surveys -/

theorem witness_AssignmentReadsBack : Setting.o1.inRange (-2048) = true ∧ Setting.o3.inRange 2047 = true ∧
    Setting.fn.inRange 60 = true ∧ Setting.wiring.inRange 1 = true := by decide

/-- The survey context in another state. -/
def withSurvey (state : SurveyState) (s : State) : State := { s with svc := { s.svc with survey :=
  ⟨state, some 600, some 600, some 1, some 600, some 87000, some 9, some 9, some false, some 0⟩ } }

theorem witness_SetIsCheckedAndThenAppliedOrStaged : running.LinkFree ∧ running.OneRequest ∧ measuring.LinkFree ∧
    measuring.OneRequest ∧ wellFormedFields ["TDIP=9100".toList] = true ∧
    (∃ values, readAssignments ["TDIP=9100".toList] = some values) ∧ readAssignments ["TDIP".toList] = none ∧
    (withSurvey .armed running).LinkFree ∧ (∃ values, readAssignments ["HARDLO=9001".toList] = some values ∧
      (∀ nv ∈ values, nv.1.inRange nv.2 = true) ∧ ¬ (running.svc.active.write values).hardlo ≤ 9000) :=
  ⟨running_free, running_oneRequest, measuring_free, measuring_oneRequest, by decide, ⟨_, rfl⟩, by decide,
    ⟨.inl rfl, rfl, rfl, rfl⟩, [(.hardlo, 9001)], by decide, by decide, by decide⟩

/-- The clause on the fields that SET reads: a sign for the offsets alone, any word for WIRING, and no name twice. -/
theorem witness_SetReadsItsFields : readAssignments ["O1=-5".toList, "UD=0230".toList] = some [(.o1, -5), (.ud, 230)] ∧
    readAssignments ["WIRING=W3".toList] = some [(.wiring, 3)] ∧ readAssignments ["WIRING=X".toList] = some [(.wiring, 0)] ∧
    readAssignments ["UD=-5".toList] = none ∧ readAssignments ["O1=".toList] = none ∧ readAssignments ["UX=5".toList] = none ∧
    readAssignments ["UD=5".toList, "UD=6".toList] = none ∧ readAssignments [] = none := by decide

theorem witness_GetReportsTheSettings : running.LinkFree ∧ [Setting.ud, .fn] ≠ [] ∧ [Setting.ud, .fn].Nodup ∧
    wellFormedFields ([Setting.ud, .fn].map Setting.text) = true ∧ (∀ n : Setting, "X".toList ≠ n.text) ∧
    wellFormedFields ["X".toList] = true ∧ ¬ ["UD".toList, "UD".toList].Nodup ∧
    wellFormedFields ["UD".toList, "UD".toList] = true :=
  ⟨running_free, by decide, by decide, by decide, by intro n; cases n <;> decide, by decide, by decide, by decide⟩

/-- The clause on the order of GET STAGED (R97, R100): a SET after another enters its values in that order. -/
theorem witness_StagedSettingsStandInOrder :
    let staged := stageValues [(.tint, 600)] [(.tdip, 9100), (.ud, 2300)]
    staged = [(.ud, 2300), (.tdip, 9100), (.tint, 600)] ∧
    ({ dipping.svc with staged := staged } : Svc).InRange := by
  refine ⟨by decide, fun n => by cases n <;> decide, by decide, by decide⟩

theorem witness_StagedSettingsApplyAsOneGeneration : running.svc.staged = [] ∧
    let staged := withSurvey .running { dipping with svc := { dipping.svc with staged := [(.tdip, 9100)] } }
    staged.svc.staged ≠ [] ∧ staged.svc.survey.state = .running ∧ staged.svc.survey.generationsApplied = some 0 ∧
    ∃ c, (applyStaged staged).evd.context .dip = some c := ⟨rfl, by decide, rfl, rfl, _, rfl⟩

theorem witness_MeaStartsAndHaltsMeasurement : running.LinkFree ∧ running.OneRequest ∧ dipping.LinkFree ∧
    dipping.OneRequest ∧ dipping.evd.Regular ∧ dipping.svc.measuring = true :=
  ⟨running_free, running_oneRequest, ⟨.inl rfl, rfl, rfl, rfl⟩, quiet_oneRequest rfl rfl rfl rfl rfl, dipping_regular, rfl⟩

/-- The clauses on what the halt hands on: with and without a period, a window and an interval, and room for their records. -/
theorem witness_HaltHandsOnWhatIsInProgress :
    let stopped := stopRecords { dipping with hlk := { dipping.hlk with reception := none, inProgress := some .mea } }
    recordTaken stopped = true ∧ stopped.evs.pwq.length ≤ 29 ∧ dipping.evs.state ≠ .scanning ∧ dipping.svc.staged = [] ∧
    (∃ i, dipping.iva.interval = some i) ∧ dipping.iva.window = none ∧ dipping.iva.period = none ∧
    (∃ w, (withWindow 19 dipping).iva.window = some w) ∧ (∃ d, (withPeriod 1190 500 dipping).iva.period = some d) ∧
    let early := { dipping with iva := { dipping.iva with interval := none } }
    early.iva.interval = none ∧ early.svc.measuring = true ∧ early.LinkFree ∧ early.OneRequest :=
  ⟨by decide +kernel, by decide +kernel, by decide, rfl, ⟨_, rfl⟩, rfl, rfl, ⟨_, rfl⟩, ⟨_, rfl⟩, rfl, rfl,
    ⟨.inl rfl, rfl, rfl, rfl⟩, quiet_oneRequest rfl rfl rfl rfl rfl⟩

theorem witness_SvsArmsTheSurvey : measuring.LinkFree ∧ wellFormedFields [num 4294967295, num 1] = true ∧
    wellFormedFields [num 4291942800, num 35] = true ∧ (4291942800 + 599) / 600 * 600 + 35 * 86400 = 4294966800 ∧
    wellFormedFields ["NOW".toList, num 1] = true ∧ measuring.svc.survey.state = .idle ∧ measuring.svc.measuring = true ∧
    ({ measuring with tmb := { measuring.tmb with quality := .free } } : State).tmb.quality ≠ .unset ∧
    measuring.svc.staged = [] ∧ wellFormedFields ["NOW".toList] = true ∧ readNat "NEVER".toList = none ∧
    "NEVER".toList ≠ "NOW".toList :=
  ⟨measuring_free, by decide, by decide, by decide, by decide, rfl, rfl, nofun, rfl, by decide, by decide, by decide⟩

/-- The closure that opens the interval at a mark, taken at that second. -/
def closureAt (mark : Nat) : Closure := ⟨0, 600, ⟨mark, 0⟩, true, false, .endMark, 600, 1, some mark⟩

theorem witness_ClosuresAdvanceTheSurvey :
    (let armed := withSurvey .armed measuring
     armed.svc.survey.state = .armed ∧ (closureAt 600).opened = some 600 ∧ armed.svc.survey.armedMark = some 600 ∧
     armed.svc.survey.days = some 1 ∧ (closureAt 0).opened = some 0) ∧
    let run := withSurvey .running measuring
    run.svc.survey.state = .running ∧ run.svc.survey.endMark = some 87000 ∧ (closureAt 86999).time.seconds < 87000 ∧
    87000 ≤ (closureAt 87000).time.seconds ∧ run.svc.survey.startMark = some 600 ∧ measuring.svc.survey.state ≠ .running ∧
    (∀ p v, (⟨some 9000, some 10000, some 11000⟩ : PerPhase (Option Nat)).get p = some v →
      run.svc.active.bandlo ≤ v ∧ v ≤ run.svc.active.bandhi) ∧
    50000 - 5 * run.svc.active.fband ≤ 50000 + 5 * run.svc.active.fband := by
  refine ⟨by decide, rfl, rfl, by decide, by decide, rfl, nofun, fun p v h => ?_, by decide⟩
  cases p <;> simp [PerPhase.get] at h <;> subst h <;> decide

theorem witness_SvaAndSvrEndTheSurvey :
    (∀ state, (withSurvey state measuring).LinkFree ∧ (withSurvey state measuring).OneRequest) ∧
    wellFormedFields [['1']] = true :=
  ⟨fun _ => ⟨⟨.inl rfl, rfl, rfl, rfl⟩, quiet_oneRequest rfl rfl rfl rfl rfl⟩, by decide⟩

theorem witness_SvqAndSvvReportTheSurvey : running.LinkFree ∧ wellFormedFields [] = true ∧
    wellFormedFields [['1']] = true := ⟨running_free, by decide, by decide⟩

/-! ## Hypotheses met: timebase -/

theorem witness_TisStepsTheClock : dipping.LinkFree ∧ dipping.OneRequest ∧
    wellFormedFields ["4294967295".toList, "999".toList] = true ∧ recordTaken dipping = true ∧
    dipping.svc.measuring = true :=
  ⟨⟨.inl rfl, rfl, rfl, rfl⟩, quiet_oneRequest rfl rfl rfl rfl rfl, by decide, by decide +kernel, rfl⟩

theorem witness_TrfAndTimServeTheTimebase : running.LinkFree ∧ running.OneRequest ∧
    wellFormedFields ["ON".toList] = true ∧
    (∀ (state : Bool) (polarity : Polarity), ["ON".toList] ≠ [if state then "ON".toList else "OFF".toList, polarityText polarity]) ∧
    wellFormedFields [] = true :=
  ⟨running_free, running_oneRequest, by decide, by simp, by decide⟩

/-- The reference enabled, its last pulse at tick 0, at another tick and sub-second count. -/
def disciplined (tick : Tick) (sub : Nat) : State := { running with tmb := { running.tmb with
  enabled := true
  anchor := some 0#32
  watchFrom := some 0#32
  quality := .locked
  tick := tick
  sub := sub } }

theorem witness_PulsesDisciplineTheClock : running.tmb.enabled = false ∧ (disciplined 29490#32 0).tmb.enabled = true ∧
    sampling (disciplined 29490#32 0) = true ∧ (disciplined 29490#32 0).tmb.polarity = .rise ∧
    (disciplined 29490#32 0).tmb.anchorExpired = false ∧ tickSpan 0#32 29490#32 < 29491 ∧ ¬ tickSpan 0#32 29491#32 < 29491 ∧
    ¬ 36045 < tickSpan 0#32 36045#32 ∧ 36045 < tickSpan 0#32 36046#32 ∧ (3277 : Int).natAbs ≤ 3277 ∧
    ¬ ((29490 : Int) - 32768).natAbs ≤ 3277 ∧
    (let last := { disciplined 32000#32 32735 with tmb := { (disciplined 32000#32 32735).tmb with seconds := 4294967295 } }
     last.tmb.enabled = true ∧ ((32735 : Int) - 32768).natAbs = 33 ∧ 4294967295 ≤ last.tmb.seconds) ∧
    (34 : Int).natAbs ≤ 3277 ∧ ¬ (34 : Int).natAbs ≤ 33 ∧
    let third := { disciplined 32768#32 10066 with tmb := { (disciplined 32768#32 10066).tmb with run := [10000, 10030] } }
    third.tmb.run ≠ [] ∧ (∀ x ∈ third.tmb.run ++ [10066], ∀ y ∈ third.tmb.run ++ [10066], x - y ≤ 66) ∧
    ¬ (third.tmb.run ++ [10066]).length < 3 ∧ recordTaken third = true := by decide +kernel

/-- The clauses on the notice of a correction: one that leaves the quality, one that changes it, and one whose clock then lies
behind the last reading given (R123, R128, R136). -/
theorem witness_CorrectionsTellTheQuality :
    (takePulse (disciplined 32768#32 100)).tmb.quality = .locked ∧
    (let free := { disciplined 32768#32 33 with tmb := { (disciplined 32768#32 33).tmb with
       quality := .free
       lastReading := some ⟨0, 1⟩ } }
     free.tmb.quality ≠ .locked ∧ (takePulse free).tmb.quality = .locked ∧ (takePulse free).tmb.lastReading = some ⟨0, 1⟩ ∧
     (takePulse free).tmb.held = true) := by decide +kernel

/-- The clauses on a crystal tick (R121, R122): inside a second, at its end, at the end of the count, in DORMANT and in OFF. -/
theorem witness_CrystalTicksCountOn :
    let at' (power : PowerState) (seconds sub : Nat) : State := { running with
      tmb := { running.tmb with seconds := seconds, sub := sub }
      spm := { running.spm with power := power } }
    (∀ seconds sub, (at' .run seconds sub).spm.power ≠ .off ∧ (at' .run seconds sub).tmb.seconds = seconds ∧
      (at' .run seconds sub).tmb.sub = sub) ∧ 32766 < 32767 ∧ 32767 ≤ 32767 ∧ 4294967294 < 4294967295 ∧
    (at' .dormant 4294967295 32767).spm.power = .dormant ∧ (at' .off 0 0).spm.power = .off :=
  ⟨fun _ _ => ⟨nofun, rfl, rfl⟩, by decide, by decide, by decide, rfl, rfl⟩

/-- R131, R178, R179: the step of a wrap in a warm STARTING is owed, and delivered with the resume, its record before the
RESUMED record and the interval marked (log entry 18). -/
theorem test_wrap_in_a_warm_starting_is_delivered :
    let last := { measuring with
      tmb := { running.tmb with sub := 32767, seconds := 4294967295 }
      spm := { running.spm with power := .starting, startKind := some .warm } }
    (crystalTick last).evs.pwq = [] ∧ (crystalTick last).iva.pendingStep = false ∧
    (warmResume (crystalTick last)).evs.pwq.map Record.kind = [.tim, .pwr] ∧
    (warmResume (crystalTick last)).iva.pendingStep = true ∧ (warmResume (crystalTick last)).tmb.owed = none := by
  decide +kernel

theorem witness_ClockEventsComeAtTheirTicks :
    (let last := { running with tmb := { running.tmb with sub := 32767, seconds := 4294967295 } }
     last.spm.power ≠ .off ∧ last.spm.power ≠ .dormant ∧ last.tmb.sub = 32767 ∧ last.tmb.seconds = 4294967295 ∧
     recordTaken last = true ∧ measuring.svc.measuring = true) ∧
    (let full := atTick 0xFFFFFFFF#32 running
     full.spm.power ≠ .off ∧ full.tmb.tick = 0xFFFFFFFF#32 ∧ full.tmb.sub < 32767) ∧
    (let old := disciplined 36046#32 0
     old.tmb.anchor = some 0#32 ∧ old.tmb.anchorExpired = false ∧ 36045 < tickSpan 0#32 old.tmb.tick) ∧
    let lost := disciplined 98304#32 0
    lost.tmb.watchFrom = some 0#32 ∧ lost.tmb.quality = .locked ∧ sampling lost = true ∧
    98304 ≤ tickSpan 0#32 lost.tmb.tick ∧ lost.hlk.settings.mask.tqn = false ∧
    let masked := { lost with hlk := { lost.hlk with settings := .factory, transmitter := .reply [] [] } }
    masked.hlk.settings.mask.tqn = true ∧ masked.hlk.transmitter ≠ .idle ∧ masked.hlk.notices.length < 16 := by
  decide +kernel

theorem witness_WrapInAWarmStarting : ∀ quality ∈ [Quality.unset, .locked],
    let last := { running with
      tmb := { running.tmb with sub := 32767, seconds := 4294967295, quality := quality }
      spm := { running.spm with power := .starting, startKind := some .warm } }
    last.spm.power = .starting ∧ last.spm.startKind = some .warm ∧ last.tmb.sub = 32767 ∧ last.tmb.seconds = 4294967295 ∧
    last.tmb.quality = quality := fun _ _ => ⟨rfl, rfl, rfl, rfl, rfl⟩

theorem witness_ReadingsNeverRunBackWithoutAStep : (disciplined 0#32 32766).tmb.sub < 32767 ∧
    (disciplined 0#32 3277).tmb.sub ≤ 3277 ∧ 29491 ≤ (disciplined 0#32 29491).tmb.sub ∧
    (disciplined 0#32 29491).tmb.sub < 32768 ∧ (disciplined 0#32 29491).tmb.seconds < 4294967295 := by decide +kernel

/-! ## Hypotheses met: evidence store -/

/-- A record that waits. -/
def aRecord (sequence : Nat) : Record := ⟨sequence, .mea, none, .unset, 0#32, 0#16, ⟨0, 0⟩, measurementPayload true⟩

/-- So many records wait. -/
def queueing (count : Nat) : State := { running with evs := { running.evs with pwq := List.replicate count (aRecord 1) } }

theorem witness_RecordsOfferedAreNumberedOrCounted : recordTaken (queueing 31) = true ∧ recordTaken (queueing 32) = false ∧
    recordTaken State.reset = false := by decide +kernel

theorem witness_CheckTellsAnAlteredByteOrPreset : (0#8 : Byte) ≠ 1#8 ∧ (0#32 : BitVec 32) ≠ 1#32 := by decide

/-- An operation in flight, with two records waiting. -/
def operating (activity : Activity) (state : StoreState) (failures erased : Nat) : State := { running with evs := { running.evs with
  activity := activity
  state := state
  failures := failures
  erasedCount := erased
  pwq := [aRecord 1, aRecord 2] } }

theorem operating_plain (a : Activity) (st : StoreState) (f e : Nat) : (operating a st f e).PlainCompletion :=
  ⟨rfl, rfl, rfl, rfl⟩

theorem operating_sized (a : Activity) (st : StoreState) (f e : Nat) : (operating a st f e).Sized :=
  ⟨running_sized.cells, running_sized.dip, running_sized.swell, running_sized.pair, running_sized.sectors⟩

/-- The next sector due, and all its records protected. -/
def heldBack (s : State) : State := { s with evs := { s.evs with
  due := some 1
  protectionStart := some 9
  sectors := s.evs.sectors.set 1 ⟨.closed, some 9, 1, []⟩ } }

theorem witness_ProgramCompletionStoresOrRetries :
    (∀ slot ∈ [31, 32767], ∀ st ∈ [StoreState.ready, .erasingAll], ∀ failures ∈ [0, 1],
      let s := operating (.program slot [] 0#32) st failures 0
      s.evs.activity = .program slot [] 0#32 ∧ s.evs.pwq = aRecord 1 :: [aRecord 2] ∧ s.PlainCompletion ∧ s.Sized ∧
      slot < 32768 ∧ s.evs.failures = failures ∧ s.evs.state = st) ∧
    (let s := heldBack (operating (.program 31 [] 0#32) .ready 0 0)
     31 % 32 = 31 ∧ (sectorAt s.evs 1).condition = .closed ∧ s.evs.due = some 1 ∧ (sectorAt s.evs 1).first = some 9 ∧
     0 < (sectorAt s.evs 1).valid ∧ s.evs.protectionStart = some 9) ∧ ([0#8] : List Byte) ≠ [] := by
  refine ⟨?_, by decide +kernel, by decide⟩
  intro slot hslot st _ failures _
  exact ⟨rfl, rfl, operating_plain _ _ _ _, operating_sized _ _ _ _, by simp at hslot; omega, rfl, rfl⟩

/-- Whatever waits for a completion: an STE, a commitment, the end of the drain, or a start that is given up. -/
def awaiting (ste committed commitWaiting abort : Bool) (state : StoreState) (records : List Record) (supply backup : Indication) :
    State := { running with
  evs := { running.evs with steWaiting := ste, state := state, pwq := records }
  hlk := { running.hlk with
    inProgress := if ste then some .ste else none
    transmitter := .notice ⟨.tkn, []⟩ [] }
  spm := { running.spm with
    supply := supply
    backup := backup
    committed := committed
    commitWaiting := commitWaiting
    abortPending := abort
    startKind := if abort then some .cold else none } }

/-- The clauses on what follows a completion (R161, R172, R173, R178, R180). -/
theorem witness_CompletionsBringWhatWaits :
    (∀ committed commitWaiting abort state records supply backup,
      let u := awaiting true committed commitWaiting abort state records supply backup
      u.evs.steWaiting = true ∧ u.hlk.inProgress = some .ste ∧ u.evs.state = state ∧ u.hlk.transmitter ≠ .idle) ∧
    (∀ committed commitWaiting state records supply backup,
      let u := awaiting false committed commitWaiting false state records supply backup
      u.evs.steWaiting = false ∧ u.spm.abortPending = false ∧ u.spm.commitWaiting = commitWaiting ∧
      u.spm.committed = committed ∧ u.evs.pwq = records ∧ u.evs.state = state ∧ u.spm.supply = supply ∧
      u.spm.backup = backup) ∧
    (∀ state records supply backup,
      let u := awaiting false false false true state records supply backup
      u.spm.abortPending = true ∧ u.spm.startKind ≠ some .warm ∧ u.spm.supply = supply ∧ u.spm.backup = backup) ∧
    (awaiting true false false false .ready [] .good .good).evs.protectionStart = none ∧
    (awaiting true false false false .ready [] .good .good).evs.writePosition < 32768 ∧
    (awaiting true false false false .ready [] .good .good).evs.oldest = none ∧
    (heldBack (awaiting true false false false .ready [] .good .good)).evs.protectionStart ≠ none ∧
    let told := { awaiting false true true false .ready [] .failed .good with hlk := { running.hlk with
      settings := .factory
      transmitter := .reply [] [] } }
    told.hlk.settings.mask.pwn = true ∧ told.hlk.transmitter ≠ .idle ∧ told.hlk.notices.length < 16 :=
  ⟨fun _ _ _ _ _ _ _ => ⟨rfl, rfl, rfl, nofun⟩, fun _ _ _ _ _ _ => ⟨rfl, rfl, rfl, rfl, rfl, rfl, rfl, rfl⟩,
    fun _ _ _ _ => ⟨rfl, nofun, rfl, rfl⟩, rfl, by decide, rfl, nofun, rfl, nofun, by decide⟩

/-- The store's stored records begin at slot 0 with sequence 4; a last read may be kept. -/
def stored (lastRead oldest : Option Nat) : State := { running with evs := { running.evs with
  lastRead := lastRead
  oldest := oldest
  oldestSequence := oldest.map (fun _ => 4)
  medium := [(0, 0#8), (1, 0#8), (2, 0#8), (3, 4#8)]
  writePosition := 2
  lastStored := some 5
  lastIssued := some 5
  sectors := running.evs.sectors.set 0 ⟨.writing, some 4, 2, []⟩ } }

/-- A medium that is IDLE, in a store state and mode, with what waits. -/
def choosing (state : StoreState) (mode : StoreMode) (records : List Record) (read : Option ReadRequest) (erased : Nat) : State :=
  { running with evs := { running.evs with
    state := state
    mode := mode
    pwq := records
    waitingRead := read
    due := some 1
    erasedCount := erased
    sectors := running.evs.sectors.set 1 ⟨.closed, some 9, 1, []⟩ } }

/-- The clauses on the choice of the next operation (R148, R149, R151, R156, R162). -/
theorem witness_IdleMediumChooses :
    (∀ state mode records read erased, let s := choosing state mode records read erased
      s.evs.activity = .idle ∧ s.spm.abortPending = false ∧ s.spm.power = .run ∧ s.evs.state = state ∧ s.evs.mode = mode ∧
      s.evs.pwq = records ∧ s.evs.waitingRead = read ∧ s.spm.committed = false ∧ s.evs.due = some 1 ∧
      s.evs.erasedCount = erased ∧ (sectorAt s.evs 1).first = some 9 ∧ 0 < (sectorAt s.evs 1).valid) ∧
    (let s := choosing .ready .normal [aRecord 1] (some ⟨.raw, 1⟩) 1023
     s.evs.protectionStart = none ∧ (sectorAt s.evs (s.evs.writePosition / 32)).condition ≠ .closed ∧
     (∃ image, locate s.evs 1 = .pending image) ∧ locate s.evs 2 = .unavailable) ∧
    (∀ p ∈ [9, 10], ∃ s : State, s.evs.protectionStart = some p ∧ s.evs.due = some 1 ∧ (sectorAt s.evs 1).first = some 9 ∧
      eraseHeld s.evs 1 = decide (p ≤ 9)) ∧
    locate (stored none (some 0)).evs 4 = .slot 0 := by
  refine ⟨fun _ _ _ _ _ => ⟨rfl, rfl, rfl, rfl, rfl, rfl, rfl, rfl, rfl, rfl, rfl, show 0 < 1 by decide⟩,
    ⟨rfl, by decide, ⟨_, rfl⟩, by decide +kernel⟩, fun p h => ⟨{ choosing .ready .normal [] none 0 with
      evs := { (choosing .ready .normal [] none 0).evs with protectionStart := some p } }, rfl, rfl, rfl, ?_⟩, by decide +kernel⟩
  simp at h
  rcases h with rfl | rfl <;> decide

theorem witness_EraseCompletionFreesTheSector :
    (∀ sector ∈ [0, 1023], ∀ erased ∈ [1022, 1023],
      let s := operating (.erase sector) .erasingAll 0 erased
      s.evs.activity = .erase sector ∧ s.PlainCompletion ∧ s.Sized ∧ sector < 1024 ∧ s.evs.state ≠ .scanning ∧
      s.evs.erasedCount = erased ∧ s.evs.pwq.length < 32) ∧
    (operating (.erase 0) .ready 0 0).evs.state ≠ .erasingAll ∧ 4095 < 4096 ∧ (0xFE#8 : Byte) ≠ 0xFF#8 ∧
    (let held := (stored none (some 0)).evs
     held.oldest.map (fun x => x / 32) = some 0 ∧ (sectorAt held 1).valid = 0 ∧
     0 < (sectorAt { held with sectors := held.sectors.set 1 ⟨.closed, some 6, 1, []⟩ } ((0 + 1) % 1024)).valid) ∧
    (∀ found : Recovery,
      let scan := { State.reset with evs := { Evs.cold [] with activity := .erase 3, due := some 3, recovery := found } }
      scan.evs.activity = .erase 3 ∧ scan.evs.state = .scanning ∧ scan.spm.abortPending = false ∧ scan.evs.pwq = [] ∧
      scan.evs.due = some 3 ∧ scan.Sized ∧ scan.evs.recovery = found) ∧
    let scan := { State.reset with evs := { Evs.cold [] with activity := .erase 3, due := some 3 } }
    let given := { scan with spm := { scan.spm with abortPending := true } }
    given.evs.activity = .erase 3 ∧ given.spm.abortPending = true ∧ given.Sized := by
  refine ⟨?_, by decide, by decide, by decide, by decide +kernel, fun _ => ⟨rfl, rfl, rfl, rfl, rfl,
    ⟨running_sized.cells, running_sized.dip, running_sized.swell, running_sized.pair, List.length_replicate⟩, rfl⟩, rfl, rfl,
    ⟨by decide, by decide, by decide, by decide, List.length_replicate⟩⟩
  intro sector h erased _
  exact ⟨rfl, operating_plain _ _ _ _, operating_sized _ _ _ _, by simp at h; omega, by simp [operating], rfl,
    by simp [operating]⟩

/-- A read of sequence 5 in slot 7 is in flight for the command RDR. -/
def readingSlot (form : ReadForm) : State := { running with
  evs := { running.evs with activity := .read 7 ⟨form, 5⟩ }
  hlk := { running.hlk with inProgress := some .rdr } }

theorem witness_SlotReadAnswersTheCommand : ∀ form, (readingSlot form).evs.activity = .read 7 ⟨form, 5⟩ ∧
    (readingSlot form).hlk.inProgress = some .rdr ∧ (readingSlot form).OneRequest ∧ (readingSlot form).PlainCompletion := by
  intro form
  refine ⟨rfl, rfl, ?_, rfl, rfl, rfl, rfl⟩
  exact ⟨fun h => absurd rfl h, fun _ _ _ => ⟨.inl rfl, rfl⟩, nofun, fun _ => rfl, fun h _ => absurd rfl h, nofun⟩

theorem witness_RecordReadsAreLocated :
    (∀ lastRead oldest, (stored lastRead oldest).LinkFree ∧ (stored lastRead oldest).OneRequest) ∧
    locate (stored none (some 0)).evs 4 = .slot 0 ∧ locate (stored none (some 0)).evs 6 = .unavailable ∧
    (∃ image, locate (queueing 1).evs 1 = .pending image) ∧ (stored none (some 0)).evs.oldestSequence = some 4 ∧
    (stored (some 4) (some 0)).evs.lastRead = some 4 ∧ (stored none none).evs.oldestSequence = none ∧
    wellFormedFields [num 4294967295] = true ∧ readNat (num 4294967296) = some 4294967296 ∧
    wellFormedFields ["X".toList] = true ∧ (∀ f, ["X".toList] = [f] → readNat f = none) := by
  refine ⟨fun _ _ => ⟨⟨.inl rfl, rfl, rfl, rfl⟩, quiet_oneRequest rfl rfl rfl rfl rfl⟩, by decide +kernel, by decide +kernel,
    ⟨_, rfl⟩, rfl, rfl, rfl, by decide, by decide, by decide, fun f h => ?_⟩
  obtain rfl := (List.cons.inj h).1
  decide

/-- The clauses on a medium read that is asked for (R148, R162): by the store state, the mode, the commitment, the due erase
and what waits, IDLE or with an operation in flight. -/
theorem witness_ReadsComeAtTheChoice :
    (∀ state mode committed due records erased,
      let s := { stored none (some 0) with
        evs := { (stored none (some 0)).evs with state := state, mode := mode, due := due, pwq := records, erasedCount := erased }
        spm := { running.spm with committed := committed } }
      s.LinkFree ∧ s.OneRequest ∧ s.evs.activity = .idle ∧ s.spm.abortPending = false ∧ s.evs.state = state ∧
      s.evs.mode = mode ∧ s.spm.committed = committed ∧ s.evs.due = due ∧ s.evs.pwq = records ∧
      s.evs.erasedCount = erased ∧ (∀ d, eraseHeld s.evs d = false)) ∧
    (sectorAt (stored none (some 0)).evs ((stored none (some 0)).evs.writePosition / 32)).condition ≠ .closed ∧
    (let s := { stored none (some 0) with evs := { (stored none (some 0)).evs with pwq := [aRecord 6] } }
     locate s.evs 4 = .slot 0 ∧ s.evs.pwq ≠ []) ∧
    let busy := { stored none (some 0) with evs := { (stored none (some 0)).evs with activity := .program 2 [] 0#32 } }
    busy.LinkFree ∧ busy.OneRequest ∧ busy.evs.activity ≠ .idle :=
  ⟨fun _ _ _ _ _ _ => ⟨⟨.inl rfl, rfl, rfl, rfl⟩, quiet_oneRequest rfl rfl rfl rfl rfl, rfl, rfl, rfl, rfl, rfl, rfl, rfl, rfl,
      fun _ => rfl⟩, by decide +kernel, by decide +kernel, ⟨.inl rfl, rfl, rfl, rfl⟩,
    ⟨fun h => absurd rfl h, nofun, nofun, fun _ => rfl, fun h _ => absurd rfl h, nofun⟩, nofun⟩

/-- The clauses on where a sequence stands: behind a record of the queue, in a slot, and missing. -/
theorem witness_SequencesStandSomewhere :
    (operating .idle .ready 0 0).evs.pwq = [aRecord 1] ++ aRecord 2 :: [] ∧ (∀ y ∈ [aRecord 1], y.sequence ≠ 2) ∧
    let e := (stored none (some 0)).evs
    e.pwq = [] ∧ e.oldestSequence = some 4 ∧ e.lastStored = some 5 ∧ e.missing = [] ∧ (sectorAt e 0).first = some 4 ∧
    (∀ n, n ≠ 0 → (sectorAt e n).first = none) ∧ (∃ run ∈ [(4, 4)], run.1 ≤ 4 ∧ 4 ≤ run.2) :=
  ⟨rfl, by decide, rfl, rfl, rfl, rfl, rfl, fun n h => by
    have empty : ((List.replicate 1024 Sector.empty)[n]?).getD Sector.empty = Sector.empty := by
      rw [List.getElem?_replicate]; split <;> rfl
    show ((((List.replicate 1024 Sector.empty).set 0 _)[n]?).getD Sector.empty).first = none
    rw [List.getElem?_set_ne h.symm, empty]
    rfl, (4, 4), by decide, by decide⟩

/-- The cold start's scan in flight over an erased medium. -/
def scanning : State := { State.reset with
  evs := { Evs.cold [] with activity := .scan }
  spm := { State.reset.spm with qualification := none } }

theorem witness_ScanEndsTheColdStart : scanning.evs.activity = .scan ∧ scanning.evs = { Evs.cold [] with activity := .scan } ∧
    scanning.spm.power = .starting ∧ scanning.spm.startKind = some .cold ∧ scanning.spm.coldReason = some .powerUp ∧
    scanning.spm.abortPending = false := ⟨rfl, rfl, rfl, rfl, rfl, rfl⟩

/-- The clauses on the notices of a cold start, where the transmitter is busy: READY, FULL and FAULT at the end of the scan. -/
theorem witness_ColdStartsTell :
    let busy := { scanning with hlk := { scanning.hlk with transmitter := .reply [] [] } }
    busy.hlk.transmitter ≠ .idle ∧ busy.evs.activity = .scan ∧ scanning.hlk.transmitter = .idle ∧
    scanning.hlk.notices.length + 3 ≤ 16 ∧ scanning.evs.recovery.survey = none :=
  ⟨nofun, rfl, rfl, by decide, rfl⟩

/-- A medium whose slot 0 holds record 1, a measurement record, and the same with a void slot in the next sector. -/
def programmed : Memory := [(0, 0#8), (1, 0#8), (2, 0#8), (3, 1#8), (4, 2#8), (5, 0#8), (6, 0#8), (7, 0#8)]

/-- The same scan over a medium. -/
def scanningOver (m : Memory) : State := { scanning with evs := { scanning.evs with medium := m } }

theorem witness_ScanOfAProgrammedMedium :
    (∀ m, (scanningOver m).evs.activity = .scan ∧ (scanningOver m).evs.state = .scanning ∧ (scanningOver m).evs.pwq = [] ∧
      (scanningOver m).hlk.settings.mask.stn = false ∧ (scanningOver m).spm.power = .starting ∧
      (scanningOver m).evs.medium = m ∧ (scanningOver m).hlk.transmitter = .idle) ∧
    programmed.wf = true ∧ Memory.wf (programmed ++ [(4096, 0#8)]) = true ∧
    (walkRing programmed (programmedSlots programmed)).valid = [0] ∧
    (let both := programmed ++ [(4096, 0#8)]
     programmedSlots both = [0, 32] ∧ (walkRing both (programmedSlots both)).valid = [0]) ∧
    slotWellFormed (programmed.slot 0) = true ∧ slotWellFormed (programmed.slot 32) = false :=
  ⟨fun _ => ⟨rfl, rfl, rfl, rfl, rfl, rfl, rfl⟩, by decide +kernel, by decide +kernel, by decide +kernel, by decide +kernel,
    by decide +kernel, by decide +kernel⟩

/-- A slot of 0 bytes but for the code of its kind. -/
def bareSlot : Memory := (List.range 128).map (fun a => (a, if a = 4 then 2#8 else 0#8))

/-- The clauses of the walk's judgement: its stored check, 0, follows from one preset and not from the one before (R165). -/
theorem witness_WalkJudgesAgainstItsCheck : slotWellFormed (bareSlot.slot 0) = true ∧
    BitVec.ofNat 32 (fieldAt (bareSlot.slot 0) 124 4) = 0#32 ∧ crc32 0x5766D0FB#32 ((bareSlot.slot 0).take 124) = 0#32 ∧
    crc32 0x5766D0FA#32 ((bareSlot.slot 0).take 124) ≠ 0#32 := by
  have body : (bareSlot.slot 0).take 124 = [0#8, 0#8, 0#8, 0#8, 2#8] ++ List.replicate 119 0#8 := by decide +kernel
  have split (preset : BitVec 32) : crc32 preset ((bareSlot.slot 0).take 124) = 0#32 ↔
      crc32 preset [0#8, 0#8, 0#8, 0#8, 2#8] = 0#32 := by
    rw [body, crc32, List.foldl_append, ← crc32, ← crc32, crc32_zeros]
  exact ⟨by decide +kernel, by decide +kernel, (split _).mpr (by decide +kernel),
    fun h => absurd ((split _).mp h) (by decide +kernel)⟩

theorem witness_StqAndSteServeTheStore :
    running.LinkFree ∧ running.OneRequest ∧ wellFormedFields [] = true ∧ running.evs.activity = .idle ∧
    running.evs.protectionStart = none ∧ running.evs.writePosition < 32768 ∧ running.evs.oldest = none ∧
    (operating (.erase 0) .ready 0 0).LinkFree ∧ (operating (.erase 0) .ready 0 0).OneRequest ∧
    (operating (.erase 0) .ready 0 0).evs.activity ≠ .idle ∧ (heldBack running).evs.protectionStart ≠ none :=
  ⟨running_free, running_oneRequest, by decide, rfl, rfl, by decide, rfl, ⟨.inl rfl, rfl, rfl, rfl⟩,
    ⟨fun h => absurd rfl h, nofun, nofun, fun _ => rfl, fun h _ => absurd rfl h, nofun⟩,
    by simp [operating], by simp [heldBack]⟩

/-! ## Hypotheses met: supply and restart -/

/-- A power state, with the two comparators as last delivered. -/
def powered (power : PowerState) (supply backup : Indication) : State := { running with spm := { running.spm with
  power := power
  supply := supply
  backup := backup
  rideTimer := some 0#32
  startKind := some .warm
  qualification := some 0#32 } }

theorem witness_SupplyFailAndBackupEventsActByThePowerState :
    (∀ backup, (powered .starting .good backup).evs.activity = .idle ∧
      (powered .starting .good backup).spm.abortPending = false ∧ (powered .starting .good backup).spm.backup = backup) ∧
    (powered .starting .good .good).spm.startKind = some .warm ∧ State.reset.spm.startKind ≠ some .warm ∧
    (powered .dormant .failed .good).spm.power = .dormant ∧ (powered .dormant .failed .good).spm.supply = .failed ∧
    (powered .run .good .good).spm.power ≠ .dormant ∧ (powered .starting .good .good).spm.kept = none ∧
    (let begun := { powered .starting .good .good with spm := { (powered .starting .good .good).spm with
       kept := some ⟨running.tmb, running.hlk⟩ } }
     begun.spm.kept = some ⟨running.tmb, running.hlk⟩ ∧ begun.evs.activity = .idle ∧ begun.spm.startKind = some .warm) ∧
    running.hlk.buffer = [] ∧ running.hlk.reception = none ∧ running.hlk.inProgress = none ∧ running.hlk.reply = none ∧
    running.hlk.transmitter = .idle ∧ running.hlk.adoption = none :=
  ⟨fun _ => ⟨rfl, rfl, rfl⟩, rfl, nofun, rfl, rfl, nofun, rfl, ⟨rfl, rfl, rfl⟩, rfl, rfl, rfl, rfl, rfl, rfl⟩

/-- The clauses on a SUPPLY_FAIL in STARTING (R180): with each operation in flight, and with the start given up before. -/
theorem witness_SupplyFailsInStarting :
    (∀ activity, let s := { powered .starting .good .good with evs := { running.evs with activity := activity } }
      s.spm.power = .starting ∧ s.evs.activity = activity ∧ s.spm.abortPending = false) ∧
    let given := { powered .starting .good .good with spm := { (powered .starting .good .good).spm with abortPending := true } }
    given.spm.power = .starting ∧ given.spm.abortPending = true := ⟨fun _ => ⟨rfl, rfl, rfl⟩, rfl, rfl⟩

/-- DORMANT with the check word of its context. -/
def sealed : State := storeCheckWord (powered .dormant .failed .good)

theorem witness_SupplyGoodActsByThePowerState : sealed.spm.power = .dormant ∧
    sealed.spm.checkWord = some (crc32 0xFFFFFFFF#32 ((none : Option (List Byte)).getD (Config.contextImage sealed.retained))) ∧
    (powered .dormant .failed .good).spm.checkWord = none ∧
    let recovering := { powered .rideThrough .failed .good with
      hlk := { running.hlk with settings := .factory, transmitter := .reply [] [] } }
    recovering.spm.rideTimer = some 0#32 ∧ recovering.hlk.settings.mask.pwn = true ∧ recovering.hlk.transmitter ≠ .idle ∧
    recovering.hlk.notices.length < 16 ∧ recovering.spm.committed = false :=
  ⟨rfl, rfl, rfl, rfl, rfl, nofun, by decide, rfl⟩

/-- R178 and R195: the notice that a warm STARTING has begun to send stands in the queue again when that start is given up, and the
aborted restart is counted. -/
theorem test_start_given_up_keeps_the_queue :
    let notice : Notice := ⟨.pwn, ["COMMIT".toList]⟩
    let dormant := storeCheckWord { powered .dormant .failed .good with hlk := { running.hlk with notices := [notice] } }
    (wake none dormant).hlk.notices = [] ∧ (supplyFails (wake none dormant)).hlk.notices = [notice] ∧
    (supplyFails (wake none dormant)).spm.abortedRestarts = 1 := by
  intro notice dormant
  have warm : wake none dormant = warmStart dormant := if_pos (contextAgrees_storeCheckWord _)
  rw [warm]
  exact ⟨rfl, rfl, rfl⟩

/-- R176: bytes with another check than the context's are not taken for it. -/
theorem test_check_word_tells_other_bytes (found : List Byte)
    (h : checkWordOf found ≠ checkWordOf (Config.contextImage sealed.retained)) : contextAgrees (some found) sealed = false := by
  have stored : sealed.spm.checkWord = some (checkWordOf (Config.contextImage sealed.retained)) := rfl
  simp [contextAgrees, contextBytes, stored, Ne.symm h]

theorem witness_WindowEndAndQualificationEndMovePower :
    let ended (backup : Indication) (state : StoreState) (activity : Activity) := { powered .rideThrough .failed backup with
      evs := { running.evs with state := state, activity := activity } }
    (∀ backup state activity, (ended backup state activity).spm.power = .rideThrough ∧
      (ended backup state activity).spm.rideTimer = some (ended backup state activity).tmb.tick ∧
      (ended backup state activity).spm.committed = false ∧ (ended backup state activity).spm.supply = .failed ∧
      (ended backup state activity).spm.backup = backup ∧ (ended backup state activity).evs.state = state ∧
      (ended backup state activity).evs.activity = activity ∧ (ended backup state activity).evs.pwq.length < 32) ∧
    (let full := { (heldBack (ended .good .full .idle)) with evs := { (heldBack (ended .good .full .idle)).evs with
       sectors := (heldBack running).evs.sectors.set 0 ⟨.closed, some 1, 8, []⟩ } }
     (sectorAt full.evs (full.evs.writePosition / 32)).condition = .closed ∧
     ∀ d, full.evs.due = some d → eraseHeld full.evs d = true) ∧
    State.reset.spm.power = .starting ∧ State.reset.spm.startKind = some .cold ∧
    (powered .starting .good .good).spm.qualification = some (powered .starting .good .good).tmb.tick ∧
    (powered .starting .good .good).spm.startKind = some .warm ∧ recordTaken (powered .starting .good .good) = true := by
  refine ⟨fun _ _ _ => ⟨rfl, rfl, rfl, rfl, rfl, rfl, rfl, show 0 < 32 by decide⟩, ⟨by decide +kernel, ?_⟩, rfl, rfl, rfl, rfl,
    by decide +kernel⟩
  intro d h
  simp [heldBack] at h
  subst h
  decide +kernel

/-- The clauses on a step that a warm start owes: none, and one, MEASURING and STOPPED, with room for one record, for two, and
for none. -/
theorem witness_WarmStartsDeliverWhatTheyOwe :
    (powered .starting .good .good).tmb.owed = none ∧
    ∀ count ∈ [30, 31, 32], ∀ base ∈ [running, measuring],
      let s := { base with
        tmb := { running.tmb with owed := some ⟨[], ⟨0, 0⟩, .unset⟩ }
        evs := (queueing count).evs
        spm := (powered .starting .good .good).spm }
      s.spm.power = .starting ∧ s.spm.qualification = some s.tmb.tick ∧ s.spm.startKind = some .warm ∧ s.tmb.owed ≠ none ∧
      s.svc.measuring = base.svc.measuring ∧ s.evs.pwq.length = count :=
  ⟨rfl, fun count _ _ _ => ⟨rfl, rfl, rfl, nofun, rfl, by simp [queueing]⟩⟩

/-- The clauses on the tracker and the channels at a resume: wired under both connections, under the one in use alone, with a new
FN, and under neither (R3, R14). -/
theorem witness_ResumesFollowBothConnections :
    let wired' (s : State) : List (Bool × Bool) := [Phase.l1, .l2].map (fun p =>
      (wired s.svc.active.wiring p, wired s.cyt.wiringInUse p))
    let narrowed := activate [(.wiring, 1), (.fn, 60)] (powered .starting .good .good)
    wired' narrowed = [(true, true), (false, true)] ∧ narrowed.cyt.fnChanged = true ∧ narrowed.cyt.fnInUse = .hz50 ∧
    narrowed.spm.startKind = some .warm ∧ narrowed.spm.qualification = some narrowed.tmb.tick ∧
    let one := { narrowed with cyt := { narrowed.cyt with wiringInUse := .w1 } }
    wired' one = [(true, true), (false, false)] := by decide +kernel

/-! ## Hypotheses met: host link -/

/-- A frame in reception, with these characters. -/
def receiving (chars : Text) (received : Nat) (framingError overLong : Bool) : State := { running with hlk := { running.hlk with
  reception := some ⟨0#32, chars, received, framingError, overLong⟩ } }

theorem witness_CharactersFormFrames : linkOn running = true ∧ running.hlk.reception = none ∧
    (0x41#8 : Byte) ≠ 0x3E#8 ∧ (0x41#8 : Byte) ≠ 0x0A#8 ∧
    (∃ r, (receiving ['>'] 118 false false).hlk.reception = some r ∧ ¬ 119 ≤ r.received) ∧
    (∃ r, (receiving ['>'] 119 false false).hlk.reception = some r ∧ 119 ≤ r.received) ∧
    (∃ r, (receiving ['>', '0', '1'] 3 true false).hlk.reception = some r ∧ r.framingError = true) ∧
    ((isDigit '0' = true ∧ isDigit '1' = true ∧ digitsValue ['0', '1'] = running.hlk.settings.station) ∧
      digitsValue ['0', '0'] = 0 ∧ digitsValue ['0', '2'] ≠ running.hlk.settings.station) ∧
    (readingSlot .raw).hlk.inProgress ≠ none ∧
    (∃ r, (atTick 32768#32 (receiving ['>'] 1 false false)).hlk.reception = some r ∧ 32768 ≤ tickSpan r.startTick 32768#32) :=
  ⟨rfl, rfl, by decide, by decide, ⟨_, rfl, by decide⟩, ⟨_, rfl, by decide⟩, ⟨_, rfl, rfl⟩, by decide, by simp [readingSlot],
    _, rfl, by decide⟩

/-- The clauses on a frame that is taken as it completes (R190): the text after its station, sound or not. -/
theorem witness_FramesAreRefusedByTheirForm :
    (∀ rest overLong, ∃ r, (receiving ('>' :: '0' :: '1' :: rest) 9 false overLong).hlk.reception = some r ∧
      r.framingError = false ∧ r.chars = '>' :: '0' :: '1' :: rest ∧ r.overLong = overLong) ∧
    running.hlk.inProgress = none ∧ running.hlk.reply = none ∧ running.hlk.buffer = [] ∧
    (∀ content d e, "TLF".toList ≠ content ++ ['|', d, e]) ∧
    (['0', '1', 'S', 'T', 'A', '|'].map Char.toNat).sum % 256 = 0xC5 ∧ ['C', '5'] = hexByte 0xC5 ∧ ['C', '6'] ≠ hexByte 0xC5 ∧
    (['0', '1', 'S', 'T', '|'].map Char.toNat).sum % 256 = 0x84 ∧ ['8', '4'] = hexByte 0x84 ∧
    (∀ command fields, "ST".toList = command ++ fields → command.length ≠ 3) ∧
    (['0', '1', 'X', 'Y', 'Z', '|'].map Char.toNat).sum % 256 = 0xE8 ∧ (∀ c : Command, c.text ≠ "XYZ".toList) ∧
    digitsValue ['0', '0'] = 0 ∧ Command.tlf.text = "TLF".toList ∧ Command.tlf ≠ .tis := by
  refine ⟨fun _ _ => ⟨_, rfl, rfl, rfl, rfl⟩, rfl, rfl, rfl, fun content d e h => ?_, by decide, by decide, by decide, by decide,
    by decide, fun command fields h h3 => ?_, by decide, fun c => by cases c <;> decide, by decide, by decide, by decide⟩
  · have := congrArg List.getLast? (congrArg List.dropLast (congrArg List.dropLast h))
    simp at this
  · have := congrArg List.length h
    simp [h3] at this
    omega

/-- A reply in the slot, with a transmitter. -/
def replying (eligible : Bool) (link : Option LinkSettings) (transmitter : Transmitter) : State := { running with
  hlk := { running.hlk with
    reply := some ⟨"TLF".toList, .ok, ["FROZEN".toList], 0#32, 33, eligible, link⟩
    transmitter := transmitter } }

theorem witness_TransmitterSendsRepliesBeforeNotices :
    (∀ eligible link transmitter, linkOn (replying eligible link transmitter) = true ∧
      (replying eligible link transmitter).OneRequest ∧ (replying eligible link transmitter).hlk.adoption = none ∧
      (replying eligible link transmitter).hlk.transmitter = transmitter ∧
      (replying eligible link transmitter).hlk.buffer = [] ∧
      ∃ r, (replying eligible link transmitter).hlk.reply = some r ∧ r.eligible = eligible ∧ r.link = link ∧
        r.delay ≤ tickSpan r.formedAt (atTick 33#32 (replying eligible link transmitter)).tmb.tick) ∧
    ({ running with hlk := { running.hlk with transmitter := .notice ⟨.tkn, []⟩ [] } } : State).hlk.reply = none ∧
    (let asked := { running with hlk := { running.hlk with inProgress := some .tlf, transmitter := .notice ⟨.tkn, []⟩ [] } }
     asked.hlk.inProgress = some .tlf ∧ asked.hlk.transmitter ≠ .idle) ∧ (200 * 32768 + 999) / 1000 = 6554 :=
  ⟨fun _ _ _ => ⟨rfl, quiet_oneRequest rfl rfl rfl rfl rfl, rfl, rfl, rfl, _, rfl, rfl, rfl, by
    show 33 ≤ tickSpan 0#32 33#32
    decide⟩, rfl, ⟨rfl, nofun⟩, rfl⟩

/-- The clauses on a notice that is posted, on the choice of an IDLE transmitter, and on a frame that waits. -/
theorem witness_NoticesAreAdmittedAndFramesTaken :
    (∀ count ∈ [15, 16], let s := { running with hlk := { running.hlk with
        settings := .factory
        notices := List.replicate count ⟨.tkn, []⟩ } }
      s.hlk.settings.mask.evo = true ∧ s.hlk.settings.mask.ivc = false ∧ s.hlk.notices.length = count) ∧
    (∀ eligible, linkOn (replying eligible none .idle) = true ∧ (replying eligible none .idle).hlk.transmitter = .idle ∧
      ∃ r, (replying eligible none .idle).hlk.reply = some r ∧ r.eligible = eligible ∧ tickSpan r.formedAt 32#32 < r.delay ∧
        ¬ tickSpan r.formedAt 33#32 < r.delay) ∧
    let waits := { replying true none (.reply [] []) with hlk := { (replying true none (.reply [] [])).hlk with
      buffer := [requestFrame running.hlk.settings.station .tlx ["ALL".toList]] } }
    linkOn waits = true ∧ waits.OneRequest ∧ waits.hlk.adoption = none ∧ waits.hlk.reception = none ∧
    waits.hlk.inProgress = none ∧ waits.hlk.transmitter = .reply [] [] ∧ (∃ r, waits.hlk.reply = some r ∧ r.link = none) ∧
    requestForm (.tlx ["ALL".toList]) = some (.tlx, ["ALL".toList]) ∧ wellFormedFields ["ALL".toList] = true ∧
    1 ≤ waits.hlk.settings.station ∧ waits.hlk.settings.station ≤ 99 ∧
    waits.hlk.buffer = [requestFrame waits.hlk.settings.station .tlx ["ALL".toList]] :=
  ⟨by decide, fun _ => ⟨rfl, rfl, _, rfl, rfl, show tickSpan 0#32 32#32 < 33 by decide,
    show ¬ tickSpan 0#32 33#32 < 33 by decide⟩, rfl, quiet_oneRequest rfl rfl rfl rfl rfl, rfl, rfl, rfl,
    rfl, ⟨_, rfl, rfl⟩, rfl, by decide, by decide, by decide, rfl⟩

/-- The clauses on the characters of a reply (R187, R202), one frame of 320 characters and a run of two, and on settings that
wait for an IDLE transmitter (R186). -/
theorem witness_RepliesDivideAndSettingsWait :
    let long (n : Nat) : Text := List.replicate n 'A'
    (replyFrame 99 "STQ".toList .ok [long 150, long 153] ['-']).length = 320 ∧
    (replyFrame 99 "STQ".toList .ok [long 150, long 154] ['-']).length = 321 ∧
    (replyFrame 99 "STQ".toList .ok [long 154] ['+']).length ≤ 320 ∧ (replyFrame 99 "STQ".toList .ok [] ['-']).length ≤ 320 ∧
    replyRun 99 "STQ".toList .ok ['-'] 3 [long 150, long 154] =
      [replyFrame 99 "STQ".toList .ok [long 150] ['+'], replyFrame 99 "STQ".toList .ok [long 154] ['-']] ∧
    ∀ transmitter, let s := { replying true none transmitter with hlk := { (replying true none transmitter).hlk with
        adoption := some .fallback } }
      linkOn s = true ∧ s.hlk.adoption = some .fallback ∧ s.hlk.transmitter = transmitter ∧
      ∃ r, s.hlk.reply = some r ∧ r.link = none :=
  ⟨by decide +kernel, by decide +kernel, by decide +kernel, by decide, by decide +kernel,
    fun _ => ⟨rfl, rfl, rfl, _, rfl, rfl⟩⟩

theorem witness_IdnLnkAndStaAnswerForTheLink : running.LinkFree ∧
    (let l : LinkSettings := ⟨115200, 99, 200, LinkSettings.factory.mask⟩
     l.inRange = true ∧ wellFormedFields [num l.rate, num l.station, num l.delay, l.mask.text] = true) ∧
    readLink [['1']] = none ∧ (∃ l, readLink ["9600".toList, "100".toList, "0".toList, "NONE".toList] = some l ∧
      l.inRange = false) ∧ linkOn State.reset = true ∧ State.reset.hlk.buffer = [] ∧
    (∃ m, readMask "PWN/EVO".toList = some m ∧ m.evo = true ∧ m.pwn = true ∧ m.evc = false) ∧
    readMask "EVO/EVO".toList = none ∧ readMask "EVO/".toList = none ∧ readMask [] = none :=
  ⟨running_free, by decide, by decide, ⟨⟨9600, 100, 0, LinkSettings.fallback.mask⟩, by decide, by decide⟩, rfl, rfl,
    ⟨_, rfl, rfl, rfl, rfl⟩, by decide, by decide, by decide⟩

theorem witness_RequestFrameReadsBack : wellFormedFields ["ALL".toList] = true ∧
    readFrame (requestFrame 1 .tlx ["ALL".toList]) = .request .tlx ["ALL".toList] := by decide

theorem witness_RequestRowDoesWhatItsCharactersDo :
    (linkOn running = true ∧ running.LinkFree ∧ wellFormedFields ["ALL".toList] = true ∧ 1 ≤ running.hlk.settings.station ∧
      running.hlk.settings.station ≤ 99 ∧ requestForm (.tlx ["ALL".toList]) = some (.tlx, ["ALL".toList])) ∧
    (State.reset.spm.power = .starting ∧ Command.tlx ≠ .sta ∧ State.reset.hlk.inProgress = none ∧
      State.reset.hlk.reply = none) ∧ (powered .dormant .failed .good).spm.power = .dormant :=
  ⟨⟨rfl, running_free, by decide, by decide, by decide, rfl⟩, ⟨rfl, by decide, rfl, rfl⟩, rfl⟩

/-! ## Hypotheses met: the machine -/

theorem witness_StepRunsTheFrontCommand : ({ running with pending := [.tlf []] } : State).pending = .tlf [] :: [] := rfl

/-- The clauses on an empty queue (log entry 2): each timed event at the tick it is due, and none. -/
theorem witness_EmptyQueuesTakeWhatIsDue :
    (powered .starting .good .good).pending = [] ∧ (powered .starting .good .good).spm.qualification = some 0#32 ∧
    (powered .rideThrough .good .good).spm.rideTimer = some 0#32 ∧ (0#32 - 0#32 : BitVec 32).toNat < 2147483648 ∧
    ¬ (0#32 - 1#32 : BitVec 32).toNat < 2147483648 ∧
    (let late := atTick 32768#32 (receiving ['>'] 1 false false)
     late.pending = [] ∧ linkOn late = true ∧ ∃ r, late.hlk.reception = some r ∧ 32768 ≤ tickSpan r.startTick 32768#32) ∧
    (let due := atTick 33#32 (replying false none .idle)
     due.hlk.reception = none ∧ ∃ r, due.hlk.reply = some r ∧ r.eligible = false ∧ r.delay ≤ tickSpan r.formedAt 33#32) ∧
    98304 ≤ tickSpan 0#32 (disciplined 98304#32 0).tmb.tick ∧
    (let old := { disciplined 36046#32 0 with tmb := { (disciplined 36046#32 0).tmb with quality := .free } }
     old.tmb.quality ≠ .locked ∧ 36045 < tickSpan 0#32 old.tmb.tick) ∧
    (∃ o, (atTick 1966080#32 running).ich.lastOpen = some o ∧ 1966080 ≤ tickSpan o 1966080#32) ∧ running.pending = [] :=
  ⟨rfl, rfl, rfl, by decide, by decide, ⟨rfl, rfl, _, rfl, by decide⟩, ⟨rfl, _, rfl, rfl, by decide⟩, by decide,
    ⟨nofun, by decide⟩, ⟨_, rfl, by decide⟩, rfl⟩

/-- The medium's form and the bounds hold in the running state. -/
theorem running_sound : running.Sound :=
  ⟨by decide, by decide, by decide, by decide, by decide, by simp [running, startSampling, State.reset, Ich.cold], by decide,
    by decide, by simp [running, startSampling, State.reset, Spm.coldPowerUp]⟩

theorem witness_EveryStepKeepsTheBounds : running.Sound ∧ ∃ t, step { running with pending := [.tlf []] } = .next t :=
  ⟨running_sound, _, rfl⟩

theorem witness_EveryStepKeepsOneRequest : running.OneRequest ∧ ∃ t, step running = .next t :=
  ⟨running_oneRequest, _, rfl⟩

theorem witness_ResetIsTheColdStartAndMeetsTheInvariants :
    let off := { powered .off .failed .good with evs := Evs.cold [] }
    off.spm.power = .off ∧ off.evs.medium = [] ∧ off.pins.backup = .good ∧ off.pending = [] := ⟨rfl, rfl, rfl, rfl⟩

/-- An empty queue in RUN brings one crystal tick. -/
theorem test_idle_is_one_tick : step running = .next (crystalTick running) := rfl

end Sys2Proof.Tests
end

section
/-! The CAL command (R8): what the owning block answers, and the report whole. -/

namespace Sys2Proof.Machine

/-- The ticks to the next window as R8 counts them: from the opening of the last one, over a period of 1,966,080 ticks. -/
theorem Ich.ticksToNext_eq (c : Ich) (now : Tick) :
    c.ticksToNext now =
      if c.windowOpen then 0 else 1966080 - (c.lastOpen.map (fun o => tickSpan o now)).getD 0 :=
  rfl

/-- CAL takes no fields. -/
theorem runCal_of_fields {fields : List Text} (given : fields ≠ []) (s : State) : runCal fields s = answer .syn [] s :=
  if_pos given

/-- CAL without fields answers with the sample clock's five fields. -/
theorem runCal_nil (s : State) :
    runCal [] s = answer .ok [num s.ich.divisor, optText num s.ich.pendingDivisor, optText num s.ich.lastN1,
      bitText s.ich.osc, num (s.ich.ticksToNext s.tmb.tick)] s :=
  if_neg (not_not_intro rfl)

/-- A CAL row on a free link is carried out by its owning block over the taken request. -/
theorem exec_cal {s : State} (free : s.LinkFree) {fields : List Text} (wf : wellFormedFields fields = true) :
    exec (.cal fields) s = .next (runCal fields (taken .cal s)) :=
  congrArg Host.Outcome.next (request_taken free .cal wf)

/-- Settles O7: taking the request moves the link alone, so the fields answered are those of the state before it. -/
theorem calReportsTheSampleClock : Obligations.CalReportsTheSampleClock := by
  intro s fields free wf
  refine ⟨_, exec_cal free wf, ?_⟩
  split
  case isTrue none_given =>
    subst none_given
    rw [runCal_nil, Ich.ticksToNext_eq]
    exact answer_only .ok _ free.inProgress
  case isFalse given =>
    rw [runCal_of_fields given]
    exact answer_only .syn [] free.inProgress

end Sys2Proof.Machine
end

section
/-! The event matrices (R91 to R93): the bands, one chain into a matrix, and where each kind of chain goes. -/

namespace Sys2Proof.Machine

/-- R92: the six columns partition the durations. -/
theorem durationColumn_bands (d : Nat) :
    durationColumn d < 6 ∧ (durationColumn d = 0 ↔ d ≤ 200) ∧ (durationColumn d = 1 ↔ 200 < d ∧ d ≤ 500) ∧
      (durationColumn d = 2 ↔ 500 < d ∧ d ≤ 1000) ∧ (durationColumn d = 3 ↔ 1000 < d ∧ d ≤ 5000) ∧
      (durationColumn d = 4 ↔ 5000 < d ∧ d ≤ 60000) ∧ (durationColumn d = 5 ↔ 60000 < d) := by
  unfold durationColumn
  repeat' split
  all_goals omega

/-- R92: the four dip rows partition the residuals. -/
theorem dipRow_bands (e : Nat) :
    dipRow e < 4 ∧ (dipRow e = 0 ↔ 8000 ≤ e) ∧ (dipRow e = 1 ↔ 7000 ≤ e ∧ e < 8000) ∧
      (dipRow e = 2 ↔ 4000 ≤ e ∧ e < 7000) ∧ (dipRow e = 3 ↔ e < 4000) := by
  unfold dipRow
  repeat' split
  all_goals omega

/-- R92: the three swell rows partition the extremes. -/
theorem swellRow_bands (e : Nat) :
    swellRow e < 3 ∧ (swellRow e = 0 ↔ e ≤ 12000) ∧ (swellRow e = 1 ↔ 12000 < e ∧ e ≤ 14000) ∧
      (swellRow e = 2 ↔ 14000 < e) := by
  unfold swellRow
  repeat' split
  all_goals omega

/-- The pair has the members 0 and 1 alone. -/
theorem pairMember_lt (d : Nat) : pairMember d < 2 := by
  unfold pairMember
  split <;> decide

/-- A FROZEN matrix takes a chain by its gap mark (R93). -/
@[simp] theorem Matrix.take_frozen (m : Matrix) (cell : Nat) : m.take true cell = { m with gap := true } := rfl

/-- A COUNTING matrix takes a chain by the count that stands in its cell, and that count saturates (R82). -/
theorem Matrix.take_counting (m : Matrix) {cell : Nat} (inside : cell < m.counts.length) :
    ∃ n, m.counts[cell]? = some n ∧
      m.take false cell = if n < 65535 then { m with counts := m.counts.set cell (n + 1) } else { m with saturated := true } := by
  have stands : m.counts[cell]? = some m.counts[cell] := List.getElem?_eq_getElem inside
  refine ⟨_, stands, ?_⟩
  simp [Matrix.take, stands, max16]

section
variable {b : Tlb} {c : ChainClassification}

/-- R91: a dip that contained no interruption goes to the dip matrix. -/
theorem Tlb.takeChain_dip (kind : c.kind = .dip) (alone : c.contained = 0) :
    b.takeChain c =
      { b with dip := b.dip.take b.frozen (6 * dipRow c.extreme.value + durationColumn c.duration) } := by
  simp only [Tlb.takeChain, kind, alone, if_true]

/-- R91: a dip that contained an interruption goes nowhere. -/
theorem Tlb.takeChain_dip_interrupted (kind : c.kind = .dip) (interrupted : c.contained ≠ 0) : b.takeChain c = b := by
  simp only [Tlb.takeChain, kind, interrupted, if_false]

/-- R91: a swell goes to the swell matrix. -/
theorem Tlb.takeChain_swell (kind : c.kind = .swell) :
    b.takeChain c =
      { b with swell := b.swell.take b.frozen (6 * swellRow c.extreme.value + durationColumn c.duration) } := by
  simp only [Tlb.takeChain, kind]

/-- R91: an interruption goes to the pair. -/
theorem Tlb.takeChain_interruption (kind : c.kind = .interruption) :
    b.takeChain c = { b with pair := b.pair.take b.frozen (pairMember c.duration) } := by
  simp only [Tlb.takeChain, kind]

end

/-- Settles O23: the bands keep the cell's index inside its matrix, so a count stands there for the chain to raise. -/
theorem chainIsSortedIntoItsCell : Obligations.ChainIsSortedIntoItsCell := by
  refine ⟨fun b c counting dips swells pairs => ?_, fun b c frozen => ?_⟩
  · obtain ⟨column_lt, d1, d2, d3, d4, d5, d6⟩ := durationColumn_bands c.duration
    refine ⟨durationColumn c.duration, column_lt, d1, d2, d3, d4, d5, d6, ?_⟩
    cases kind : c.kind with
    | dip =>
      by_cases alone : c.contained = 0
      · obtain ⟨row_lt, u1, u2, u3, u4⟩ := dipRow_bands c.extreme.value
        obtain ⟨n, stands, counted⟩ := b.dip.take_counting
          (cell := 6 * dipRow c.extreme.value + durationColumn c.duration) (by omega)
        simp only [alone, if_true]
        exact ⟨_, row_lt, u1, u2, u3, u4, n, stands, by rw [Tlb.takeChain_dip kind alone, counting, counted]⟩
      · simp only [alone, if_false]
        exact Tlb.takeChain_dip_interrupted kind alone
    | swell =>
      obtain ⟨row_lt, h1, h2, h3⟩ := swellRow_bands c.extreme.value
      obtain ⟨n, stands, counted⟩ := b.swell.take_counting
        (cell := 6 * swellRow c.extreme.value + durationColumn c.duration) (by omega)
      exact ⟨_, row_lt, h1, h2, h3, n, stands, by rw [Tlb.takeChain_swell kind, counting, counted]⟩
    | interruption =>
      obtain ⟨n, stands, counted⟩ := b.pair.take_counting (pairs ▸ pairMember_lt c.duration)
      exact ⟨n, stands, by rw [Tlb.takeChain_interruption kind, counting, counted, pairMember]⟩
  · cases kind : c.kind with
    | dip =>
      by_cases alone : c.contained = 0
      · simp only [alone, if_true]
        rw [Tlb.takeChain_dip kind alone, frozen, Matrix.take_frozen]
      · simp only [alone, if_false]
        exact Tlb.takeChain_dip_interrupted kind alone
    | swell => rw [Tlb.takeChain_swell kind, frozen, Matrix.take_frozen]
    | interruption => rw [Tlb.takeChain_interruption kind, frozen, Matrix.take_frozen]

end Sys2Proof.Machine
end

section
/-! The verdict of a survey (R111, R112): each test by its counts, and the overall outcome by the four tests. -/

namespace Sys2Proof.Machine

/-- R111: without a count a share test is INCONCLUSIVE, and reports no share. -/
theorem shareTest_without (part required : Nat) : shareTest part 0 required = ⟨.inconclusive, none⟩ := rfl

/-- R111: with a count a share test is judged by its part, and reports the part's share. -/
theorem shareTest_counted {count : Nat} (counted : count ≠ 0) (part required : Nat) :
    shareTest part count required =
      ⟨if required * count ≤ part * 10000 then .pass else .fail, some (part * 10000 / count)⟩ :=
  if_neg counted

/-- R111: the three outcomes of a share test. -/
theorem shareTest_outcome (part count required : Nat) :
    ((shareTest part count required).outcome = .pass ↔ 1 ≤ count ∧ required * count ≤ part * 10000) ∧
      ((shareTest part count required).outcome = .fail ↔ 1 ≤ count ∧ part * 10000 < required * count) ∧
      ((shareTest part count required).outcome = .inconclusive ↔ count = 0) := by
  by_cases none_counted : count = 0
  · subst none_counted
    simp [shareTest_without]
  · have counted : 1 ≤ count := Nat.one_le_iff_ne_zero.mpr none_counted
    rw [shareTest_counted none_counted]
    by_cases enough : required * count ≤ part * 10000
    · simp [enough, none_counted, counted]
    · simp [enough, none_counted, counted, Nat.lt_of_not_le enough]

/-- R112: the share that a share test reports. -/
theorem shareTest_share (part count required : Nat) :
    (shareTest part count required).share = if count = 0 then none else some (part * 10000 / count) := by
  unfold shareTest
  split <;> rfl

/-- R111: the coverage test passes or fails, and is never INCONCLUSIVE. -/
theorem coverageTest_outcome (valid expected required : Nat) :
    ((coverageTest valid expected required).outcome = .pass ↔ required * expected ≤ valid * 10000) ∧
      ((coverageTest valid expected required).outcome = .fail ↔ valid * 10000 < required * expected) ∧
      (coverageTest valid expected required).outcome ≠ .inconclusive := by
  unfold coverageTest
  by_cases enough : required * expected ≤ valid * 10000
  · simp [enough]
  · simp [enough, Nat.lt_of_not_le enough]

/-- R112: what makes a completed survey's outcome INCONCLUSIVE. -/
theorem VerdictBody.overall_inconclusive (b : VerdictBody) :
    b.overall = .inconclusive ↔ b.coverage.outcome = .fail ∨ .inconclusive ∈ b.tests ∨ b.dropped ≠ 0 := by
  unfold VerdictBody.overall
  simp only [List.contains_iff_mem]
  split
  case isTrue held => exact iff_of_true rfl held
  case isFalse clear =>
    refine iff_of_false ?_ clear
    split <;> nofun

/-- R112: a survey that is not INCONCLUSIVE fails by any test that fails. -/
theorem VerdictBody.overall_fail (b : VerdictBody) :
    b.overall = .fail ↔
      ¬ (b.coverage.outcome = .fail ∨ .inconclusive ∈ b.tests ∨ b.dropped ≠ 0) ∧ .fail ∈ b.tests := by
  unfold VerdictBody.overall
  simp only [List.contains_iff_mem]
  split
  case isTrue held => exact iff_of_false nofun (fun x => x.1 held)
  case isFalse clear =>
    split
    case isTrue failed => exact iff_of_true rfl ⟨clear, failed⟩
    case isFalse passed => exact iff_of_false nofun (fun x => passed x.2)

/-- A verdict has an outcome among its tests where coverage or one of the three share tests has it. -/
theorem VerdictBody.mem_tests (b : VerdictBody) (o : TestOutcome) :
    o ∈ b.tests ↔
      b.coverage.outcome = o ∨ b.magnitude.outcome = o ∨ b.hardBand.outcome = o ∨ b.frequency.outcome = o := by
  simp [VerdictBody.tests, eq_comm]

section
variable (c : SurveyCells) (set : Settings) (days dropped generations : Nat)

/-- R112: a verdict is INCONCLUSIVE by its coverage, by a divisor of 0 or by a record dropped. -/
theorem verdictBody_overall_inconclusive :
    (verdictBody c set days dropped generations).overall = .inconclusive ↔
      c.s1 * 10000 < set.cover * (days * 144) ∨ c.s1 = 0 ∨ c.s4 = 0 ∨ dropped ≠ 0 := by
  obtain ⟨_, uncovered, decided⟩ := coverageTest_outcome c.s1 (days * 144) set.cover
  obtain ⟨_, _, magnitude⟩ := shareTest_outcome c.s2 c.s1 set.share
  obtain ⟨_, _, hardBand⟩ := shareTest_outcome c.s3 c.s1 set.hardshare
  obtain ⟨_, _, frequency⟩ := shareTest_outcome c.s5 c.s4 set.fshare
  rw [VerdictBody.overall_inconclusive, VerdictBody.mem_tests]
  simp only [verdictBody, uncovered, decided, magnitude, hardBand, frequency, false_or, or_self_left, or_assoc]

/-- R112: a conclusive verdict fails by a share test, its coverage having passed. -/
theorem verdictBody_overall_fail :
    (verdictBody c set days dropped generations).overall = .fail ↔
      ¬ (c.s1 * 10000 < set.cover * (days * 144) ∨ c.s1 = 0 ∨ c.s4 = 0 ∨ dropped ≠ 0) ∧
      (c.s2 * 10000 < set.share * c.s1 ∨ c.s3 * 10000 < set.hardshare * c.s1 ∨ c.s5 * 10000 < set.fshare * c.s4) := by
  obtain ⟨_, uncovered, _⟩ := coverageTest_outcome c.s1 (days * 144) set.cover
  obtain ⟨_, magnitude, _⟩ := shareTest_outcome c.s2 c.s1 set.share
  obtain ⟨_, hardBand, _⟩ := shareTest_outcome c.s3 c.s1 set.hardshare
  obtain ⟨_, frequency, _⟩ := shareTest_outcome c.s5 c.s4 set.fshare
  rw [VerdictBody.overall_fail, ← VerdictBody.overall_inconclusive, verdictBody_overall_inconclusive,
    VerdictBody.mem_tests]
  refine and_congr_right fun conclusive => ?_
  simp only [verdictBody, uncovered, magnitude, hardBand, frequency]
  omega

end

/-- Settles O33: each test by its own rule, and the overall outcome by the counts that decide the four outcomes. -/
theorem verdictCombinesTheFourTests : Obligations.VerdictCombinesTheFourTests := by
  intro c set days dropped generations
  obtain ⟨covered, uncovered, decided⟩ := coverageTest_outcome c.s1 (days * 144) set.cover
  exact ⟨covered, uncovered, decided, shareTest_outcome _ _ _, shareTest_outcome _ _ _, shareTest_outcome _ _ _, rfl, rfl,
    rfl, rfl, shareTest_share _ _ _, shareTest_share _ _ _, shareTest_share _ _ _,
    verdictBody_overall_inconclusive _ _ _ _ _, verdictBody_overall_fail _ _ _ _ _⟩

end Sys2Proof.Machine
end

section
/-! The end of a survey (R114, R115): what a record offered, the protection cleared and a reply leave, and the two
commands made of them. -/

namespace Sys2Proof.Machine

/-! ## The link across a command -/

/-- A link whose transmitter, notices and overflow mark stand has had no notice posted to it. -/
theorem Posts.of_same {s t : State} (transmitter : t.hlk.transmitter = s.hlk.transmitter)
    (notices : t.hlk.notices = s.hlk.notices) (overflow : t.hlk.overflow = s.hlk.overflow) : Posts s t [] :=
  ⟨fun _ => ⟨transmitter, notices, by simp [notices, overflow]⟩, fun _ _ => .inl notices⟩

/-- What is posted is read from the link alone. -/
theorem Posts.of_links {s t s' t' : State} {posted : List Notice} (h : Posts s t posted) (before : s'.hlk = s.hlk)
    (after : t'.hlk = t.hlk) : Posts s' t' posted :=
  ⟨by rw [before, after]; exact h.busy, by rw [before, after]; exact h.idle⟩

/-- The oldest notice, where one waits, leaves the queue for the line (R192). -/
theorem startNotice_takes (s : State) : (startNotice s).hlk.notices = s.hlk.notices ∨
    ∃ n, s.hlk.notices = n :: (startNotice s).hlk.notices ∧
      (startNotice s).hlk.transmitter = .notice n (noticeFrame (startNotice s).hlk.settings.station n) := by
  unfold startNotice
  split
  case h_1 => exact .inl rfl
  case h_2 n rest stands => exact .inr ⟨n, stands, rfl⟩

/-- The transmitter's choice posts nothing. -/
theorem transmit_posts (s : State) : Posts s (transmit s) [] := by
  refine ⟨fun busy => ?_, fun _ _ => ?_⟩
  · rw [transmit_busy busy]
    exact (Posts.refl s).busy busy
  · unfold transmit
    split
    · split
      · split
        · exact .inl rfl
        · exact startNotice_takes s
      · exact startNotice_takes s
    · exact .inl rfl

/-- Answering posts nothing. -/
theorem answer_posts (status : Status) (fields : List Text) (s : State) : Posts s (answer status fields s) [] := by
  unfold answer
  split
  · unfold placeReply
    refine Posts.trans (first := []) (Posts.of_same ?_ ?_ ?_) (transmit_posts _) (transmit_link _).1
    all_goals rfl
  · exact Posts.refl s

/-- Answering keeps the link settings. -/
theorem answer_settings (status : Status) (fields : List Text) (s : State) :
    (answer status fields s).hlk.settings = s.hlk.settings := by
  unfold answer
  split
  · exact (transmit_link _).1
  · rfl

/-- What the owning block posts between the taking of a request and its reply is what the command posts. -/
theorem Posts.command {s u : State} {c : Command} {posted : List Notice} (h : Posts (taken c s) u posted)
    (settings : u.hlk.settings = s.hlk.settings) (status : Status) (fields : List Text) :
    Posts s (answer status fields u) posted := by
  have request : Posts s (taken c s) [] := Posts.of_same rfl rfl rfl
  have whole := (request.trans h settings).trans (answer_posts status fields u) (answer_settings status fields u)
  rwa [List.nil_append, List.append_nil] at whole

/-- Answering leaves the store as it was. -/
theorem answer_evs (status : Status) (fields : List Text) (s : State) : (answer status fields s).evs = s.evs := by
  rw [answer_others]

/-- The record queued between the taking of a request and its reply is the record of the command. -/
theorem Queues.command {s u : State} {c : Command} {kind : RecordKind} {payload : List Byte} {generation : BitVec 16}
    (h : Queues (Machine.taken c s) u kind payload generation) (status : Status) (fields : List Text) :
    Queues s (answer status fields u) kind payload generation := by
  obtain ⟨medium, takes, drops⟩ := h
  refine ⟨?_, ?_, ?_⟩
  all_goals rw [answer_evs]
  · exact medium
  · exact takes
  · exact drops

/-- With no command in progress no read waits (R160). -/
theorem State.OneRequest.no_read {s : State} (one : s.OneRequest) (free : s.hlk.inProgress = none) :
    s.evs.waitingRead = none := by
  by_contra waits
  rcases one.waiting waits with h | h | h
  all_goals
    rw [free] at h
    cases h

/-- With no read waiting the choice of the medium's next operation leaves the link as it was (R148, R156). -/
theorem mediumChoice_quiet {s : State} (quiet : s.evs.waitingRead = none) :
    (mediumChoice s).hlk = s.hlk ∧ (mediumChoice s).evs.waitingRead = none := by
  obtain ⟨link, _, waiting⟩ := (mediumChoice_chooses s).quiet quiet
  exact ⟨link, waiting⟩

/-! ## A record offered (R142 to R145) -/

/-- An offer changes the clock's last reading, the store and the link alone. -/
theorem offer_others (kind : RecordKind) (payload : List Byte) (s : State) :
    offer kind payload s = { s with
      tmb := (offer kind payload s).tmb
      evs := (offer kind payload s).evs
      hlk := (offer kind payload s).hlk } := by
  unfold offer
  split
  · unfold takeRecord
    rw [(mediumChoice_chooses _).others]
    rfl
  · rfl

/-- An offer leaves the settings unit as it was. -/
theorem offer_svc (kind : RecordKind) (payload : List Byte) (s : State) : (offer kind payload s).svc = s.svc := by
  rw [offer_others]

/-- What an offer can change of the store: the queue with its counts and mode, the drops, and what starts the next
operation. -/
theorem offer_store (kind : RecordKind) (payload : List Byte) (s : State) :
    (offer kind payload s).evs = { s.evs with
      pwq := (offer kind payload s).evs.pwq
      lastIssued := (offer kind payload s).evs.lastIssued
      gapCount := (offer kind payload s).evs.gapCount
      mode := (offer kind payload s).evs.mode
      surveyDrops := (offer kind payload s).evs.surveyDrops
      coldDrops := (offer kind payload s).evs.coldDrops
      sectors := (offer kind payload s).evs.sectors
      due := (offer kind payload s).evs.due
      activity := (offer kind payload s).evs.activity
      waitingRead := (offer kind payload s).evs.waitingRead
      lastRead := (offer kind payload s).evs.lastRead } := by
  unfold offer
  split
  · unfold takeRecord
    rw [(mediumChoice_chooses _).store]
    rfl
  · rfl

/-- An offer leaves the store's state as it was. -/
theorem offer_state (kind : RecordKind) (payload : List Byte) (s : State) :
    (offer kind payload s).evs.state = s.evs.state := by
  rw [offer_store]

/-- With no read waiting an offer leaves the link as it was. -/
theorem offer_quiet (kind : RecordKind) (payload : List Byte) {s : State} (quiet : s.evs.waitingRead = none) :
    (offer kind payload s).hlk = s.hlk ∧ (offer kind payload s).evs.waitingRead = none := by
  unfold offer
  split
  · unfold takeRecord
    exact mediumChoice_quiet (by exact quiet)
  · exact ⟨rfl, quiet⟩

/-- A record offered takes its reading from the clock, and a reading after it is the same (R123). -/
theorem reading_offer (kind : RecordKind) (payload : List Byte) (s : State) :
    reading (offer kind payload s) = reading s := by
  unfold offer
  split
  · unfold takeRecord reading
    rw [(mediumChoice_chooses _).others]
    exact Tmb.handedOut_afterReading s.tmb
  · rfl

/-- A record offered is queued, or dropped and counted (R142, R143, R145). -/
theorem offer_queues (kind : RecordKind) (payload : List Byte) (s : State) :
    Queues s (offer kind payload s) kind payload s.svc.generation := by
  refine ⟨(offer_calm kind payload s).medium, fun takes => ?_, fun drops => ?_⟩
  · unfold offer
    rw [if_pos takes]
    unfold takeRecord
    rw [(mediumChoice_chooses _).store]
    exact ⟨_, rfl, rfl, rfl, rfl, rfl, rfl, rfl, rfl, rfl, rfl, rfl⟩
  · unfold offer
    rw [if_neg (by simp [drops])]
    exact ⟨rfl, rfl, rfl⟩

/-! ## The protection cleared (R153, R154) -/

/-- The protection start absent, and a FULL store READY. -/
def unprotected (s : State) : State :=
  { s with evs := { s.evs with protectionStart := none, state := if s.evs.state = .full then .ready else s.evs.state } }

/-- The STN notice of a FULL store that becomes READY by a release (R164). -/
def releaseNotice (s : State) : Notice :=
  ⟨.stn, ["EXIT".toList, "FULL".toList, "RELEASE".toList, num s.evs.pwq.length, num s.evs.coldDrops,
    timeText (reading s)]⟩

/-- A FULL store is unprotected with a notice. -/
theorem clearProtection_full {s : State} (full : s.evs.state = .full) :
    clearProtection s =
      mediumChoice (postNotice .stn (releaseNotice s).fields (takeReading (unprotected s))) := by
  unfold clearProtection unprotected
  rw [if_pos full, if_pos full]
  rfl

/-- A store in another state is unprotected without one. -/
theorem clearProtection_not_full {s : State} (other : s.evs.state ≠ .full) :
    clearProtection s = mediumChoice (unprotected s) := by
  unfold clearProtection unprotected
  rw [if_neg other, if_neg other]

/-- Clearing the protection changes the clock's last reading, the store and the link alone. -/
theorem clearProtection_others (s : State) :
    clearProtection s = { s with
      tmb := (clearProtection s).tmb
      evs := (clearProtection s).evs
      hlk := (clearProtection s).hlk } := by
  by_cases full : s.evs.state = .full
  · rw [clearProtection_full full, (mediumChoice_chooses _).others, postNotice_others]
    rfl
  · rw [clearProtection_not_full full, (mediumChoice_chooses _).others]
    rfl

/-- Clearing the protection unprotects the store, and may start the next operation (R153, R154). -/
theorem clearProtection_store (s : State) :
    (clearProtection s).evs = { (unprotected s).evs with
      sectors := (clearProtection s).evs.sectors
      due := (clearProtection s).evs.due
      activity := (clearProtection s).evs.activity
      waitingRead := (clearProtection s).evs.waitingRead
      lastRead := (clearProtection s).evs.lastRead } := by
  by_cases full : s.evs.state = .full
  · rw [clearProtection_full full, (mediumChoice_chooses _).store, postNotice_others]
    rfl
  · rw [clearProtection_not_full full, (mediumChoice_chooses _).store]

/-- With no read waiting, clearing the protection posts the release of a FULL store and nothing else on the link. -/
theorem clearProtection_quiet {s : State} (quiet : s.evs.waitingRead = none) :
    Posts s (clearProtection s) (if s.evs.state = .full then [releaseNotice s] else []) ∧
      (clearProtection s).hlk.settings = s.hlk.settings ∧ (clearProtection s).hlk.inProgress = s.hlk.inProgress := by
  by_cases full : s.evs.state = .full
  · rw [clearProtection_full full, if_pos full]
    obtain ⟨settings, _, _, _, _, inProgress⟩ :=
      postNotice_link .stn (releaseNotice s).fields (takeReading (unprotected s))
    have posted := postNotice_posts .stn (releaseNotice s).fields (takeReading (unprotected s))
    have link := (mediumChoice_quiet (s := postNotice .stn (releaseNotice s).fields (takeReading (unprotected s)))
      (by rw [postNotice_others]; exact quiet)).1
    exact ⟨posted.of_links rfl link, by rw [link]; exact settings, by rw [link]; exact inProgress⟩
  · rw [clearProtection_not_full full, if_neg full]
    have link := (mediumChoice_quiet (s := unprotected s) quiet).1
    exact ⟨(Posts.refl s).of_links rfl link, by rw [link]; rfl, by rw [link]; rfl⟩

/-! ## The verdict formed (R110, R113, R114) -/

/-- The SVN notice of a verdict (R110). -/
def verdictNotice (v : Verdict) : Notice :=
  ⟨.svn, [num v.surveyId, v.cause.text, v.overall.text, optText num v.sequence]⟩

/-- The settings unit with the survey in another state and the verdict formed. -/
def Svc.concluded (c : Svc) (v : Verdict) (after : SurveyState) : Svc :=
  { c with survey := { c.survey with state := after }, verdict := some v }

section
variable (cause : VerdictCause) (after : SurveyState) (s : State)

/-- The verdict formed, its record offered and the survey's state set, before the notice (R110). -/
def verdictRecorded : State :=
  { offer .vdt (formVerdict cause s).payload s with svc := s.svc.concluded (formVerdict cause s) after }

/-- Concluding a survey is recording its verdict and posting it. -/
theorem concludeSurvey_eq :
    concludeSurvey cause after s =
      postNotice .svn (verdictNotice (formVerdict cause s)).fields (verdictRecorded cause after s) := by
  unfold concludeSurvey
  dsimp only
  rw [offer_svc]
  rfl

/-- Concluding a survey changes the settings unit by the survey's state and its verdict, the clock and the store by the
record, and the link. -/
theorem concludeSurvey_others :
    concludeSurvey cause after s = { s with
      svc := s.svc.concluded (formVerdict cause s) after
      tmb := (concludeSurvey cause after s).tmb
      evs := (offer .vdt (formVerdict cause s).payload s).evs
      hlk := (concludeSurvey cause after s).hlk } := by
  rw [concludeSurvey_eq, postNotice_others]
  unfold verdictRecorded
  rw [offer_others]

/-- Concluding a survey queues the record of its verdict. -/
theorem concludeSurvey_queues :
    Queues s (concludeSurvey cause after s) .vdt (formVerdict cause s).payload s.svc.generation := by
  obtain ⟨medium, takes, drops⟩ := offer_queues .vdt (formVerdict cause s).payload s
  refine ⟨?_, ?_, ?_⟩
  all_goals rw [concludeSurvey_others]
  · exact medium
  · exact takes
  · exact drops

/-- With no read waiting, concluding a survey posts its SVN and nothing else on the link. -/
theorem concludeSurvey_quiet (quiet : s.evs.waitingRead = none) :
    Posts s (concludeSurvey cause after s) [verdictNotice (formVerdict cause s)] ∧
      (concludeSurvey cause after s).hlk.settings = s.hlk.settings ∧
      (concludeSurvey cause after s).hlk.inProgress = s.hlk.inProgress := by
  have link : (verdictRecorded cause after s).hlk = s.hlk := (offer_quiet .vdt _ quiet).1
  rw [concludeSurvey_eq]
  obtain ⟨settings, _, _, _, _, inProgress⟩ :=
    postNotice_link .svn (verdictNotice (formVerdict cause s)).fields (verdictRecorded cause after s)
  have posted := postNotice_posts .svn (verdictNotice (formVerdict cause s)).fields (verdictRecorded cause after s)
  exact ⟨posted.of_links link.symm rfl, settings.trans (congrArg Hlk.settings link),
    inProgress.trans (congrArg Hlk.inProgress link)⟩

end

/-! ## The release (R115, R153, R164) -/

section
variable (s : State)

/-- The RELEASE record offered, the protection cleared and the survey context IDLE, before the reply (R115). -/
def released : State :=
  { clearProtection (offer .svy (surveyReleasePayload (s.svc.survey.id.getD 0)) s) with
    svc := { s.svc with survey := SurveyContext.idle } }

/-- A release is answered once all of it is done. -/
theorem releaseSurvey_eq : releaseSurvey s = answer .ok [] (released s) := by
  have kept : (clearProtection (offer .svy (surveyReleasePayload (s.svc.survey.id.getD 0)) s)).svc = s.svc := by
    rw [clearProtection_others, offer_svc]
  unfold releaseSurvey
  dsimp only
  rw [kept]
  rfl

/-- A release changes the survey context, the clock's last reading, the store and the link alone. -/
theorem released_others :
    released s = { s with
      svc := { s.svc with survey := SurveyContext.idle }
      tmb := (released s).tmb
      evs := (released s).evs
      hlk := (released s).hlk } := by
  unfold released
  rw [clearProtection_others, offer_others]

/-- A release unprotects the store that has taken its record, and may start the next operation. -/
theorem released_store :
    (released s).evs = { (unprotected (offer .svy (surveyReleasePayload (s.svc.survey.id.getD 0)) s)).evs with
      sectors := (released s).evs.sectors
      due := (released s).evs.due
      activity := (released s).evs.activity
      waitingRead := (released s).evs.waitingRead
      lastRead := (released s).evs.lastRead } :=
  clearProtection_store _

/-- A release leaves no protection, and a FULL store READY (R153). -/
theorem released_unprotected :
    (released s).evs.protectionStart = none ∧
      (released s).evs.state = if s.evs.state = .full then .ready else s.evs.state := by
  rw [released_store]
  dsimp only [unprotected]
  rw [offer_state]
  exact ⟨rfl, rfl⟩

/-- A release queues its record (R115). -/
theorem released_queues :
    Queues s (released s) .svy (surveyReleasePayload (s.svc.survey.id.getD 0)) s.svc.generation := by
  obtain ⟨medium, takes, drops⟩ := offer_queues .svy (surveyReleasePayload (s.svc.survey.id.getD 0)) s
  refine ⟨?_, ?_, ?_⟩
  all_goals rw [released_store]
  · exact medium
  · exact takes
  · exact drops

/-- With no read waiting, a release posts the STN of a FULL store, with the occupancy and the drops that it leaves, and
nothing else on the link (R164). -/
theorem released_quiet (quiet : s.evs.waitingRead = none) :
    Posts s (released s) (if s.evs.state = .full then [⟨.stn, ["EXIT".toList, "FULL".toList, "RELEASE".toList,
        num (released s).evs.pwq.length, num (released s).evs.coldDrops, timeText (reading s)]⟩] else []) ∧
      (released s).hlk.settings = s.hlk.settings ∧ (released s).hlk.inProgress = s.hlk.inProgress := by
  obtain ⟨link, still_quiet⟩ := offer_quiet .svy (surveyReleasePayload (s.svc.survey.id.getD 0)) quiet
  obtain ⟨posts, settings, inProgress⟩ := clearProtection_quiet still_quiet
  have occupancy := congrArg Evs.pwq (released_store s)
  have drops := congrArg Evs.coldDrops (released_store s)
  refine ⟨?_, settings.trans (congrArg Hlk.settings link), inProgress.trans (congrArg Hlk.inProgress link)⟩
  rw [occupancy, drops]
  rw [offer_state, releaseNotice, reading_offer] at posts
  exact posts.of_links link.symm rfl

end

/-! ## SVA and SVR -/

/-- An SVA row on a free link is carried out by the survey controller over the taken request. -/
theorem exec_sva {s : State} (free : s.LinkFree) {fields : List Text} (wf : wellFormedFields fields = true) :
    exec (.sva fields) s = .next (runSva fields (taken .sva s)) :=
  congrArg Host.Outcome.next (request_taken free .sva wf)

/-- An SVR row on a free link is carried out by the survey controller over the taken request. -/
theorem exec_svr {s : State} (free : s.LinkFree) {fields : List Text} (wf : wellFormedFields fields = true) :
    exec (.svr fields) s = .next (runSvr fields (taken .svr s)) :=
  congrArg Host.Outcome.next (request_taken free .svr wf)

/-- SVA takes no fields. -/
theorem runSva_of_fields {fields : List Text} (given : fields ≠ []) (s : State) : runSva fields s = answer .syn [] s :=
  if_pos given

/-- SVR takes no fields. -/
theorem runSvr_of_fields {fields : List Text} (given : fields ≠ []) (s : State) : runSvr fields s = answer .syn [] s :=
  if_pos given

/-- SVA by the state of the survey (R114). -/
theorem runSva_nil (s : State) :
    runSva [] s = match s.svc.survey.state with
      | .armed => answer .ok [] { s with svc := { s.svc with survey := SurveyContext.idle } }
      | .running => answer .ok [] (concludeSurvey .host .aborted s)
      | _ => answer .stt [] s := by
  unfold runSva
  rw [if_neg (not_not_intro rfl)]
  cases s.svc.survey.state <;> rfl

/-- SVR releases a survey that is COMPLETE or ABORTED, and refuses in any other state (R115). -/
theorem runSvr_nil (s : State) :
    runSvr [] s =
      if s.svc.survey.state = .complete ∨ s.svc.survey.state = .aborted then releaseSurvey s else answer .stt [] s := by
  unfold runSvr
  rw [if_neg (not_not_intro rfl)]
  cases s.svc.survey.state <;> rfl

/-- SVA on an ARMED survey: the context IDLE, and nothing else but the link (R114). -/
theorem sva_armed {s : State} (free : s.LinkFree) :
    let t := answer .ok [] { taken .sva s with svc := { s.svc with survey := SurveyContext.idle } }
    Answered t .sva .ok [] ∧ LinkKept s t ∧
      t = { s with svc := { s.svc with survey := SurveyContext.idle }, hlk := t.hlk } := by
  refine ⟨answer_answered rfl _ _, answer_kept (c := .sva) ?_ _ _ free.inProgress, ?_⟩
  · rfl
  · rw [answer_others]
    rfl

/-- What the conclusion of a RUNNING survey by the host leaves (R110, R114). -/
theorem sva_running {s : State} (free : s.LinkFree) (one : s.OneRequest) :
    let t := answer .ok [] (concludeSurvey .host .aborted (taken .sva s))
    let v := formVerdict .host s
    Answered t .sva .ok [] ∧ t.svc = s.svc.concluded v .aborted ∧ Queues s t .vdt v.payload s.svc.generation ∧
      Posts s t [verdictNotice v] ∧
      t = { s with
        svc := { s.svc with survey := t.svc.survey, verdict := t.svc.verdict }
        tmb := t.tmb
        evs := t.evs
        hlk := t.hlk } ∧
      t.evs.protectionStart = s.evs.protectionStart := by
  intro t v
  obtain ⟨posts, settings, inProgress⟩ :=
    concludeSurvey_quiet .host .aborted (taken .sva s) (one.no_read free.inProgress)
  have others : t = { s with
      svc := s.svc.concluded v .aborted
      tmb := t.tmb
      evs := (offer .vdt v.payload (taken .sva s)).evs
      hlk := t.hlk } := by
    unfold t
    rw [answer_others, concludeSurvey_others]
    rfl
  have service := congrArg State.svc others
  have store := congrArg State.evs others
  refine ⟨answer_answered inProgress _ _, service,
    (concludeSurvey_queues .host .aborted (taken .sva s)).command _ _, posts.command settings _ _, ?_, ?_⟩
  · rw [service, store]
    exact others
  · rw [store, offer_store]
    rfl

/-- What the release of a COMPLETE or ABORTED survey leaves (R115, R153, R164). -/
theorem svr_ended {s : State} (free : s.LinkFree) (one : s.OneRequest) :
    let t := answer .ok [] (released (taken .svr s))
    Answered t .svr .ok [] ∧ Queues s t .svy (surveyReleasePayload (s.svc.survey.id.getD 0)) s.svc.generation ∧
      t.evs.protectionStart = none ∧ t.evs.state = (if s.evs.state = .full then .ready else s.evs.state) ∧
      Posts s t (if s.evs.state = .full then [⟨.stn, ["EXIT".toList, "FULL".toList, "RELEASE".toList,
        num t.evs.pwq.length, num t.evs.coldDrops, timeText (reading s)]⟩] else []) ∧
      t = { s with svc := { s.svc with survey := SurveyContext.idle }, tmb := t.tmb, evs := t.evs, hlk := t.hlk } := by
  intro t
  obtain ⟨posts, settings, inProgress⟩ := released_quiet (taken .svr s) (one.no_read free.inProgress)
  have others : t = { s with
      svc := { s.svc with survey := SurveyContext.idle }
      tmb := t.tmb
      evs := (released (taken .svr s)).evs
      hlk := t.hlk } := by
    unfold t
    rw [answer_others, released_others]
    rfl
  have store := congrArg State.evs others
  obtain ⟨start, state⟩ := released_unprotected (taken .svr s)
  rw [store]
  exact ⟨answer_answered inProgress _ _, (released_queues (taken .svr s)).command _ _, start, state,
    posts.command settings _ _, others⟩

/-- Settles O34: SVA and SVR by the survey's state, over the request as it is taken. -/
theorem svaAndSvrEndTheSurvey : Obligations.SvaAndSvrEndTheSurvey := by
  refine ⟨fun s free one => ⟨_, exec_sva free rfl, ?_⟩, fun s free one => ⟨_, exec_svr free rfl, ?_⟩,
    fun s fields free wf given => ⟨⟨_, exec_sva free wf, ?_⟩, ⟨_, exec_svr free wf, ?_⟩⟩⟩
  · rw [runSva_nil]
    dsimp only [taken]
    cases s.svc.survey.state with
    | armed => exact sva_armed free
    | running =>
      obtain ⟨answered, service, queues, posts, others, kept⟩ := sva_running free one
      exact ⟨answered, congrArg Svc.survey service, ⟨_, congrArg Svc.verdict service, rfl, queues, posts⟩, others,
        kept⟩
    | idle => exact answer_only .stt [] free.inProgress
    | complete => exact answer_only .stt [] free.inProgress
    | aborted => exact answer_only .stt [] free.inProgress
  · by_cases ended : s.svc.survey.state = .complete ∨ s.svc.survey.state = .aborted
    · rw [if_pos ended, (runSvr_nil _).trans (if_pos (by exact ended)), releaseSurvey_eq]
      exact svr_ended free one
    · rw [if_neg ended, (runSvr_nil _).trans (if_neg (by exact ended))]
      exact answer_only .stt [] free.inProgress
  · rw [runSva_of_fields given]
    exact answer_only .syn [] free.inProgress
  · rw [runSvr_of_fields given]
    exact answer_only .syn [] free.inProgress

end Sys2Proof.Machine
end

section
/-! Requests on a free link: what a row's command answers, and the reports that change nothing but the link. -/

namespace Sys2Proof.Machine

/-- A request row is the request of its command and fields. -/
theorem exec_request {i : Instr} {c : Command} {fields : List Text} (form : requestForm i = some (c, fields)) (s : State) :
    exec i s = .next (request c fields s) := by
  cases i
  case tis broadcast given =>
    cases broadcast with
    | false => cases form; rfl
    | true => cases form
  all_goals (cases form; try rfl)

/-- A request row on a free link is carried out by the owning block over the taken request. -/
theorem exec_taken {i : Instr} {c : Command} {fields : List Text} (form : requestForm i = some (c, fields)) {s : State}
    (free : s.LinkFree) (wf : wellFormedFields fields = true) :
    exec i s = .next (runCommand c fields (taken c s)) := by
  rw [exec_request form, request_taken free c wf]

/-- What a command leaves that changes other blocks and answers: the reply, the link, and the blocks it changed. -/
theorem answer_after {s u : State} {c : Command} (free : s.LinkFree) (link : u.hlk = (taken c s).hlk) (status : Status)
    (fields : List Text) :
    Answered (answer status fields u) c status fields ∧ LinkKept s (answer status fields u) ∧
      answer status fields u = { u with hlk := (answer status fields u).hlk } :=
  ⟨answer_answered (by rw [link]; rfl) _ _, answer_kept link _ _ free.inProgress, answer_others _ _ u⟩

/-- A command that answers alone changes the link alone. -/
theorem exec_answers {i : Instr} {c : Command} {fields : List Text} (form : requestForm i = some (c, fields)) {s : State}
    (free : s.LinkFree) (wf : wellFormedFields fields = true) {status : Status} {reply : List Text}
    (runs : runCommand c fields (taken c s) = answer status reply (taken c s)) :
    ∃ t, exec i s = .next t ∧ AnsweredOnly s t c status reply :=
  ⟨_, exec_taken form free wf, by rw [runs]; exact answer_only status reply free.inProgress⟩

/-- The values present, phase by phase. -/
theorem presentValues_eq {α : Type} (x : PerPhase (Option α)) : presentValues x = [x.l1, x.l2, x.l3].filterMap id := by
  obtain ⟨a, b, c⟩ := x
  cases a <;> cases b <;> cases c <;> rfl

/-- The records open, kind by kind. -/
theorem Evd.openContexts_eq (e : Evd) : e.openContexts = [e.dip, e.swell, e.interruption].filterMap id := by
  obtain ⟨_, a, b, c, _, _, _⟩ := e
  cases a <;> cases b <;> cases c <;> rfl

/-- Settles O8: the map is answered as it stands, and its marks are cleared with the answer. -/
theorem phmReportsAndClearsTheMarks : Obligations.PhmReportsAndClearsTheMarks := by
  intro s fields free wf
  refine ⟨_, exec_taken rfl free wf, ?_⟩
  split
  case isTrue given =>
    rw [show runCommand .phm fields = runPhm fields from rfl, runPhm, if_pos given]
    exact answer_only .syn [] free.inProgress
  case isFalse none_given =>
    rw [show runCommand .phm fields = runPhm fields from rfl, runPhm, if_neg none_given, presentValues_eq]
    obtain ⟨answered, kept, others⟩ := answer_after (c := .phm) free (u := { taken .phm s with
      cyt := { s.cyt with presence := PerPhase.build (fun p => (s.cyt.presence.get p).map Presence.cleared) } }) rfl .ok
      (phaseText s.cyt.reference :: ([s.cyt.presence.l1, s.cyt.presence.l2, s.cyt.presence.l3].filterMap id).map
        Presence.field)
    exact ⟨answered, kept, others⟩

/-- Settles O14: the entries of the open records are their fields, spelled out. -/
theorem evlListsTheOpenRecords : Obligations.EvlListsTheOpenRecords := by
  intro s fields free wf
  split
  case isTrue given => exact exec_answers rfl free wf (if_pos given)
  case isFalse none_given =>
    refine exec_answers rfl free wf ((if_neg none_given).trans ?_)
    rw [show (taken .evl s).evd = s.evd from rfl, Evd.openContexts_eq, countedList, List.length_map]
    congr 3
    funext c
    simp only [Context.fields, extremeFields, countedList, List.length_map, List.cons_append, List.nil_append,
      List.append_assoc]
    rfl

/-- Settles O20: each of the three reports is the text of the latest value, field by field. -/
theorem mvhMvwAndMvfReportTheLatestValues : Obligations.MvhMvwAndMvfReportTheLatestValues := by
  refine ⟨fun s fields free wf => ?_, fun s fields free wf => ?_, fun s fields free wf => ?_⟩
  · split
    case isTrue given => exact exec_answers rfl free wf (if_pos given)
    case isFalse none_given =>
      split
      case h_1 absent =>
        exact exec_answers rfl free wf ((if_neg none_given).trans (by simp only [mvhFields, taken, absent]; rfl))
      case h_2 r held =>
        refine exec_answers rfl free wf ((if_neg none_given).trans ?_)
        simp only [mvhFields, taken, held, presentValues_eq]
        rfl
  · split
    case isTrue given => exact exec_answers rfl free wf (if_pos given)
    case isFalse none_given =>
      split
      case h_1 absent =>
        exact exec_answers rfl free wf ((if_neg none_given).trans (by simp only [mvwFields, taken, absent]; rfl))
      case h_2 w held =>
        refine exec_answers rfl free wf ((if_neg none_given).trans ?_)
        simp only [mvwFields, taken, held, presentValues_eq]
        rfl
  · split
    case isTrue given => exact exec_answers rfl free wf (if_pos given)
    case isFalse none_given =>
      split
      case h_1 absent =>
        exact exec_answers rfl free wf ((if_neg none_given).trans (by simp only [mvfFields, taken, absent]; rfl))
      case h_2 f held =>
        exact exec_answers rfl free wf ((if_neg none_given).trans (by simp only [mvfFields, taken, held]))

/-- Settles O24. -/
theorem tlfTluAndTlmServeTheBank : Obligations.TlfTluAndTlmServeTheBank := by
  refine ⟨fun s fields free wf => ⟨⟨_, exec_taken rfl free wf, ?_⟩, ⟨_, exec_taken rfl free wf, ?_⟩⟩,
    fun s free => ⟨exec_answers rfl free rfl rfl, exec_answers rfl free rfl rfl, exec_answers rfl free rfl rfl⟩,
    fun s fields free wf dip swell int => exec_answers rfl free wf ?_⟩
  · split
    case isTrue given =>
      rw [show runCommand .tlf fields = runTlf fields from rfl, runTlf, if_pos given]
      exact answer_only .syn [] free.inProgress
    case isFalse none_given =>
      rw [show runCommand .tlf fields = runTlf fields from rfl, runTlf, if_neg none_given]
      exact answer_after (c := .tlf) free (u := { taken .tlf s with tlb := { s.tlb with frozen := true } }) rfl .ok _
  · split
    case isTrue given =>
      rw [show runCommand .tlu fields = runTlu fields from rfl, runTlu, if_pos given]
      exact answer_only .syn [] free.inProgress
    case isFalse none_given =>
      rw [show runCommand .tlu fields = runTlu fields from rfl, runTlu, if_neg none_given]
      exact answer_after (c := .tlu) free (u := { taken .tlu s with tlb := { s.tlb with frozen := false } }) rfl .ok _
  · show runTlm fields (taken .tlm s) = _
    unfold runTlm
    split
    case h_1 t =>
      rw [if_neg (fun h => dip (by rw [h])), if_neg (fun h => swell (by rw [h])), if_neg (fun h => int (by rw [h]))]
    case h_2 => rfl

/-- Settles O35: the parts of a verdict's body are absent together. -/
theorem svqAndSvvReportTheSurvey : Obligations.SvqAndSvvReportTheSurvey := by
  intro s fields free wf
  constructor
  · split
    case isTrue given => exact exec_answers rfl free wf (if_pos given)
    case isFalse none_given => exact exec_answers rfl free wf (if_neg none_given)
  · split
    case isTrue given => exact exec_answers rfl free wf (if_pos given)
    case isFalse none_given =>
      split
      case h_1 absent =>
        exact exec_answers rfl free wf ((if_neg none_given).trans (by simp only [svvFields, taken, absent]; rfl))
      case h_2 v held =>
        refine exec_answers rfl free wf ((if_neg none_given).trans ?_)
        simp only [svvFields, taken, held]
        cases body : v.body with
        | none => rfl
        | some b => rfl

end Sys2Proof.Machine
end

section
/-! Samples, calibrations, presence and the step: the rows whose effect is one definition unfolded. -/

namespace Sys2Proof.Machine

/-- Settles O1: the three branches of the limit are the three positions of the difference. -/
theorem everySampleIsOffsetAndLimited : Obligations.EverySampleIsOffsetAndLimited := by
  intro raw set p _ _
  have low := BitVec.le_toInt (raw.get p)
  have high := BitVec.toInt_lt (x := raw.get p)
  simp only [conditionAll, PerPhase.build_get, conditionSample]
  constructor
  · split
    · omega
    · split <;> omega
  · simp only [Bool.or_eq_true, beq_iff_eq, decide_eq_true_eq]
    omega

theorem clampDivisor_eq (d : Nat) : clampDivisor d = max 950 (min 1050 d) := by
  unfold clampDivisor
  split
  · omega
  · split <;> omega

/-- Settles O9: the run of nine contradictions before the flip is the count below ten that the entry raises. -/
theorem tenthContradictionFlipsPresence : Obligations.TenthContradictionFlipsPresence := by
  intro e v
  refine ⟨fun agrees => if_pos agrees, fun contradicts short => ?_, fun contradicts long => ?_⟩
  · exact (if_neg contradicts).trans (if_pos (by omega))
  · refine (if_neg contradicts).trans ((if_neg (by omega)).trans ?_)
    cases present : e.present <;> simp

/-! ## The step -/

theorem step_pending {s : State} {i : Instr} {rest : List Instr} (queue : s.pending = i :: rest) :
    step s = exec i { s with pending := rest } := by
  unfold step
  rw [queue]

theorem step_empty {s : State} (queue : s.pending = []) : step s = idle s := by
  unfold step
  rw [queue]

theorem tickReached_iff (now t : Tick) : tickReached now t = true ↔ (now - t).toNat < 2147483648 := by
  simp [tickReached]

theorem Option.any_iff_exists {α : Type} (x : Option α) (p : α → Bool) : x.any p = true ↔ ∃ a, x = some a ∧ p a = true := by
  cases x <;> simp

theorem qualificationDue_iff (s : State) : qualificationDue s = true ↔
    s.spm.power = .starting ∧ ∃ x, s.spm.qualification = some x ∧ (s.tmb.tick - x).toNat < 2147483648 := by
  simp only [qualificationDue, Bool.and_eq_true, beq_iff_eq, Option.any_iff_exists, tickReached_iff]

theorem windowEndDue_iff (s : State) : windowEndDue s = true ↔
    s.spm.power = .rideThrough ∧ ∃ x, s.spm.rideTimer = some x ∧ (s.tmb.tick - x).toNat < 2147483648 := by
  simp only [windowEndDue, Bool.and_eq_true, beq_iff_eq, Option.any_iff_exists, tickReached_iff]

theorem frameTimeoutDue_iff (s : State) : frameTimeoutDue s = true ↔
    linkOn s = true ∧ ∃ r, s.hlk.reception = some r ∧ 32768 ≤ tickSpan r.startTick s.tmb.tick := by
  simp only [frameTimeoutDue, Bool.and_eq_true, Option.any_iff_exists, decide_eq_true_eq]

theorem replyEligibleDue_iff (s : State) : replyEligibleDue s = true ↔
    linkOn s = true ∧ ∃ r, s.hlk.reply = some r ∧ r.eligible = false ∧ r.delay ≤ tickSpan r.formedAt s.tmb.tick := by
  simp only [replyEligibleDue, Bool.and_eq_true, Option.any_iff_exists, Reply.due, Bool.not_eq_true', Bool.or_eq_true,
    decide_eq_true_eq]
  refine and_congr_right fun _ => exists_congr fun r => and_congr_right fun _ => and_congr_right fun early => ?_
  simp [early]

theorem holdoverDue_iff (s : State) : holdoverDue s = true ↔ s.tmb.quality = .locked ∧ sampling s = true ∧
    ∃ w, s.tmb.watchFrom = some w ∧ 98304 ≤ tickSpan w s.tmb.tick := by
  unfold holdoverDue
  split
  case h_1 w watched => simp [watched, and_assoc]
  case h_2 unwatched => simp [unwatched]

theorem anchorExpiryDue_iff (s : State) : anchorExpiryDue s = true ↔ s.tmb.anchorExpired = false ∧
    ∃ a, s.tmb.anchor = some a ∧ 36045 < tickSpan a s.tmb.tick := by
  unfold anchorExpiryDue
  split
  case h_1 a anchored => simp [anchored]
  case h_2 loose => simp [loose]

theorem calibrationDue_iff (s : State) : calibrationDue s = true ↔ sampling s = true ∧
    ∃ o, s.ich.lastOpen = some o ∧ 1966080 ≤ tickSpan o s.tmb.tick := by
  cases opened : s.ich.lastOpen <;> simp [calibrationDue, Ich.sinceOpen, opened]

/-- An open window ends a calibration window after its opening (R4). -/
theorem calibrationEnds_iff (s : State) : calibrationEnds s = true ↔ (sampling s = true ∧ s.ich.windowOpen = true) ∧
    (8192 ≤ s.ich.sinceOpen s.tmb.tick) := by
  simp only [calibrationEnds, Bool.and_eq_true, decide_eq_true_eq]

/-- Settles O5. -/
theorem calibrationSetsThePendingDivisor : Obligations.CalibrationSetsThePendingDivisor := by
  refine ⟨fun s samples late => ?_, fun s n1 samples isOpen ⟨o, opened, late⟩ => ?_⟩
  · exact congrArg Host.Outcome.next (if_pos ((calibrationDue_iff s).mpr ⟨samples, late⟩))
  · have ends := (calibrationEnds_iff s).mpr ⟨⟨samples, isOpen⟩, by rw [Ich.sinceOpen, opened]; exact late⟩
    refine congrArg Host.Outcome.next ((if_pos ends).trans ?_)
    simp only [Ich.calibrated, clampDivisor_eq, divisorClamped, candidateDivisor, Bool.decide_or, gt_iff_lt]
    rfl

/-- Settles O57: an empty queue goes through the events in their order, each by what makes it due. -/
theorem stepRunsTheFrontCommand : Obligations.StepRunsTheFrontCommand := by
  refine ⟨fun s i rest queue => step_pending queue, fun s i => rfl, fun s queue => ?_⟩
  rw [step_empty queue]
  unfold idle
  simp only [← qualificationDue_iff, ← windowEndDue_iff, ← frameTimeoutDue_iff, ← replyEligibleDue_iff, ← holdoverDue_iff,
    ← anchorExpiryDue_iff, ← calibrationDue_iff]
  refine ⟨fun a => ?_, fun a b => ?_, fun a b c => ?_, fun a b c d => ?_, fun a b c d e => ?_, fun a b c d e f => ?_,
    fun a b c d e f g => ?_, fun a b c d e f g => ?_⟩
  · rw [if_pos a]; rfl
  · rw [if_neg a, if_pos b]; rfl
  · rw [if_neg a, if_neg b, if_pos c]; rfl
  · rw [if_neg a, if_neg b, if_neg c, if_pos d]; rfl
  · rw [if_neg a, if_neg b, if_neg c, if_neg d, if_pos e]; rfl
  · rw [if_neg a, if_neg b, if_neg c, if_neg d, if_neg e, if_pos f]; rfl
  · rw [if_neg a, if_neg b, if_neg c, if_neg d, if_neg e, if_neg f, if_pos g]; rfl
  · rw [if_neg a, if_neg b, if_neg c, if_neg d, if_neg e, if_neg f, if_neg g]

/-! ## The reset state -/

theorem reset_sound : State.reset.Sound where
  medium := rfl
  queue := Nat.zero_le _
  notices := Nat.zero_le _
  buffer := Nat.zero_le _
  divisor := by decide
  pendingDivisor := fun _ h => nomatch h
  sub := by decide
  seconds := Nat.zero_le _
  kept := fun _ h => nomatch h

theorem reset_sized : State.reset.Sized where
  cells := rfl
  dip := rfl
  swell := rfl
  pair := rfl
  sectors := List.length_replicate

theorem reset_oneRequest : State.reset.OneRequest where
  waiting := fun h => absurd rfl h
  flight := fun _ _ h => nomatch h
  ste := fun h => nomatch h
  slot := fun h => absurd rfl h
  off := fun _ _ => ⟨rfl, rfl, fun _ _ h => nomatch h⟩
  abort := fun h => nomatch h

theorem reset_regular : State.reset.evd.Regular where
  kinds := fun k c h => by cases k <;> cases h
  flagged := fun p x h interrupted => by cases p <;> cases h <;> cases interrupted

theorem reset_inRange : State.reset.svc.InRange where
  active := fun n => by cases n <;> decide
  staged := fun _ h => nomatch h
  ordered := List.nil_sublist _

/-- A supply-good in OFF over an erased medium gives the reset state (R180). -/
theorem supplyReturns_off {s : State} (power : s.spm.power = .off) (medium : s.evs.medium = []) (cell : s.pins.backup = .good)
    (queue : s.pending = []) : supplyReturns none false s = State.reset := by
  unfold supplyReturns
  simp only [power, coldStart, medium, cell, queue]
  rfl

/-- Settles O60. -/
theorem resetIsTheColdStartAndMeetsTheInvariants : Obligations.ResetIsTheColdStartAndMeetsTheInvariants :=
  ⟨fun _ power medium cell queue => congrArg Host.Outcome.next (supplyReturns_off power medium cell queue), reset_sound,
    reset_sized, reset_oneRequest, reset_regular, ⟨by decide, by decide, by decide, by decide⟩, reset_inRange, by decide⟩

end Sys2Proof.Machine
end

section
/-! The text of settings (R98, R101, R201): a number and an assignment read back, and what GET answers. -/

namespace Sys2Proof.Machine

/-! ## Numbers read back -/

theorem digitChar_toNat {n : Nat} (h : n < 10) : (digitChar n).toNat = 48 + n := by
  unfold digitChar
  rw [Char.toNat_ofNat, if_pos (Or.inl (by omega))]

theorem isDigit_digitChar {n : Nat} (h : n < 10) : isDigit (digitChar n) = true := by
  simp only [isDigit, digitChar_toNat h, Bool.and_eq_true, decide_eq_true_eq]
  omega

/-- What the digits of a number are: digits alone, which spell it. -/
structure Spells (ds : Text) (n : Nat) : Prop where
  digits : ds.all isDigit = true
  value : digitsValue ds = n

theorem spells_digit {n : Nat} (h : n < 10) : Spells [digitChar n] n :=
  ⟨by rw [List.all_cons, isDigit_digitChar h]; rfl, by
    rw [digitsValue, List.foldl_cons, List.foldl_nil, digitChar_toNat h]
    omega⟩

/-- One digit more makes ten times the number and the digit. -/
theorem Spells.snoc {ds : Text} {n d : Nat} (h : Spells ds n) (small : d < 10) : Spells (ds ++ [digitChar d]) (n * 10 + d) where
  digits := by rw [List.all_append, h.digits, (spells_digit small).digits]; rfl
  value := by
    have value : ds.foldl (fun n c => n * 10 + (c.toNat - 48)) 0 = n := h.value
    rw [digitsValue, List.foldl_append, value, List.foldl_cons, List.foldl_nil, digitChar_toNat small]
    omega

theorem decimalFrom_succ (fuel n : Nat) (acc : Text) : decimalFrom (fuel + 1) n acc =
    if n / 10 = 0 then digitChar (n % 10) :: acc else decimalFrom fuel (n / 10) (digitChar (n % 10) :: acc) := rfl

/-- With fuel for its digits, the decimal form spells its number ahead of what follows. -/
theorem decimalFrom_spells (fuel n : Nat) (acc : Text) (enough : n < 10 ^ (fuel + 1)) :
    ∃ ds : Text, decimalFrom (fuel + 1) n acc = ds ++ acc ∧ ds ≠ [] ∧ Spells ds n := by
  have last : n % 10 < 10 := Nat.mod_lt _ (by decide)
  have whole := Nat.div_add_mod n 10
  induction fuel generalizing n acc with
  | zero =>
    have single : n / 10 = 0 := by omega
    rw [decimalFrom_succ, if_pos single]
    refine ⟨[digitChar (n % 10)], rfl, List.cons_ne_nil _ _, ?_⟩
    have spelled := spells_digit last
    rwa [show n % 10 = n by omega] at spelled ⊢
  | succ fuel ih =>
    rw [decimalFrom_succ]
    split
    case isTrue single =>
      refine ⟨[digitChar (n % 10)], rfl, List.cons_ne_nil _ _, ?_⟩
      have spelled := spells_digit last
      rwa [show n % 10 = n by omega] at spelled ⊢
    case isFalse =>
      have shorter : n / 10 < 10 ^ (fuel + 1) := Nat.div_lt_of_lt_mul (by rwa [pow_succ, Nat.mul_comm] at enough)
      obtain ⟨ds, eq, some_digit, spelled⟩ := ih (n / 10) (digitChar (n % 10) :: acc) shorter
        (Nat.mod_lt _ (by decide)) (Nat.div_add_mod _ _)
      refine ⟨ds ++ [digitChar (n % 10)], by rw [eq, List.append_assoc]; rfl, by simp, ?_⟩
      have more := spelled.snoc last
      rwa [show n / 10 * 10 + n % 10 = n by omega] at more

theorem lt_ten_pow_log2 (n : Nat) : n < 10 ^ (n.log2 + 1) :=
  lt_of_lt_of_le Nat.lt_log2_self (Nat.pow_le_pow_left (by decide) _)

/-- A whole number as R201 writes it is made of digits that spell it. -/
theorem num_spells (n : Nat) : num n ≠ [] ∧ (num n).all isDigit = true ∧ digitsValue (num n) = n := by
  obtain ⟨ds, eq, some_digit, digits, value⟩ := decimalFrom_spells n.log2 n [] (lt_ten_pow_log2 n)
  rw [List.append_nil] at eq
  rw [num, eq]
  exact ⟨some_digit, digits, value⟩

/-- A number written is read back. -/
@[simp] theorem readNat_num (n : Nat) : readNat (num n) = some n := by
  obtain ⟨some_digit, digits, value⟩ := num_spells n
  unfold readNat
  rw [if_pos ⟨some_digit, digits⟩, value]

/-- A signed number written is read back. -/
theorem readInt_int (v : Int) : readInt (int v) = some v := by
  unfold int
  split
  case isTrue negative =>
    rw [readInt, readNat_num]
    exact congrArg some (show -(v.natAbs : Int) = v by omega)
  case isFalse positive =>
    obtain ⟨some_digit, digits, _⟩ := num_spells v.natAbs
    have back := readNat_num v.natAbs
    unfold readInt
    split
    case h_1 t minus =>
      rw [minus] at digits
      exact absurd digits (by simp [isDigit])
    case h_2 =>
      rw [back]
      exact congrArg some (show (v.natAbs : Int) = v by omega)

/-! ## Assignments read back -/

theorem splitAssignment_of_name {name value : Text} (plain : name.all (fun c => c != '=') = true) :
    splitAssignment (name ++ '=' :: value) = some (name, value) := by
  induction name with
  | nil => rfl
  | cons c rest ih =>
    simp only [List.all_cons, Bool.and_eq_true, bne_iff_ne, ne_eq] at plain
    rw [List.cons_append, splitAssignment, if_neg plain.1, ih plain.2]
    rfl

theorem Setting.text_plain (n : Setting) : n.text.all (fun c => c != '=') = true := by cases n <;> decide

@[simp] theorem settingOf_text (n : Setting) : settingOf n.text = some n := by cases n <;> decide

theorem Setting.text_injective {m n : Setting} (same : m.text = n.text) : m = n := by
  have found := settingOf_text m
  rw [same, settingOf_text] at found
  exact (Option.some.inj found).symm

/-- A name found is the name of what it finds. -/
theorem text_of_settingOf {t : Text} {n : Setting} (found : settingOf t = some n) : n.text = t := by
  simpa using List.find?_some found

/-- A value in range is read back from its text, signed for an offset alone. -/
theorem Setting.readValue_valueText {n : Setting} {v : Int} (inRange : n.inRange v = true)
    (sign : 0 ≤ v ∨ n = .o1 ∨ n = .o2 ∨ n = .o3) : n.readValue (n.valueText v) = some v := by
  have unsigned : 0 ≤ v → (readNat (int v)).map (fun x => (x : Int)) = some v := fun positive => by
    rw [int, if_neg (by omega), readNat_num]
    exact congrArg some (show (v.natAbs : Int) = v by omega)
  cases n
  case wiring =>
    have two : v = 3 ∨ v = 1 := by simpa [Setting.inRange] using inRange
    rcases two with rfl | rfl <;> rfl
  case o1 => exact readInt_int v
  case o2 => exact readInt_int v
  case o3 => exact readInt_int v
  all_goals exact unsigned (by rcases sign with h | h | h | h <;> [exact h; cases h; cases h; cases h])

/-- Settles O26. -/
theorem assignmentReadsBack : Obligations.AssignmentReadsBack := by
  intro n v inRange sign
  unfold readAssignment Setting.assignment
  rw [splitAssignment_of_name n.text_plain]
  simp [Setting.readValue_valueText inRange sign]

/-! ## GET -/

theorem mapM_settingOf_text (names : List Setting) : (names.map Setting.text).mapM settingOf = some names := by
  induction names with
  | nil => rfl
  | cons n rest ih => simp [List.mapM_cons, ih]

theorem map_text_of_mapM {fields : List Text} {names : List Setting} (read : fields.mapM settingOf = some names) :
    names.map Setting.text = fields := by
  induction fields generalizing names with
  | nil => cases read; rfl
  | cons f rest ih =>
    rw [List.mapM_cons] at read
    cases found : settingOf f with
    | none => simp [found] at read
    | some n =>
      cases more : rest.mapM settingOf with
      | none => simp [found, more] at read
      | some ns =>
        simp [found, more] at read
        subst read
        rw [List.map_cons, ih more, text_of_settingOf found]

/-- Names each once are read. -/
theorem readNames_text {names : List Setting} (once : names.Nodup) : readNames (names.map Setting.text) = some names := by
  unfold readNames
  rw [mapM_settingOf_text]
  exact if_pos once

/-- Fields with one that is no name, or with a name twice, are not read. -/
theorem readNames_none {fields : List Text} (bad : (∃ f ∈ fields, ∀ n : Setting, f ≠ n.text) ∨ ¬ fields.Nodup) :
    readNames fields = none := by
  unfold readNames
  split
  case h_2 => rfl
  case h_1 names read =>
    have texts := map_text_of_mapM read
    rcases bad with ⟨f, mem, unknown⟩ | twice
    · rw [← texts, List.mem_map] at mem
      obtain ⟨n, _, rfl⟩ := mem
      exact absurd rfl (unknown n)
    · refine if_neg fun once => twice ?_
      rw [← texts]
      exact once.map (fun _ _ same => Setting.text_injective same)

/-- A list of pairs whose names stand once each is found by its names in their order. -/
theorem filterMap_valueGiven {order : List Setting} (once : order.Nodup) {β : Type} (f : Setting → Int → β)
    (values : List (Setting × Int)) (ordered : (values.map Prod.fst).Sublist order) :
    order.filterMap (fun n => (valueGiven values n).map (f n)) = values.map (fun nv => f nv.1 nv.2) := by
  induction order generalizing values with
  | nil =>
    have none_given : values = [] := by simpa using ordered
    rw [none_given]
    rfl
  | cons n order ih =>
    obtain ⟨absent, once⟩ := List.nodup_cons.mp once
    cases values with
    | nil => simp [valueGiven]
    | cons nv values =>
      by_cases first : nv.1 = n
      · have rest : (values.map Prod.fst).Sublist order := by
          rw [List.map_cons, first] at ordered
          exact List.cons_sublist_cons.mp ordered
        rw [List.filterMap_cons, List.map_cons, ← ih once values rest]
        have here : valueGiven (nv :: values) n = some nv.2 := by simp [valueGiven, first]
        rw [here, Option.map_some, first]
        dsimp only
        congr 1
        refine List.filterMap_congr fun m mem => ?_
        have other : nv.1 ≠ m := fun same => absent (by rw [← first, same]; exact mem)
        simp [valueGiven, other]
      · have rest : ((nv :: values).map Prod.fst).Sublist order := by
          rw [List.map_cons] at ordered ⊢
          cases ordered with
          | cons _ h => exact h
          | cons_cons _ _ => exact absurd rfl first
        have gone : valueGiven (nv :: values) n = none := by
          unfold valueGiven
          rw [Option.map_eq_none_iff, List.find?_eq_none]
          intro x mem same
          have named : x.1 = n := by simpa using same
          exact absent (rest.subset (List.mem_map.mpr ⟨x, mem, named⟩))
        rw [List.filterMap_cons, gone]
        exact ih once _ rest

theorem allSettings_nodup : allSettings.Nodup := by decide

theorem Setting.text_ne_staged (n : Setting) : n.text ≠ "STAGED".toList := by cases n <;> decide

theorem runGet_names {fields : List Text} (other : fields ≠ ["STAGED".toList]) {names : List Setting}
    (read : readNames fields = some names) (s : State) : runGet fields s =
      answer .ok (num s.svc.generation.toNat :: bitText (s.svc.staged != []) ::
        (if names = [] then allSettings else names).map (fun n => n.assignment (s.svc.active.get n))) s := by
  unfold runGet
  dsimp only
  rw [if_neg other, read]

theorem runGet_refused {fields : List Text} (other : fields ≠ ["STAGED".toList]) (unread : readNames fields = none)
    (s : State) : runGet fields s = answer .syn [] s := by
  unfold runGet
  dsimp only
  rw [if_neg other, unread]

/-- Settles O28. -/
theorem getReportsTheSettings : Obligations.GetReportsTheSettings := by
  intro s free
  refine ⟨exec_answers (i := .get []) (c := .get) rfl free rfl ?_,
    fun names some_name once wf => exec_answers (c := .get) rfl free wf ?_,
    exec_answers (i := .get ["STAGED".toList]) (c := .get) rfl free rfl ?_, fun inRange => ?_,
    fun fields wf other bad => exec_answers (c := .get) rfl free wf (runGet_refused other (readNames_none bad) _)⟩
  · exact runGet_names (fields := []) (names := []) (List.cons_ne_nil _ _).symm rfl (taken .get s)
  · have other : names.map Setting.text ≠ ["STAGED".toList] := fun h => by
      have mem : "STAGED".toList ∈ names.map Setting.text := by rw [h]; exact List.mem_singleton.mpr rfl
      obtain ⟨n, _, same⟩ := List.mem_map.mp mem
      exact n.text_ne_staged same
    refine (runGet_names other (readNames_text once) _).trans ?_
    rw [if_neg some_name]
    rfl
  · show runGet ["STAGED".toList] (taken .get s) = _
    unfold runGet
    dsimp only
    rw [if_pos rfl, countedList, List.length_map]
    rfl
  · exact (filterMap_valueGiven allSettings_nodup (fun n v => n.text ++ '=' :: n.valueText v) _ inRange.ordered).symm

end Sys2Proof.Machine
end

section
/-! The extremes of an open record (R34): what one phase does to an extreme, and what the phases in their order do. -/

namespace Sys2Proof.Machine

theorem beyond_trans {kind : EventKind} {u v w : Nat} (first : beyond kind u v = true) (second : beyond kind v w = true) :
    beyond kind u w = true := by
  cases kind <;> simp only [beyond, decide_eq_true_eq] at * <;> omega

/-- A value that is not stricter than one is not stricter than a stricter one. -/
theorem not_beyond_of_beyond {kind : EventKind} {u v w : Nat} (lax : ¬ beyond kind u w = true)
    (strict : beyond kind v w = true) : ¬ beyond kind u v = true :=
  fun h => lax (beyond_trans h strict)

theorem not_beyond_self (kind : EventKind) (v : Nat) : ¬ beyond kind v v = true := by
  cases kind <;> simp [beyond]

/-- The value of a phase that takes part in a record of a kind (R30, R34). -/
def partValue (kind : EventKind) (phases : PerPhase (Option PhaseState)) (r : Report) (p : Phase) : Option Nat :=
  match r.values.get p with
  | some v => if (phases.get p).any (fun x => x.takesPart kind) then some v.value else none
  | none => none

/-- What a phase does to an extreme, by its value where it takes part (R34). -/
def takeExtreme (kind : EventKind) (part : Phase → Option Nat) (x : Option Extreme) (p : Phase) : Option Extreme :=
  match part p with
  | some v => updateExtreme kind x p v
  | none => x

theorem progressPhase_extremes (phases : PerPhase (Option PhaseState)) (r : Report) (c : Context) (p : Phase) :
    (c.progressPhase phases r p).kind = c.kind ∧
      (c.progressPhase phases r p).extreme = takeExtreme c.kind (partValue c.kind phases r) c.extreme p ∧
      (c.progressPhase phases r p).chainExtreme = takeExtreme c.kind (partValue c.kind phases r) c.chainExtreme p := by
  unfold Context.progressPhase takeExtreme partValue
  split
  case h_1 absent => exact ⟨rfl, by rw [absent], by rw [absent]⟩
  case h_2 v given =>
    rw [given]
    dsimp only
    split <;> exact ⟨rfl, rfl, rfl⟩

/-- The extremes of a record after a report are those that the phases leave in their order (R34). -/
theorem progress_extremes (c : Context) (phases : PerPhase (Option PhaseState)) (r : Report) :
    (c.progress phases r).extreme = allPhases.foldl (takeExtreme c.kind (partValue c.kind phases r)) c.extreme ∧
      (c.progress phases r).chainExtreme =
        allPhases.foldl (takeExtreme c.kind (partValue c.kind phases r)) c.chainExtreme := by
  suffices all : ∀ (ps : List Phase) (d : Context), d.kind = c.kind →
      (ps.foldl (Context.progressPhase phases r) d).extreme =
        ps.foldl (takeExtreme c.kind (partValue c.kind phases r)) d.extreme ∧
      (ps.foldl (Context.progressPhase phases r) d).chainExtreme =
        ps.foldl (takeExtreme c.kind (partValue c.kind phases r)) d.chainExtreme from all allPhases c rfl
  intro ps
  induction ps with
  | nil => exact fun d _ => ⟨rfl, rfl⟩
  | cons p rest ih =>
    intro d same
    obtain ⟨kind, extreme, chain⟩ := progressPhase_extremes phases r d p
    rw [same] at extreme chain
    obtain ⟨later, laterChain⟩ := ih _ (kind.trans same)
    exact ⟨by rw [List.foldl_cons, later, extreme, List.foldl_cons], by
      rw [List.foldl_cons, laterChain, chain, List.foldl_cons]⟩

/-- What an extreme is once some phases have been taken, in increasing order: no value of them is stricter; it is the one held,
or the first phase's that has the strictest value. -/
structure Reaches (kind : EventKind) (part : Phase → Option Nat) (held : Option Extreme) (done : List Phase)
    (x : Option Extreme) : Prop where
  strictest : ∀ p ∈ done, ∀ v, part p = some v → ∃ e, x = some e ∧ ¬ beyond kind v e.value = true
  source : x = held ∨ ∃ e, x = some e ∧ e.phase ∈ done ∧ part e.phase = some e.value ∧
    (∀ h, held = some h → beyond kind e.value h.value = true) ∧
    ∀ p ∈ done, part p = some e.value → phaseDigit e.phase ≤ phaseDigit p

theorem Reaches.start (kind : EventKind) (part : Phase → Option Nat) (held : Option Extreme) :
    Reaches kind part held [] held :=
  ⟨(fun _ h => nomatch h), .inl rfl⟩

/-- A phase that does not take part leaves the extreme. -/
theorem Reaches.skip {kind : EventKind} {part : Phase → Option Nat} {held x : Option Extreme} {done : List Phase} {p : Phase}
    (h : Reaches kind part held done x) (absent : part p = none) : Reaches kind part held (done ++ [p]) x where
  strictest := fun q mem v value => by
    rcases List.mem_append.mp mem with old | new
    · exact h.strictest q old v value
    · rw [List.mem_singleton.mp new, absent] at value
      cases value
  source := h.source.imp_right fun ⟨e, is, phase, value, stricter, first⟩ =>
    ⟨e, is, List.mem_append_left _ phase, value, stricter, fun q mem same => by
      rcases List.mem_append.mp mem with old | new
      · exact first q old same
      · rw [List.mem_singleton.mp new, absent] at same
        cases same⟩

/-- A phase whose value is not stricter than the extreme leaves it. -/
theorem Reaches.keep {kind : EventKind} {part : Phase → Option Nat} {held : Option Extreme} {done : List Phase} {p : Phase}
    {e : Extreme} {v : Nat} (h : Reaches kind part held done (some e)) (given : part p = some v)
    (lax : ¬ beyond kind v e.value = true) (last : ∀ q ∈ done, phaseDigit q ≤ phaseDigit p) :
    Reaches kind part held (done ++ [p]) (some e) where
  strictest := fun q mem w value => by
    rcases List.mem_append.mp mem with old | new
    · exact h.strictest q old w value
    · rw [List.mem_singleton.mp new, given] at value
      cases value
      exact ⟨e, rfl, lax⟩
  source := h.source.imp_right fun ⟨f, is, phase, value, stricter, first⟩ =>
    ⟨f, is, List.mem_append_left _ phase, value, stricter, fun q mem same => by
      rcases List.mem_append.mp mem with old | new
      · exact first q old same
      · rw [List.mem_singleton.mp new]
        exact last _ phase⟩

/-- A phase whose value is stricter than the extreme, or the first one, gives the extreme. -/
theorem Reaches.pass {kind : EventKind} {part : Phase → Option Nat} {held x : Option Extreme} {done : List Phase} {p : Phase}
    {v : Nat} (h : Reaches kind part held done x) (given : part p = some v)
    (strict : ∀ e, x = some e → beyond kind v e.value = true) :
    Reaches kind part held (done ++ [p]) (some ⟨v, p⟩) where
  strictest := fun q mem w value => by
    refine ⟨⟨v, p⟩, rfl, ?_⟩
    rcases List.mem_append.mp mem with old | new
    · obtain ⟨e, is, lax⟩ := h.strictest q old w value
      exact not_beyond_of_beyond lax (strict e is)
    · rw [List.mem_singleton.mp new, given] at value
      cases value
      exact not_beyond_self kind v
  source := .inr ⟨⟨v, p⟩, rfl, by simp, given, fun e is => by
      rcases h.source with same | ⟨f, isf, _, _, stricter, _⟩
      · exact strict e (same.trans is)
      · exact beyond_trans (strict f isf) (stricter e is), fun q mem same => by
      rcases List.mem_append.mp mem with old | new
      · obtain ⟨e, is, lax⟩ := h.strictest q old v same
        exact absurd (strict e is) lax
      · rw [List.mem_singleton.mp new]⟩

/-- One phase more, later than those taken. -/
theorem Reaches.step {kind : EventKind} {part : Phase → Option Nat} {held x : Option Extreme} {done : List Phase} {p : Phase}
    (h : Reaches kind part held done x) (last : ∀ q ∈ done, phaseDigit q ≤ phaseDigit p) :
    Reaches kind part held (done ++ [p]) (takeExtreme kind part x p) := by
  unfold takeExtreme
  cases given : part p with
  | none => exact h.skip given
  | some v =>
    cases x with
    | none => exact h.pass given (fun _ is => nomatch is)
    | some e =>
      show Reaches kind part held (done ++ [p]) (if beyond kind v e.value then some ⟨v, p⟩ else some e)
      split
      case isTrue strict => exact h.pass given (fun _ is => by cases is; exact strict)
      case isFalse lax => exact h.keep given lax last

/-- The three phases taken in their order. -/
theorem reaches_allPhases (kind : EventKind) (part : Phase → Option Nat) (held : Option Extreme) :
    Reaches kind part held allPhases (allPhases.foldl (takeExtreme kind part) held) :=
  (((Reaches.start kind part held).step (p := .l1) (by decide)).step (p := .l2) (by decide)).step (p := .l3) (by decide)

theorem mem_allPhases (p : Phase) : p ∈ allPhases := by cases p <;> decide

theorem PhaseState.takesPart_iff (x : PhaseState) (kind : EventKind) : x.takesPart kind = true ↔ (match kind with
      | .dip => x.excursion = .low
      | .swell => x.excursion = .high
      | .interruption => x.interrupted = true) := by
  cases kind <;> simp [PhaseState.takesPart]

/-- A phase takes part with a value, spelled out by the kind. -/
theorem partValue_iff (kind : EventKind) (phases : PerPhase (Option PhaseState)) (r : Report) (p : Phase) (v : Nat) :
    partValue kind phases r p = some v ↔ ∃ x y, phases.get p = some x ∧ r.values.get p = some y ∧ y.value = v ∧
      (match kind with
        | .dip => x.excursion = .low
        | .swell => x.excursion = .high
        | .interruption => x.interrupted = true) := by
  unfold partValue
  simp only [← PhaseState.takesPart_iff]
  cases r.values.get p with
  | none => simp
  | some y =>
    cases phases.get p with
    | none => simp
    | some x => cases takes : x.takesPart kind <;> simp [takes]

theorem beyond_iff (kind : EventKind) (v w : Nat) : beyond kind v w = true ↔ (match kind with
      | .dip => v < w
      | .swell => w < v
      | .interruption => v < w) := by
  cases kind <;> simp [beyond]

/-- Settles O13: both extremes go through the phases in their order, so each is the first strictest one. -/
theorem extremeIsTheStrictestValueReached : Obligations.ExtremeIsTheStrictestValueReached := by
  intro c phases r takes stricter follows
  obtain ⟨extreme, chain⟩ := progress_extremes c phases r
  rw [extreme, chain]
  suffices goal : ∀ held, follows held (allPhases.foldl (takeExtreme c.kind (partValue c.kind phases r)) held) from
    ⟨goal _, goal _⟩
  intro held
  have takes_iff : ∀ p v, takes p v ↔ partValue c.kind phases r p = some v := fun p v =>
    (partValue_iff c.kind phases r p v).symm
  have stricter_iff : ∀ v w, stricter v w ↔ beyond c.kind v w = true := fun v w => (beyond_iff c.kind v w).symm
  obtain ⟨strictest, source⟩ := reaches_allPhases c.kind (partValue c.kind phases r) held
  simp only [follows, takes_iff, stricter_iff]
  refine ⟨fun p v given => strictest p (mem_allPhases p) v given, fun idle => ?_, fun e is => ⟨fun lax => ?_, ?_⟩,
    fun fresh e is => ?_⟩
  · rcases source with same | ⟨f, _, _, value, _, _⟩
    · exact same
    · exact absurd value (idle _ _)
  · rcases source with same | ⟨f, _, _, value, strict, _⟩
    · exact same.trans is
    · exact absurd (strict e is) (lax _ _ value)
  · rintro ⟨p, v, given, strict⟩
    rcases source with same | ⟨f, isf, _, value, stricter, first⟩
    · obtain ⟨g, isg, lax⟩ := strictest p (mem_allPhases p) v given
      rw [same, is] at isg
      cases isg
      exact absurd strict lax
    · exact ⟨f, isf, stricter e is, value, fun q same => first q (mem_allPhases q) same⟩
  · rcases source with same | ⟨f, isf, _, value, _, first⟩
    · rw [same, fresh] at is
      cases is
    · rw [isf] at is
      cases is
      exact ⟨value, fun q same => first q (mem_allPhases q) same⟩

end Sys2Proof.Machine
end

section
/-! The chain check (R144): it is linear, so nothing it takes in is lost. -/

namespace Sys2Proof.Machine

/-- The shift as one exclusive-or (R144, step 3). -/
theorem crcShift_eq (c : BitVec 32) : crcShift c = (c <<< 1) ^^^ (if c.msb then 0x04C11DB7#32 else 0#32) := by
  unfold crcShift
  split <;> simp

theorem crcShift_xor (a b : BitVec 32) : crcShift (a ^^^ b) = crcShift a ^^^ crcShift b := by
  have carry : ∀ x y : Bool, (if x ^^ y then 0x04C11DB7#32 else 0#32) =
      (if x then 0x04C11DB7#32 else 0#32) ^^^ (if y then 0x04C11DB7#32 else 0#32) := by decide
  rw [crcShift_eq, crcShift_eq, crcShift_eq, BitVec.shiftLeft_xor_distrib, BitVec.msb_xor, carry]
  ac_rfl

theorem crcShift_injective : Function.Injective crcShift := fun a b same => by
  have zero : crcShift (a ^^^ b) = 0#32 := by rw [crcShift_xor, same, BitVec.xor_self]
  exact BitVec.xor_eq_zero_iff.mp (crcShift_eq_zero.mp zero)

/-- A byte is taken into the most significant bits and shifted eight times. -/
theorem crcByte_eq (c : BitVec 32) (b : Byte) : crcByte c b = crcShift^[8] (c ^^^ (b.setWidth 32 <<< 24)) := rfl

theorem crcByte_injective (b : Byte) : Function.Injective (fun c => crcByte c b) := fun _ _ same =>
  (BitVec.xor_left_inj _).mp (crcShift_injective.iterate 8 same)

theorem highByte_injective : Function.Injective (fun b : Byte => b.setWidth 32 <<< 24) := fun a b same => by
  have nat := congrArg BitVec.toNat same
  simp only [BitVec.toNat_shiftLeft, BitVec.toNat_setWidth, Nat.shiftLeft_eq] at nat
  have := a.isLt
  have := b.isLt
  exact BitVec.eq_of_toNat_eq (by omega)

theorem crcByte_ne {a b : Byte} (differ : a ≠ b) (c : BitVec 32) : crcByte c a ≠ crcByte c b := fun same =>
  differ (highByte_injective ((BitVec.xor_right_inj _).mp (crcShift_injective.iterate 8 same)))

theorem crc32_injective (bytes : List Byte) : Function.Injective (fun preset => crc32 preset bytes) := by
  induction bytes with
  | nil => exact Function.injective_id
  | cons b rest ih => exact ih.comp (crcByte_injective b)

theorem crc32_append_cons (preset : BitVec 32) (before after : List Byte) (b : Byte) :
    crc32 preset (before ++ b :: after) = crc32 (crcByte (crc32 preset before) b) after := by
  simp only [crc32, List.foldl_append, List.foldl_cons]

/-- The shift in whole numbers. -/
theorem crcShift_toNat (c : BitVec 32) : crcShift c =
    BitVec.ofNat 32 (2 * c.toNat) ^^^ (if 2147483648 ≤ c.toNat then 0x04C11DB7#32 else 0#32) := by
  have doubled : c <<< 1 = BitVec.ofNat 32 (2 * c.toNat) := BitVec.eq_of_toNat_eq (by
    simp only [BitVec.toNat_shiftLeft, BitVec.toNat_ofNat, Nat.shiftLeft_eq]
    omega)
  rw [crcShift_eq, doubled, BitVec.msb_eq_decide]
  simp

theorem highByte_eq (b : Byte) : b.setWidth 32 <<< 24 = BitVec.ofNat 32 (b.toNat * 16777216) :=
  BitVec.eq_of_toNat_eq (by
    have := b.isLt
    simp only [BitVec.toNat_shiftLeft, BitVec.toNat_setWidth, BitVec.toNat_ofNat, Nat.shiftLeft_eq]
    omega)

/-- Settles O42: the register is an injective function of its preset and of each byte. -/
theorem checkTellsAnAlteredByteOrPreset : Obligations.CheckTellsAnAlteredByteOrPreset := by
  refine ⟨fun preset bytes b => ⟨rfl, ?_⟩, fun preset before after a b differ same => ?_, fun p q bytes differ same => ?_⟩
  · rw [crc32_append_cons, crcByte_eq, highByte_eq, ← funext crcShift_toNat]
    rfl
  · rw [crc32_append_cons, crc32_append_cons] at same
    exact crcByte_ne differ _ (crc32_injective after same)
  · exact differ (crc32_injective bytes same)

end Sys2Proof.Machine
end

section
/-! Readings in order (R123): a reading is not lower than the last one given while the clock is held or has not gone back. -/

namespace Sys2Proof.Machine

theorem Time.lt_iff (a b : Time) : a.lt b = true ↔ a.seconds < b.seconds ∨ a.seconds = b.seconds ∧ a.ms < b.ms := by
  simp [Time.lt]

theorem Time.lt_irrefl (a : Time) : a.lt a = false := by simp [Time.lt]

/-- A reading under a held clock, or under one not below the last reading, is not below the last reading. -/
theorem Tmb.handedOut_not_lt {t : Tmb} {last : Time} (given : t.lastReading = some last)
    (ahead : t.held = true ∨ t.formed.lt last = false) : t.handedOut.lt last = false := by
  unfold Tmb.handedOut
  rw [given]
  dsimp only
  split
  case isTrue => exact last.lt_irrefl
  case isFalse free =>
    rcases ahead with held | above
    · exact Bool.eq_false_iff.mpr fun below => free ⟨held, below⟩
    · exact above

/-- After a reading the clock is held, or stands at the reading. -/
theorem Tmb.afterReading_ahead (t : Tmb) : t.afterReading.held = true ∨ t.formed = t.handedOut := by
  unfold Tmb.afterReading Tmb.handedOut
  split
  · split
    case isTrue h => exact .inl h.1
    case isFalse => exact .inr rfl
  · exact .inr rfl

/-- A clock that has gone on from a reading, or is held, reads no lower. -/
theorem reading_not_lt {s t : State} (given : t.tmb.lastReading = some (reading s))
    (ahead : t.tmb.held = true ∨ (t.tmb.held = s.tmb.afterReading.held ∧ t.tmb.formed.lt s.tmb.formed = false)) :
    (reading t).lt (reading s) = false := by
  refine Tmb.handedOut_not_lt given ?_
  rcases ahead with held | ⟨same, forward⟩
  · exact .inl held
  · rcases s.tmb.afterReading_ahead with held | stands
    · exact .inl (same.trans held)
    · rw [reading, ← stands]
      exact .inr forward

theorem subToMs_mono {a b : Nat} (h : a ≤ b) : subToMs a ≤ subToMs b := by
  unfold subToMs
  omega

/-- More seconds, or the same with no fewer sub-seconds, are no lower a time. -/
theorem formed_not_lt {t u : Tmb} (later : u.seconds < t.seconds ∨ u.seconds = t.seconds ∧ u.sub ≤ t.sub) :
    t.formed.lt u.formed = false := by
  refine Bool.eq_false_iff.mpr fun lower => ?_
  rw [Time.lt_iff] at lower
  simp only [Tmb.formed] at lower
  rcases later with more | ⟨same, sub⟩
  · omega
  · have := subToMs_mono sub
    omega

/-- A tick that does not wrap the RTC reads no lower. -/
theorem crystalTick_not_lt {s : State} (room : s.tmb.sub < 32767 ∨ s.tmb.seconds < max32) :
    (reading (crystalTick (takeReading s))).lt (reading s) = false := by
  unfold crystalTick
  split
  case isFalse => exact reading_not_lt (by simp [reading]) (.inr ⟨rfl, formed_not_lt (by simp)⟩)
  case isTrue =>
    unfold countRtc
    split
    case isTrue => exact reading_not_lt (by simp [countTick, reading]) (.inr ⟨rfl, formed_not_lt (by simp [countTick])⟩)
    case isFalse full =>
      have more : s.tmb.seconds < max32 := room.resolve_left (by simpa [countTick] using full)
      rw [if_pos (by simpa [countTick] using more)]
      exact reading_not_lt (by simp [countTick, reading]) (.inr ⟨rfl, formed_not_lt (by simp [countTick])⟩)

/-- A notice of the quality takes the reading it would be given. -/
theorem reading_postQuality (before : Quality) (cause : QualityCause) (s : State) :
    reading (postQuality before cause s) = reading s := by
  unfold postQuality
  split
  · rfl
  · rw [postWithReading_others]
    exact Tmb.handedOut_afterReading s.tmb

theorem reading_changeQuality (after : Quality) (cause : QualityCause) (s : State) :
    reading (changeQuality after cause s) = reading s := reading_postQuality _ _ _

/-- The clock as a corrected pulse leaves it, where it does not pass the last second (R128): the second goes on, or the
sub-seconds go back under a hold. -/
theorem correctClock_not_lt {s u : State} {error : Int} (given : u.tmb.lastReading = some (reading s))
    (held : u.tmb.held = s.tmb.afterReading.held) (seconds : u.tmb.seconds = s.tmb.seconds) (zero : error = 0 → s.tmb.sub = 0)
    (room : error < 0 → s.tmb.seconds < max32) : (reading (correctClock error u)).lt (reading s) = false := by
  unfold correctClock
  split
  case isTrue early =>
    rw [if_pos (by rw [seconds]; exact room early)]
    exact reading_not_lt given (.inr ⟨held, formed_not_lt (.inl (by simp [seconds]))⟩)
  case isFalse =>
    split
    case isTrue =>
      refine Tmb.handedOut_not_lt given ?_
      dsimp only
      rw [Bool.or_eq_true]
      by_cases below : ({ u.tmb with sub := 0 } : Tmb).belowLast = true
      · exact .inl (.inr below)
      · unfold Tmb.belowLast at below
        rw [show ({ u.tmb with sub := 0 } : Tmb).lastReading = some (reading s) from given] at below
        exact .inr (Bool.eq_false_iff.mpr below)
    case isFalse early late =>
      exact reading_not_lt given (.inr ⟨held, formed_not_lt (.inr ⟨seconds.symm, (zero (by omega)).le⟩)⟩)

theorem takePulse_not_lt {s : State}
    (near : s.tmb.sub ≤ 3277 ∨ 29491 ≤ s.tmb.sub ∧ s.tmb.sub < 32768 ∧ s.tmb.seconds < max32) :
    (reading (takePulse (takeReading s))).lt (reading s) = false := by
  unfold takePulse
  split
  case isTrue => exact reading_not_lt (by simp [reading]) (.inr ⟨rfl, formed_not_lt (by simp)⟩)
  case isFalse =>
    dsimp only
    rw [takeReading_tmb, Tmb.afterReading_sub]
    have error : phaseError s.tmb.sub = s.tmb.sub ∨ phaseError s.tmb.sub = s.tmb.sub - 32768 ∧ s.tmb.seconds < max32 ∧
        s.tmb.sub < 32768 := by
      unfold phaseError
      split
      · exact .inl rfl
      · exact .inr ⟨rfl, by omega, by omega⟩
    have small : (phaseError s.tmb.sub).natAbs ≤ 3277 := by
      unfold phaseError
      split <;> omega
    rw [if_pos small, correctPhase, reading_changeQuality]
    refine correctClock_not_lt (u := { takeReading s with tmb := s.tmb.afterReading.acceptPulse }) ?_ rfl ?_ ?_ ?_
    · simp [Tmb.acceptPulse, reading]
    · simp [Tmb.acceptPulse]
    · omega
    · omega

/-- Settles O40. -/
theorem readingsNeverRunBackWithoutAStep : Obligations.ReadingsNeverRunBackWithoutAStep :=
  fun _ => ⟨crystalTick_not_lt, takePulse_not_lt⟩

end Sys2Proof.Machine
end

section
/-! The interval record (R61 to R64, R69): its marks, its values and their spread. -/

namespace Sys2Proof.Machine

/-- The bits of the root, from the most significant down, keep it below the number and its successor above. -/
theorem isqrtBits_bounds (n k r : Nat) (low : r * r ≤ n) (high : n < (r + 2 ^ k) * (r + 2 ^ k)) :
    isqrtBits n k r * isqrtBits n k r ≤ n ∧ n < (isqrtBits n k r + 1) * (isqrtBits n k r + 1) := by
  induction k generalizing r with
  | zero => exact ⟨low, by simpa [isqrtBits] using high⟩
  | succ k ih =>
    unfold isqrtBits
    dsimp only
    split
    case isTrue fits => exact ih _ fits (by rwa [pow_succ, Nat.mul_two, ← Nat.add_assoc] at high)
    case isFalse passes => exact ih _ low (not_le.mp passes)

/-- The integer root: the greatest number whose square does not pass (section 4.5). -/
theorem isqrt_bounds (n : Nat) : isqrt n * isqrt n ≤ n ∧ n < (isqrt n + 1) * (isqrt n + 1) := by
  refine isqrtBits_bounds n _ 0 (Nat.zero_le _) ?_
  calc n < 2 ^ (n.log2 + 1) := Nat.lt_log2_self
    _ ≤ 2 ^ ((n.log2 / 2 + 1) + (n.log2 / 2 + 1)) := Nat.pow_le_pow_right (by decide) (by omega)
    _ = (0 + 2 ^ (n.log2 / 2 + 1)) * (0 + 2 ^ (n.log2 / 2 + 1)) := by rw [pow_add, Nat.zero_add]

theorem foldl_max_spec (l : List Nat) (v : Nat) : l.foldl max v ∈ v :: l ∧ ∀ u ∈ v :: l, u ≤ l.foldl max v := by
  induction l generalizing v with
  | nil => simp
  | cons w rest ih =>
    obtain ⟨mem, bound⟩ := ih (max v w)
    rw [List.foldl_cons]
    refine ⟨?_, fun u h => ?_⟩
    · rcases List.mem_cons.mp mem with eq | h
      · rw [eq]
        rcases max_choice v w with e | e <;> rw [e] <;> simp
      · simp [h]
    · have top := bound (max v w) (by simp)
      rcases List.mem_cons.mp h with rfl | h
      · omega
      · rcases List.mem_cons.mp h with rfl | h
        · omega
        · exact bound u (by simp [h])

theorem foldl_min_spec (l : List Nat) (v : Nat) : l.foldl min v ∈ v :: l ∧ ∀ u ∈ v :: l, l.foldl min v ≤ u := by
  induction l generalizing v with
  | nil => simp
  | cons w rest ih =>
    obtain ⟨mem, bound⟩ := ih (min v w)
    rw [List.foldl_cons]
    refine ⟨?_, fun u h => ?_⟩
    · rcases List.mem_cons.mp mem with eq | h
      · rw [eq]
        rcases min_choice v w with e | e <;> rw [e] <;> simp
      · simp [h]
    · have top := bound (min v w) (by simp)
      rcases List.mem_cons.mp h with rfl | h
      · omega
      · rcases List.mem_cons.mp h with rfl | h
        · omega
        · exact bound u (by simp [h])

/-- The spread of some values is the highest of them less the lowest. -/
theorem spreadOf_spec {values : List Nat} (some_value : values ≠ []) : ∃ hi ∈ values, ∃ lo ∈ values,
    spreadOf values = hi - lo ∧ ∀ u ∈ values, lo ≤ u ∧ u ≤ hi := by
  cases values with
  | nil => exact absurd rfl some_value
  | cons v rest =>
    obtain ⟨top, above⟩ := foldl_max_spec rest v
    obtain ⟨bottom, below⟩ := foldl_min_spec rest v
    exact ⟨_, top, _, bottom, rfl, fun u mem => ⟨below u mem, above u mem⟩⟩

theorem mem_presentValues {α : Type} {x : PerPhase (Option α)} {v : α} : v ∈ presentValues x ↔ ∃ p, x.get p = some v := by
  unfold presentValues
  rw [List.mem_filterMap]
  exact ⟨fun ⟨p, _, h⟩ => ⟨p, h⟩, fun ⟨p, h⟩ => ⟨p, by cases p <;> simp, h⟩⟩

/-- The results of an interval with a window, phase by phase. -/
def Interval.phaseResults (i : Interval) (w : Wiring) : PerPhase (Option IntervalPhase) :=
  PerPhase.build (fun p => if wired w p then some ((i.phases.get p).result i.windows) else none)

theorem Interval.results_of_windows {i : Interval} (counted : i.windows ≠ 0) (w : Wiring) :
    i.results w = some (i.phaseResults w) := if_neg counted

theorem intervalValues_get (values : PerPhase (Option IntervalPhase)) (p : Phase) :
    (intervalValues (some values)).get p = (values.get p).map IntervalPhase.value := by
  rw [intervalValues, PerPhase.build_get]
  rfl

/-- The spread of the results is that of two of them, which bound them all. -/
theorem phaseResults_spread (i : Interval) (w : Wiring) : ∃ p q v u, (i.phaseResults w).get p = some v ∧
    (i.phaseResults w).get q = some u ∧
    spreadOf (presentValues (intervalValues (some (i.phaseResults w)))) = v.value - u.value ∧
    ∀ o x, (i.phaseResults w).get o = some x → u.value ≤ x.value ∧ x.value ≤ v.value := by
  have member : ∀ n, n ∈ presentValues (intervalValues (some (i.phaseResults w))) ↔
      ∃ p x, (i.phaseResults w).get p = some x ∧ x.value = n := fun n => by
    rw [mem_presentValues]
    simp only [intervalValues_get, Option.map_eq_some_iff]
  have first : (i.phaseResults w).get .l1 = some (i.phases.l1.result i.windows) := by cases w <;> rfl
  have some_value : presentValues (intervalValues (some (i.phaseResults w))) ≠ [] :=
    List.ne_nil_of_mem ((member _).mpr ⟨.l1, _, first, rfl⟩)
  obtain ⟨hi, memHi, lo, memLo, spread, bounds⟩ := spreadOf_spec some_value
  obtain ⟨p, v, atP, rfl⟩ := (member hi).mp memHi
  obtain ⟨q, u, atQ, rfl⟩ := (member lo).mp memLo
  exact ⟨p, q, v, u, atP, atQ, spread, fun o x atO => bounds _ ((member _).mpr ⟨o, x, atO, rfl⟩)⟩

/-- A phase's result: the root of the mean square, with the range (R61). -/
theorem PhaseSums.result_spec (x : PhaseSums) (windows : Nat) :
    (x.result windows).value * (x.result windows).value ≤ x.squares / windows ∧
      x.squares / windows < ((x.result windows).value + 1) * ((x.result windows).value + 1) ∧
      ∀ low high, x.range = some (low, high) → (x.result windows).low = low ∧ (x.result windows).high = high :=
  ⟨(isqrt_bounds _).1, (isqrt_bounds _).2, fun low high range => by
    simp only [PhaseSums.result, range]
    exact ⟨rfl, rfl⟩⟩

theorem isMember_iff (c : SurveyContext) (mark : Nat) : isMember c mark = true ↔ c.state = .running ∧
    ∃ start stop, c.startMark = some start ∧ c.endMark = some stop ∧ start ≤ mark ∧ mark < stop := by
  unfold isMember SurveyContext.contains
  cases c.startMark <;> cases c.endMark <;> simp

/-- Settles O19. -/
theorem intervalValidityFollowsTheMarks : Obligations.IntervalValidityFollowsTheMarks := by
  intro i closeTime halted s x
  refine ⟨?_, ?_, rfl, rfl, rfl, rfl, rfl, rfl, rfl, rfl, isMember_iff _ _, fun none_counted => if_pos none_counted,
    fun counted => ⟨i.phaseResults s.svc.active.wiring, Interval.results_of_windows counted _, fun p => ?_, ?_⟩, fun none_counted => ?_,
    fun low high counted range => ?_⟩
  · simp only [x, Interval.record, Interval.finalMarks, Bool.or_eq_true, decide_eq_true_eq]
    tauto
  · simp only [x, Interval.record, intervalValid, Bool.and_eq_true, Bool.not_eq_true', Bool.or_eq_false_iff, bne_iff_ne, ne_eq,
      Interval.finalMarks]
    tauto
  · split
    case isTrue on =>
      refine ⟨_, ?_, (i.phases.get p).result_spec i.windows⟩
      rw [Interval.phaseResults, PerPhase.build_get, if_pos on]
    case isFalse off => rw [Interval.phaseResults, PerPhase.build_get, if_neg off]
  · have results : i.results s.svc.active.wiring = some (i.phaseResults s.svc.active.wiring) :=
      Interval.results_of_windows counted _
    have spread : x.spread = spreadOf (presentValues (intervalValues (some (i.phaseResults s.svc.active.wiring)))) := by
      simp only [x, Interval.record, results]
    rw [spread]
    exact phaseResults_spread i s.svc.active.wiring
  · show i.frequency = none
    unfold Interval.frequency
    split
    · exact if_pos none_counted
    · rfl
  · show i.frequency = _
    unfold Interval.frequency
    rw [range]
    exact if_neg counted

end Sys2Proof.Machine
end

section
/-! What each row does, once for every relation between a state and the next: the bounds (O58) and one request at a time
(O59). -/

namespace Sys2Proof.Machine

/-- A relation that the effect of every row but CALIBRATION_COMPLETE has, from a state to the next: one field for each effect,
under the condition in which the row has it. -/
structure OtherRows (R : State → State → Prop) : Prop where
  refl : ∀ s, R s s
  sample : ∀ raw s, R s (takeSample raw s)
  windowOpen : ∀ s, R s (openCalibration s)
  pulse : ∀ s, R s (takePulse s)
  tick : ∀ s, R s (crystalTick s)
  anchor : ∀ s, R s (expireAnchor s)
  holdover : ∀ s, R s (enterHoldover s)
  program : ∀ slot image check readBack s, s.evs.activity = .program slot image check →
    R s (programEnds slot image check readBack s)
  erase : ∀ sector residue s, s.evs.activity = .erase sector → R s (eraseEnds sector residue s)
  slotRead : ∀ slot request s, s.evs.activity = .read slot request →
    R s (completed (answerRead request (s.evs.medium.slot slot) (num slot)
      (slotSequence (s.evs.medium.slot slot) != request.sequence) s))
  scan : ∀ s, s.evs.activity = .scan → R s (scanDelivered s)
  supplyFail : ∀ s, R s (supplyFails s)
  supplyGood : ∀ found low s, R s (supplyReturns found low s)
  backupFail : ∀ s, s.spm.power = .dormant → R s (enterOff (noteBackup .failed s))
  backup : ∀ i s, R s (noteBackup i s)
  windowEnd : ∀ s, windowEndDue s = true → R s (endWindowOfRide s)
  qualified : ∀ s, qualificationDue s = true → R s (endQualification s)
  badCharacter : ∀ s, R s (badCharacter s)
  goodCharacter : ∀ c s, R s (goodCharacter c s)
  frameLate : ∀ s, R s (dropReception s)
  eligible : ∀ s, R s (makeEligible s)
  noticeSent : ∀ s, R s (transmitterIdle s)
  runGoesOn : ∀ next rest s, R s { s with hlk := { s.hlk with transmitter := .reply next rest } }
  replySent : ∀ s, R s (transmitterIdle (endReply s))
  request : ∀ c fields s, R s (request c fields s)
  broadcast : ∀ fields s, R s (broadcastTis fields s)

/-- What every row's effect has. -/
structure Rows (R : State → State → Prop) : Prop extends OtherRows R where
  calibrated : ∀ n1 s, R s { s with ich := s.ich.calibrated n1 }

/-- A row that acts where its condition holds, and else changes nothing. -/
theorem OtherRows.guarded {R : State → State → Prop} (h : OtherRows R) {c : Prop} [Decidable c] {s t : State} (acts : c → R s t) :
    R s (if c then t else s) := by
  split
  case isTrue holds => exact acts holds
  case isFalse => exact h.refl s

/-- What every effect but that of CALIBRATION_COMPLETE has every other row has. -/
theorem OtherRows.exec {R : State → State → Prop} (h : OtherRows R) {i : Instr} (other : ∀ n1, i ≠ .calibrationComplete n1)
    {s t : State} (e : exec i s = .next t) : R s t := by
  cases form : requestForm i with
  | some row =>
    rw [exec_request form] at e
    cases e
    exact h.request _ _ s
  | none =>
    cases i
    case sample r1 r2 r3 => cases e; exact h.guarded fun _ => h.sample _ s
    case trackingTimeout r1 r2 r3 => cases e; exact h.guarded fun _ => h.sample _ s
    case syntheticBoundary r1 r2 r3 => cases e; exact h.guarded fun _ => h.sample _ s
    case calibrationWindowOpen => cases e; exact h.guarded fun _ => h.windowOpen s
    case calibrationComplete n1 => exact absurd rfl (other n1)
    case referencePulse edge => cases e; exact h.guarded fun _ => h.pulse s
    case rtcWrap => cases e; exact h.guarded fun _ => h.tick s
    case pulseAnchorExpiry => cases e; exact h.guarded fun _ => h.anchor s
    case holdoverTimeout => cases e; exact h.guarded fun _ => h.holdover s
    case programComplete readBack =>
      cases e
      split
      case h_1 slot image check flight => exact h.program _ _ _ _ s flight
      all_goals exact h.refl s
    case eraseComplete residue =>
      cases e
      split
      case h_1 sector flight => exact h.erase _ _ s flight
      all_goals exact h.refl s
    case slotReadComplete =>
      cases e
      split
      case h_1 slot request flight => exact h.slotRead _ _ s flight
      all_goals exact h.refl s
    case scanReadComplete => cases e; exact h.guarded (h.scan s)
    case supplyFail => cases e; exact h.supplyFail s
    case supplyGood found low => cases e; exact h.supplyGood _ _ s
    case backupFail =>
      cases e
      split
      case isTrue dormant => exact h.backupFail s dormant
      case isFalse => exact h.backup _ s
    case backupGood => cases e; exact h.backup _ s
    case rideThroughWindowEnd => cases e; exact h.guarded (h.windowEnd s)
    case tickCounterWrap => cases e; exact h.guarded fun _ => h.tick s
    case qualificationEnd => cases e; exact h.guarded (h.qualified s)
    case characterReceived code bad =>
      cases e
      refine h.guarded fun _ => ?_
      split
      · exact h.badCharacter s
      · exact h.goodCharacter _ s
    case frameTimeout => cases e; exact h.guarded fun _ => h.frameLate s
    case replyEligible => cases e; exact h.guarded fun _ => h.eligible s
    case frameSent =>
      cases e
      split
      · exact h.refl s
      · exact h.noticeSent s
      · exact h.runGoesOn _ _ s
      · exact h.replySent s
    case tis broadcast fields =>
      cases broadcast with
      | false => cases form
      | true => cases e; exact h.broadcast fields s
    all_goals cases form

/-- What every effect has every row has. -/
theorem Rows.exec {R : State → State → Prop} (h : Rows R) {i : Instr} {s t : State} (e : exec i s = .next t) : R s t := by
  by_cases completes : ∃ n1, i = .calibrationComplete n1
  · obtain ⟨n1, rfl⟩ := completes
    cases e
    exact h.guarded fun _ => h.calibrated _ s
  · exact h.toOtherRows.exec (fun n1 same => completes ⟨n1, same⟩) e

/-- What every effect has an empty queue has. -/
theorem Rows.idle {R : State → State → Prop} (h : Rows R) {s t : State} (e : idle s = .next t) : R s t := by
  unfold Machine.idle at e
  split at e
  · exact h.exec (i := .qualificationEnd) e
  split at e
  · exact h.exec (i := .rideThroughWindowEnd) e
  split at e
  · exact h.exec (i := .frameTimeout) e
  split at e
  · exact h.exec (i := .replyEligible) e
  split at e
  · exact h.exec (i := .holdoverTimeout) e
  split at e
  · exact h.exec (i := .pulseAnchorExpiry) e
  split at e
  · exact h.exec (i := .calibrationWindowOpen) e
  · cases e
    exact h.tick s

/-- What every effect has a step has, but for the command that it takes from the queue. -/
theorem Rows.step {R : State → State → Prop} (h : Rows R) {s t : State} (e : step s = .next t) :
    R { s with pending := s.pending.tail } t := by
  cases queue : s.pending with
  | nil =>
    rw [step_empty queue] at e
    have same : ({ s with pending := List.tail [] } : State) = s := by rw [List.tail_nil, ← queue]
    rw [same]
    exact h.idle e
  | cons i rest =>
    rw [step_pending queue] at e
    exact h.exec e

/-- The bounds are kept by every row. -/
theorem keeps_rows : Rows Keeps where
  refl := Keeps.refl
  sample := fun raw s => (takeSample_calm raw s).keeps
  windowOpen := fun s => (openCalibration_calm s).keeps
  calibrated := calibrated_keeps
  pulse := fun s => (takePulse_calm s).keeps
  tick := fun s => (crystalTick_calm s).keeps
  anchor := fun s => (expireAnchor_calm s).keeps
  holdover := fun s => (enterHoldover_calm s).keeps
  program := fun slot image check readBack s _ => programEnds_keeps slot image check readBack s
  erase := fun sector residue s _ => eraseEnds_keeps sector residue s
  slotRead := fun _ _ s _ => (completed_keeps _).after (answerRead_calm _ _ _ _ s).keeps
  scan := fun s _ => scanDelivered_keeps s
  supplyFail := supplyFails_keeps
  supplyGood := supplyReturns_keeps
  backupFail := fun s _ => (enterOff_keeps _).after (noteBackup_keeps .failed s)
  backup := noteBackup_keeps
  windowEnd := fun s _ => endWindowOfRide_keeps s
  qualified := fun s _ => endQualification_keeps s
  badCharacter := fun s => (badCharacter_calm s).keeps
  goodCharacter := fun c s => (goodCharacter_calm c s).keeps
  frameLate := fun s => (dropReception_calm s).keeps
  eligible := fun s => (makeEligible_calm s).keeps
  noticeSent := fun s => (transmitterIdle_calm s).keeps
  runGoesOn := fun next rest s => (Calm.link (s := s) (h := { s.hlk with transmitter := .reply next rest }) id id).keeps
  replySent := fun s => (transmitterIdle_calm _).keeps.after (endReply_calm s).keeps
  request := fun c fields s => (request_calm c fields s).keeps
  broadcast := fun fields s => (broadcastTis_calm fields s).keeps

/-- Settles O58. -/
theorem everyStepKeepsTheBounds : Obligations.EveryStepKeepsTheBounds := by
  intro s t sound e
  obtain ⟨pending, keeps⟩ := keeps_rows.step e
  exact ⟨keeps ⟨sound.medium, sound.queue, sound.notices, sound.buffer, sound.divisor, sound.pendingDivisor, sound.sub,
    sound.seconds, sound.kept⟩, pending⟩

/-! ## One request at a time -/

/-- A dormant recorder whose transmitter is held to be sending a notice while a frame with STE waits and an erase is in
flight. -/
def sendingDormant : State :=
  { State.reset with
    spm := { State.reset.spm with power := .dormant }
    evs := { State.reset.evs with activity := .erase 0 }
    hlk := { State.reset.hlk with
      transmitter := .notice ⟨.pwn, []⟩ []
      buffer := [requestFrame 1 .ste []] }
    pending := [.frameSent] }

theorem sendingDormant_oneRequest : sendingDormant.OneRequest where
  waiting := fun h => absurd rfl h
  flight := fun _ _ h => nomatch h
  ste := fun h => nomatch h
  slot := fun h => absurd rfl h
  off := fun _ _ => ⟨rfl, rfl, fun _ _ h => nomatch h⟩
  abort := fun h => nomatch h

/-- The state that FRAME_SENT leaves there: STE is the command in progress, and waits for the erase. -/
def steTakenDormant : State :=
  { sendingDormant with
    evs := { sendingDormant.evs with steWaiting := true }
    hlk := { sendingDormant.hlk with transmitter := .idle, buffer := [], inProgress := some .ste }
    pending := [] }

theorem step_sendingDormant : step sendingDormant = .next steTakenDormant := rfl

/-- Refutes O59: FRAME_SENT takes the frames that wait whatever the power state, so in a DORMANT state whose transmitter is busy
(no run reaches one, but `OneRequest` admits it) a waiting STE is left outside RUN and RIDE_THROUGH. -/
theorem not_everyStepKeepsOneRequest : ¬ Obligations.EveryStepKeepsOneRequest := by
  intro h
  have one := h _ _ sendingDormant_oneRequest step_sendingDormant
  have waits : (true : Bool) = false := (one.off (fun e => nomatch e) (fun e => nomatch e)).2.1
  cases waits

end Sys2Proof.Machine
end

section
/-! The detector, the settings, the bank and the sector table, operation by operation: which operations leave them as they
are (`Aside`), and what every relation has that holds of each change of one of them (`Orderly`). -/

namespace Sys2Proof.Machine

/-! ## Operations beside them -/

/-- The detector, the settings unit and the bank are as they were, and the sector table keeps its size. -/
structure Aside (s t : State) : Prop where
  evd : t.evd = s.evd
  svc : t.svc = s.svc
  tlb : t.tlb = s.tlb
  sectors : s.evs.sectors.length = 1024 → t.evs.sectors.length = 1024

theorem Aside.refl (s : State) : Aside s s := ⟨rfl, rfl, rfl, id⟩

theorem Aside.trans {s t u : State} (h : Aside s t) (k : Aside t u) : Aside s u :=
  ⟨k.evd.trans h.evd, k.svc.trans h.svc, k.tlb.trans h.tlb, fun x => k.sectors (h.sectors x)⟩

/-- `Aside.trans` with its second part first. -/
theorem Aside.after {s t u : State} (k : Aside t u) (h : Aside s t) : Aside s u := h.trans k

/-- A change of other blocks. -/
theorem Aside.of_eq {s t : State} (evd : t.evd = s.evd) (svc : t.svc = s.svc) (tlb : t.tlb = s.tlb)
    (sectors : t.evs.sectors = s.evs.sectors) : Aside s t := ⟨evd, svc, tlb, fun x => by rw [sectors]; exact x⟩

theorem takeReading_aside (s : State) : Aside s (takeReading s) := Aside.of_eq rfl rfl rfl rfl

theorem transmit_aside (s : State) : Aside s (transmit s) := by
  rw [transmit_others]
  exact Aside.of_eq rfl rfl rfl rfl

theorem placeReply_aside (command : Text) (status : Status) (fields : List Text) (link : Option LinkSettings) (s : State) :
    Aside s (placeReply command status fields link s) := (transmit_aside _).after (Aside.of_eq rfl rfl rfl rfl)

theorem answer_aside (status : Status) (fields : List Text) (s : State) : Aside s (answer status fields s) := by
  rw [answer_others]
  exact Aside.of_eq rfl rfl rfl rfl

theorem postNotice_aside (kind : NoticeKind) (fields : List Text) (s : State) : Aside s (postNotice kind fields s) := by
  rw [postNotice_others]
  exact Aside.of_eq rfl rfl rfl rfl

theorem postWithReading_aside (kind : NoticeKind) (fields : Time → List Text) (s : State) :
    Aside s (postWithReading kind fields s) := (postNotice_aside _ _ _).after (takeReading_aside s)

theorem startProgram_aside (s : State) : Aside s (startProgram s) := by
  unfold startProgram
  split
  · exact Aside.refl s
  · dsimp only
    split
    · exact ⟨rfl, rfl, rfl, fun x => by simpa [openSector] using x⟩
    · exact Aside.of_eq rfl rfl rfl rfl

theorem startErase_aside (sector : Nat) (s : State) : Aside s (startErase sector s) := Aside.of_eq rfl rfl rfl rfl

theorem startRead_aside (request : ReadRequest) (s : State) : Aside s (startRead request s) := by
  have waitless : Aside s { s with evs := { s.evs with waitingRead := none } } := Aside.of_eq rfl rfl rfl rfl
  have read : ∀ image place mark, Aside s (answerRead request image place mark
      { s with evs := { s.evs with waitingRead := none } }) := fun _ _ _ =>
    (answer_aside _ _ _).after (Aside.of_eq rfl rfl rfl rfl)
  unfold startRead
  dsimp only
  split
  · exact Aside.of_eq rfl rfl rfl rfl
  · split
    · exact (startProgram_aside _).after (read _ _ _)
    · exact read _ _ _
  · split
    · exact (startProgram_aside _).after ((answer_aside _ _ _).after waitless)
    · exact (answer_aside _ _ _).after waitless

theorem ordinaryChoice_aside (s : State) : Aside s (ordinaryChoice s) := by
  unfold ordinaryChoice
  split
  · exact startErase_aside _ s
  · exact startRead_aside _ s
  · split
    · exact startProgram_aside s
    · exact Aside.refl s
  · split
    · exact startProgram_aside s
    · exact startRead_aside _ s
  · split
    · exact startProgram_aside s
    · exact Aside.refl s

theorem mediumChoice_aside (s : State) : Aside s (mediumChoice s) := by
  unfold mediumChoice
  split
  · exact Aside.refl s
  · split
    · exact Aside.refl s
    · unfold eraseAllChoice
      split
      · exact startProgram_aside s
      · split
        · exact startErase_aside _ s
        · exact Aside.refl s
    all_goals exact ordinaryChoice_aside s

theorem takeRecord_aside (r : Record) (s : State) : Aside s (takeRecord r s) :=
  (mediumChoice_aside _).after (Aside.of_eq rfl rfl rfl rfl)

theorem offer_aside (kind : RecordKind) (payload : List Byte) (s : State) : Aside s (offer kind payload s) := by
  unfold offer
  split
  · exact (takeRecord_aside _ _).after (takeReading_aside s)
  · exact Aside.of_eq rfl rfl rfl rfl

theorem offerTimeRecord_aside (payload : List Byte) (time : Time) (quality : Quality) (s : State) :
    Aside s (offerTimeRecord payload time quality s) := by
  unfold offerTimeRecord
  split
  · exact takeRecord_aside _ _
  · exact Aside.of_eq rfl rfl rfl rfl

theorem clearProtection_aside (s : State) : Aside s (clearProtection s) := by
  unfold clearProtection
  dsimp only
  split
  · exact (mediumChoice_aside _).after ((postWithReading_aside _ _ _).after (Aside.of_eq rfl rfl rfl rfl))
  · exact (mediumChoice_aside _).after (Aside.of_eq rfl rfl rfl rfl)

theorem postQuality_aside (before : Quality) (cause : QualityCause) (s : State) : Aside s (postQuality before cause s) := by
  unfold postQuality
  split
  · exact Aside.refl s
  · exact postWithReading_aside _ _ s

theorem changeQuality_aside (after : Quality) (cause : QualityCause) (s : State) : Aside s (changeQuality after cause s) :=
  (postQuality_aside _ _ _).after (Aside.of_eq rfl rfl rfl rfl)

theorem runTrf_aside (fields : List Text) (s : State) : Aside s (runTrf fields s) := by
  unfold runTrf
  split
  · exact answer_aside _ _ s
  · unfold setReference
    dsimp only
    refine (answer_aside _ _ _).after ((offer_aside _ _ _).after ?_)
    split
    · exact (changeQuality_aside _ _ _).after (Aside.of_eq rfl rfl rfl rfl)
    · exact Aside.of_eq rfl rfl rfl rfl

theorem runTim_aside (fields : List Text) (s : State) : Aside s (runTim fields s) := by
  unfold runTim
  split
  · exact answer_aside _ _ s
  · exact (answer_aside _ _ _).after (takeReading_aside s)

theorem takeSte_aside (s : State) : Aside s (takeSte s) := by
  unfold takeSte
  split
  · split
    · exact (answer_aside _ _ _).after ⟨rfl, rfl, rfl, fun _ => List.length_replicate⟩
    · exact answer_aside _ _ s
  all_goals exact answer_aside _ _ s

theorem runSte_aside (fields : List Text) (s : State) : Aside s (runSte fields s) := by
  unfold runSte
  split
  · exact answer_aside _ _ s
  · split
    · split
      · exact (mediumChoice_aside _).after (takeSte_aside s)
      · exact takeSte_aside s
    · exact Aside.of_eq rfl rfl rfl rfl

theorem read_aside (request : ReadRequest) (s : State) : Aside s (read request s) := by
  unfold read
  split
  · exact (answer_aside _ _ _).after (Aside.of_eq rfl rfl rfl rfl)
  · exact (mediumChoice_aside _).after (Aside.of_eq rfl rfl rfl rfl)
  · exact answer_aside _ _ s

theorem runReadOf_aside (form : ReadForm) (fields : List Text) (s : State) : Aside s (runReadOf form fields s) := by
  unfold runReadOf
  split
  · split
    · split
      · exact read_aside _ s
      · exact answer_aside _ _ s
    · exact answer_aside _ _ s
  · exact answer_aside _ _ s

theorem runRdn_aside (fields : List Text) (s : State) : Aside s (runRdn fields s) := by
  unfold runRdn
  split
  · exact answer_aside _ _ s
  · split
    · exact read_aside _ s
    · exact answer_aside _ _ s

theorem runLnk_aside (fields : List Text) (s : State) : Aside s (runLnk fields s) := by
  unfold runLnk
  split
  · exact answer_aside _ _ s
  · split
    · exact answer_aside _ _ s
    · split
      · exact placeReply_aside _ _ _ _ s
      · exact answer_aside _ _ s

theorem runGet_aside (fields : List Text) (s : State) : Aside s (runGet fields s) := by
  unfold runGet
  dsimp only
  split
  · exact answer_aside _ _ s
  · split <;> exact answer_aside _ _ s

theorem runPhm_aside (fields : List Text) (s : State) : Aside s (runPhm fields s) := by
  unfold runPhm
  split
  · exact answer_aside _ _ s
  · exact (answer_aside _ _ _).after (Aside.of_eq rfl rfl rfl rfl)

theorem runTlr_aside (fields : List Text) (s : State) : Aside s (runTlr fields s) := by
  unfold runTlr
  repeat' split
  all_goals exact answer_aside _ _ s

theorem runTlm_aside (fields : List Text) (s : State) : Aside s (runTlm fields s) := by
  unfold runTlm
  repeat' split
  all_goals exact answer_aside _ _ s

/-- A command that only answers, whichever of its two answers. -/
theorem answers_aside {c : Prop} [Decidable c] (status status' : Status) (fields fields' : List Text) (s : State) :
    Aside s (if c then answer status fields s else answer status' fields' s) := by
  split <;> exact answer_aside _ _ s

theorem startSampling_aside (s : State) : Aside s (startSampling s) := Aside.of_eq rfl rfl rfl rfl

theorem judgeFull_aside (s : State) : Aside s (judgeFull s) := by
  unfold judgeFull
  split
  · exact (postWithReading_aside _ _ _).after (Aside.of_eq rfl rfl rfl rfl)
  · exact Aside.refl s

theorem enterFault_aside (reason : String) (s : State) : Aside s (enterFault reason s) := by
  have entered : Aside s (postStore "ENTER" .fault reason { s with evs := { s.evs with state := .fault } }) :=
    (postWithReading_aside _ _ _).after (Aside.of_eq rfl rfl rfl rfl)
  unfold enterFault
  dsimp only
  split
  · exact (offer_aside _ _ _).after entered
  · exact entered

theorem updateSector_aside (sector : Nat) (f : Sector → Sector) (s : State) :
    Aside s { s with evs := s.evs.updateSector sector f } :=
  ⟨rfl, rfl, rfl, fun x => by simpa [Evs.updateSector] using x⟩

theorem programSucceeds_aside (slot : Nat) (check : BitVec 32) (s : State) : Aside s (programSucceeds slot check s) := by
  unfold programSucceeds
  split
  · exact Aside.refl s
  · refine (judgeFull_aside _).after ⟨rfl, rfl, rfl, fun x => ?_⟩
    simpa [Evs.programmed, Evs.updateSector] using x

theorem programFails_aside (slot : Nat) (s : State) : Aside s (programFails slot s) := by
  unfold programFails
  dsimp only
  have voided := updateSector_aside (sectorOf slot) (fun x => { x with voids := x.voids ++ [slot % 32] }) s
  split
  · exact (judgeFull_aside _).after (voided.trans (Aside.of_eq rfl rfl rfl rfl))
  · exact (enterFault_aside _ _).after (voided.trans (Aside.of_eq rfl rfl rfl rfl))

theorem frontAdvances_aside (s : State) : Aside s (frontAdvances s) := by
  unfold frontAdvances
  dsimp only
  split
  · refine Aside.after (t := offerErased true _) (Aside.of_eq rfl rfl rfl rfl) ((offer_aside _ _ _).after (Aside.of_eq rfl rfl rfl rfl))
  · exact Aside.of_eq rfl rfl rfl rfl

theorem erased_aside (sector : Nat) (s : State) : Aside s { s with evs := s.evs.erased sector } := by
  refine ⟨rfl, rfl, rfl, fun x => ?_⟩
  unfold Evs.erased
  dsimp only
  split <;> simpa [Evs.moveOldest] using x

theorem scannedSectors_length (m : Memory) (slots : List Nat) (w : Walk) (writePosition : Nat) :
    (scannedSectors m slots w writePosition).length = 1024 := by
  have fold : ∀ (sectors : List Nat) (table : List Sector),
      (sectors.foldl (fun table sector => table.set sector (scannedSector m slots w writePosition sector)) table).length =
        table.length := by
    intro sectors
    induction sectors with
    | nil => exact fun _ => rfl
    | cons n rest ih => exact fun table => (ih _).trans List.length_set
  exact (fold _ _).trans List.length_replicate

theorem scanned_aside (slots : List Nat) (w : Walk) (s : State) : Aside s { s with evs := scanned s.evs slots w } := by
  refine ⟨rfl, rfl, rfl, fun x => ?_⟩
  unfold scanned
  dsimp only
  split
  · exact x
  · exact scannedSectors_length _ _ _ _

/-! ## Operations on them -/

/-- The bank keeps the sizes of its tables and the order of its survey cells. -/
structure Tlb.Keeps (b c : Tlb) : Prop where
  cells : b.cells.length = 12 → c.cells.length = 12
  dip : b.dip.counts.length = 24 → c.dip.counts.length = 24
  swell : b.swell.counts.length = 18 → c.swell.counts.length = 18
  pair : b.pair.counts.length = 2 → c.pair.counts.length = 2
  order : b.survey.Ordered → c.survey.Ordered

/-- A relation that holds of every operation that changes one of them as it may be changed: the detector and the settings so
that they stay regular and in range, the bank so that its sizes and its order stay. -/
structure Orderly (R : State → State → Prop) : Prop where
  trans : ∀ {s t u}, R s t → R t u → R s u
  aside : ∀ {s t}, Aside s t → R s t
  events : ∀ {s t : State}, t.svc = s.svc → t.tlb = s.tlb → t.evs = s.evs → (s.evd.Regular → t.evd.Regular) → R s t
  service : ∀ {s t : State}, t.evd = s.evd → t.tlb = s.tlb → t.evs.sectors = s.evs.sectors → (s.svc.InRange → t.svc.InRange) → R s t
  bank : ∀ {s t : State}, t.evd = s.evd → t.svc = s.svc → t.evs = s.evs → s.tlb.Keeps t.tlb → R s t

section
variable {R : State → State → Prop} (h : Orderly R)
include h

theorem Orderly.refl (s : State) : R s s := h.aside (Aside.refl s)

/-- An operation and then one beside. -/
theorem Orderly.then {s t u : State} (first : R s t) (second : Aside t u) : R s u := h.trans first (h.aside second)

/-- An operation beside and then one. -/
theorem Orderly.andThen {s t u : State} (first : Aside s t) (second : R t u) : R s u := h.trans (h.aside first) second

theorem Orderly.foldl {α : Type} (f : State → α → State) (each : ∀ s x, R s (f s x)) (xs : List α) (s : State) :
    R s (xs.foldl f s) := by
  induction xs generalizing s with
  | nil => exact h.refl s
  | cons x rest ih => exact h.trans (each s x) (ih (f s x))

/-- A change of the settings unit that keeps its settings. -/
theorem Orderly.survey {s t : State} (evd : t.evd = s.evd) (tlb : t.tlb = s.tlb) (sectors : t.evs.sectors = s.evs.sectors)
    (active : t.svc.active = s.svc.active) (staged : t.svc.staged = s.svc.staged) : R s t :=
  h.service evd tlb sectors fun x => ⟨by rw [active]; exact x.active, by rw [staged]; exact x.staged, by
    rw [staged]; exact x.ordered⟩

/-- A change of the detector that keeps its records' kinds and its phases. -/
theorem Orderly.records {s t : State} (svc : t.svc = s.svc) (tlb : t.tlb = s.tlb) (evs : t.evs = s.evs)
    (phases : t.evd.phases = s.evd.phases)
    (kinds : ∀ k c, t.evd.context k = some c → ∃ d, s.evd.context k = some d ∧ c.kind = d.kind) : R s t :=
  h.events svc tlb evs fun x => ⟨fun k c held => by
    obtain ⟨d, was, kind⟩ := kinds k c held
    exact kind.trans (x.kinds k d was), fun p y at' => x.flagged p y (by rw [← phases]; exact at')⟩

end

/-! ### The tally bank -/

theorem Tlb.keeps_refl (b : Tlb) : b.Keeps b := ⟨id, id, id, id, id⟩

theorem raise_le_raise {a b m n : Nat} (counts : a ≤ b) (more : m ≤ n) : raise a m ≤ raise b n := by
  unfold raise saturate
  omega

theorem le_raise {a b : Nat} (counts : a ≤ b) (n : Nat) : a ≤ cellMax → a ≤ raise b n := by
  unfold raise saturate
  omega

theorem one_le_one {a b : Bool} (implies : a = true → b = true) : one a ≤ one b := by
  cases a
  · exact Nat.zero_le _
  · rw [implies rfl]

/-- An item keeps the order of the survey cells: what counts in a cell counts in the cell that bounds it (R90). -/
theorem SurveyCells.take_ordered {c : SurveyCells} (order : c.Ordered) (set : Settings) (survey : SurveyContext) (item : Item) :
    (c.take set survey item).Ordered := by
  have both : ∀ a b : Bool, (a && b) = true → a = true := fun a b x => (Bool.and_eq_true_iff.mp x).1
  have right : ∀ a b : Bool, (a && b) = true → b = true := fun a b x => (Bool.and_eq_true_iff.mp x).2
  cases item with
  | int values valid member mark =>
    exact ⟨raise_le_raise order.s1 (one_le_one (right _ _)), raise_le_raise order.s2 (one_le_one (both _ _)),
      raise_le_raise order.s3 (one_le_one (both _ _)), order.s5⟩
  | frq mark value valid out =>
    exact ⟨order.s1, order.s2, order.s3, raise_le_raise order.s5 (one_le_one (both _ _))⟩
  | half r => exact order
  | win values flagged mark => exact order
  | evt c => exact order

theorem Matrix.take_length (m : Matrix) (frozen : Bool) (cell : Nat) : (m.take frozen cell).counts.length = m.counts.length := by
  unfold Matrix.take
  split
  · rfl
  · split
    · exact List.length_set
    · rfl

theorem Tlb.takeChain_keeps (b : Tlb) (c : ChainClassification) : b.Keeps (b.takeChain c) := by
  unfold Tlb.takeChain
  split
  · split
    · exact ⟨id, fun x => (Matrix.take_length _ _ _).trans x, id, id, id⟩
    · exact b.keeps_refl
  · exact ⟨id, id, fun x => (Matrix.take_length _ _ _).trans x, id, id⟩
  · exact ⟨id, id, id, fun x => (Matrix.take_length _ _ _).trans x, id⟩

section
variable {R : State → State → Prop} (h : Orderly R)
include h

theorem putCell_orderly (i : Nat) (g : GeneralCell) (s : State) : R s (putCell i g s) :=
  h.bank rfl rfl rfl ⟨fun x => List.length_set.trans x, id, id, id, id⟩

theorem cellTakes_orderly (item : Item) (s : State) (i : Nat) : R s (cellTakes item s i) := by
  unfold cellTakes
  dsimp only
  split
  · split
    · exact h.then (putCell_orderly h _ _ s) (postWithReading_aside _ _ _)
    · exact putCell_orderly h _ _ s
  · exact h.refl s

theorem surveyTakes_orderly (item : Item) (s : State) : R s (surveyTakes item s) := by
  unfold surveyTakes
  split
  · exact h.bank rfl rfl rfl ⟨id, id, id, id, fun x => SurveyCells.take_ordered x _ _ _⟩
  · exact h.refl s

theorem matricesTake_orderly (item : Item) (s : State) : R s (matricesTake item s) := by
  unfold matricesTake
  split
  · exact h.bank rfl rfl rfl (Tlb.takeChain_keeps _ _)
  all_goals exact h.refl _

theorem handItem_orderly (item : Item) (s : State) : R s (handItem item s) := by
  have cells : R s ((List.range 12).foldl (cellTakes item) s) := h.foldl _ (cellTakes_orderly h item) (List.range 12) s
  exact h.trans cells (h.trans (surveyTakes_orderly h item _) (matricesTake_orderly h item _))

theorem countSkipped_orderly (skipped : Nat) (s : State) (bound : s.tlb.survey.s1 ≤ cellMax) :
    R s (countSkipped skipped s) := by
  unfold countSkipped
  split
  · exact h.bank rfl rfl rfl ⟨id, id, id, id, fun x => ⟨le_raise x.s1 _ bound, x.s2, x.s3, x.s5⟩⟩
  · exact h.refl s

end

end Sys2Proof.Machine
end

section
/-! Values written to the settings stay in their ranges (R97, R98). -/

namespace Sys2Proof.Machine

/-- A number of a range without negative ones is in the range as a natural number. -/
theorem toNat_between {lo hi v : Int} (range : (decide (lo ≤ v) && decide (v ≤ hi)) = true) (lowest : 0 ≤ lo) :
    (decide (lo ≤ (v.toNat : Int)) && decide ((v.toNat : Int) ≤ hi)) = true := by
  simp only [Bool.and_eq_true, decide_eq_true_eq] at range ⊢
  omega

/-- A value in its range is in its range as the settings hold it. -/
theorem Settings.put_same_inRange (s : Settings) {n : Setting} {v : Int} (range : n.inRange v = true) :
    n.inRange ((s.put n v).get n) = true := by
  cases n
  case fn =>
    by_cases sixty : v = 60
    · simp [Settings.put, Settings.get, sixty, Setting.inRange, nominalHz]
    · simp [Settings.put, Settings.get, sixty, Setting.inRange, nominalHz]
  case wiring =>
    by_cases single : v = 1
    · simp [Settings.put, Settings.get, single, Setting.inRange]
    · simp [Settings.put, Settings.get, single, Setting.inRange]
  case o1 => exact range
  case o2 => exact range
  case o3 => exact range
  case hardlo =>
    have least : (7000 : Int) ≤ v := of_decide_eq_true range
    exact decide_eq_true (show (7000 : Int) ≤ (v.toNat : Int) by omega)
  case hardhi =>
    have most : v ≤ (13000 : Int) := of_decide_eq_true range
    exact decide_eq_true (show (v.toNat : Int) ≤ 13000 by omega)
  all_goals exact toNat_between range (by decide)

/-- A value written leaves the other settings as they are. -/
theorem Settings.put_other (s : Settings) {n m : Setting} (v : Int) (other : m ≠ n) : (s.put n v).get m = s.get m := by
  cases n <;> cases m <;> simp only [ne_eq, not_true_eq_false, reduceCtorEq, not_false_eq_true] at other <;> rfl

/-- A value in its range leaves every setting in its range. -/
theorem Settings.put_inRange {s : Settings} (held : ∀ m : Setting, m.inRange (s.get m) = true) {n : Setting} {v : Int}
    (range : n.inRange v = true) (m : Setting) : m.inRange ((s.put n v).get m) = true := by
  by_cases same : m = n
  · subst same
    exact s.put_same_inRange range
  · rw [s.put_other v same]
    exact held m

/-- So do several. -/
theorem Settings.write_inRange {s : Settings} {values : List (Setting × Int)} (held : ∀ m : Setting, m.inRange (s.get m) = true)
    (range : ∀ nv ∈ values, nv.1.inRange nv.2 = true) (m : Setting) : m.inRange ((s.write values).get m) = true := by
  induction values generalizing s with
  | nil => exact held m
  | cons nv rest ih =>
    exact ih (Settings.put_inRange held (range nv List.mem_cons_self)) fun x at' => range x (List.mem_cons_of_mem _ at')

/-- A value given to a name is one of the values. -/
theorem valueGiven_mem {values : List (Setting × Int)} {n : Setting} {v : Int} (given : valueGiven values n = some v) :
    (n, v) ∈ values := by
  obtain ⟨nv, found, value⟩ := Option.map_eq_some_iff.mp given
  have name : nv.1 = n := by simpa using List.find?_some found
  rw [← name, ← value]
  exact List.mem_of_find?_eq_some found

/-- Values staged are those given or those staged before (R100). -/
theorem stageValues_mem {staged values : List (Setting × Int)} {nv : Setting × Int} (at' : nv ∈ stageValues staged values) :
    nv ∈ values ∨ nv ∈ staged := by
  obtain ⟨n, _, entry⟩ := List.mem_filterMap.mp at'
  cases given : valueGiven values n with
  | some v =>
    rw [given] at entry
    cases entry
    exact Or.inl (valueGiven_mem given)
  | none =>
    rw [given] at entry
    obtain ⟨v, old, rfl⟩ := Option.map_eq_some_iff.mp entry
    exact Or.inr (valueGiven_mem old)

theorem Svc.cold_inRange : Svc.cold.InRange := ⟨fun n => by cases n <;> rfl, nofun, List.nil_sublist _⟩

/-- In settings in their ranges the interruption threshold is not above the dip threshold (R97). -/
theorem Svc.InRange.thresholds {v : Svc} (x : v.InRange) : v.active.tint ≤ v.active.tdip := by
  have tint : (v.active.tint : Int) ≤ 1000 := of_decide_eq_true (Bool.and_eq_true_iff.mp (x.active .tint)).2
  have tdip : (7000 : Int) ≤ v.active.tdip := of_decide_eq_true (Bool.and_eq_true_iff.mp (x.active .tdip)).1
  omega

/-! ## The bank's and the settings unit's commands -/

section
variable {R : State → State → Prop} (h : Orderly R)
include h

theorem Orderly.answered {s t : State} (first : R s t) (status : Status) (fields : List Text) : R s (answer status fields t) :=
  h.then first (answer_aside _ _ _)

theorem runTlf_orderly (fields : List Text) (s : State) : R s (runTlf fields s) := by
  unfold runTlf
  split
  · exact h.aside (answer_aside _ _ s)
  · refine h.answered ?_ _ _
    exact h.bank rfl rfl rfl ⟨id, id, id, id, id⟩

theorem runTlu_orderly (fields : List Text) (s : State) : R s (runTlu fields s) := by
  unfold runTlu
  split
  · exact h.aside (answer_aside _ _ s)
  · refine h.answered ?_ _ _
    exact h.bank rfl rfl rfl ⟨id, id, id, id, id⟩

theorem runTlc_orderly (fields : List Text) (s : State) : R s (runTlc fields s) := by
  unfold runTlc
  split
  · exact h.aside (answer_aside _ _ s)
  · split
    · exact h.answered (putCell_orderly h _ _ s) _ _
    · exact h.aside (answer_aside _ _ s)

theorem runTlx_orderly (fields : List Text) (s : State) : R s (runTlx fields s) := by
  unfold runTlx
  split
  · split
    · refine h.answered ?_ _ _
      exact h.bank rfl rfl rfl ⟨fun x => (List.length_map _).trans x, id, id, id, id⟩
    · split
      · split
        · exact h.answered (putCell_orderly h _ _ s) _ _
        · exact h.aside (answer_aside _ _ s)
      all_goals exact h.aside (answer_aside _ _ s)
  · exact h.aside (answer_aside _ _ s)

theorem activate_orderly {values : List (Setting × Int)} {s : State}
    (range : s.svc.InRange → ∀ nv ∈ values, nv.1.inRange nv.2 = true) : R s (activate values s) :=
  h.service rfl rfl rfl fun x => ⟨Settings.write_inRange x.active (range x), x.staged, x.ordered⟩

theorem applyAtOnce_orderly {values : List (Setting × Int)} (range : ∀ nv ∈ values, nv.1.inRange nv.2 = true) (s : State) :
    R s (applyAtOnce values s) :=
  h.answered (h.then (activate_orderly h fun _ => range) (offer_aside _ _ _)) _ _

theorem stage_orderly {values : List (Setting × Int)} (range : ∀ nv ∈ values, nv.1.inRange nv.2 = true) (s : State) :
    R s (stage values s) := by
  refine h.answered ?_ _ _
  exact h.service rfl rfl rfl fun x => ⟨x.active, fun nv at' => (stageValues_mem at').elim (range nv) (x.staged nv),
    stageValues_ordered _ _⟩

theorem runSet_orderly (fields : List Text) (s : State) : R s (runSet fields s) := by
  unfold runSet
  split
  · exact h.aside (answer_aside _ _ s)
  · split
    · exact h.aside (answer_aside _ _ s)
    · split
      · exact h.aside (answer_aside _ _ s)
      case isFalse values _ _ allowed =>
        have range : ∀ nv ∈ values, nv.1.inRange nv.2 = true := by
          simp only [Bool.not_eq_true, Bool.not_eq_false', Bool.and_eq_true, List.all_eq_true] at allowed
          exact allowed.1
        split
        · exact stage_orderly h range s
        · exact applyAtOnce_orderly h range s

theorem concludeSurvey_orderly (cause : VerdictCause) (after : SurveyState) (s : State) :
    R s (concludeSurvey cause after s) := by
  refine h.then ?_ (postNotice_aside _ _ _)
  refine h.andThen (offer_aside .vdt (formVerdict cause s).payload s) ?_
  exact h.survey rfl rfl rfl rfl rfl

theorem markSettingsChanged_orderly (s : State) : R s (markSettingsChanged s) := by
  refine h.records rfl rfl rfl rfl fun k c open' => ?_
  cases k
  all_goals
    obtain ⟨d, was, rfl⟩ := Option.map_eq_some_iff.mp open'
    exact ⟨d, was, rfl⟩

theorem applyStaged_orderly (s : State) : R s (applyStaged s) := by
  unfold applyStaged
  split
  · exact h.refl s
  · have written : R s (activate s.svc.staged s) := activate_orderly h Svc.InRange.staged
    refine h.trans (h.then (h.trans written ?_) (offer_aside _ _ _)) (markSettingsChanged_orderly h _)
    exact h.service rfl rfl rfl fun x => ⟨x.active, nofun, List.nil_sublist _⟩

theorem clearSurveyCounts_orderly (s : State) : R s (clearSurveyCounts s) :=
  h.bank rfl rfl rfl ⟨id, fun _ => List.length_replicate, fun _ => List.length_replicate, fun _ => List.length_replicate,
    fun _ => ⟨le_rfl, le_rfl, le_rfl, le_rfl⟩⟩

theorem startSurvey_orderly (mark : Nat) (s : State) : R s (startSurvey mark s) := by
  unfold startSurvey
  dsimp only
  have counted : R s _ := h.then (clearSurveyCounts_orderly h s) (Aside.of_eq (t := { clearSurveyCounts s with
    evs := { (clearSurveyCounts s).evs with surveyDrops := 0 } }) rfl rfl rfl rfl)
  exact h.trans (h.then counted (offer_aside _ _ _)) (h.survey rfl rfl rfl rfl rfl)

theorem advanceSurvey_orderly (k : Closure) (s : State) (bound : s.svc.survey.state = .running → s.tlb.survey.s1 ≤ cellMax) :
    R s (advanceSurvey k s) := by
  unfold advanceSurvey
  split
  · split
    · split
      · exact startSurvey_orderly h _ s
      · exact h.refl s
    · exact h.refl s
  case h_2 running =>
    have counted : R s (countSkipped (skippedInSurvey s.svc.survey k) s) := countSkipped_orderly h _ s (bound running)
    dsimp only
    split
    · exact h.trans counted (concludeSurvey_orderly h _ _ _)
    · exact counted
  all_goals exact h.refl s

theorem armSurvey_orderly (start : RequestedStart) (days : Nat) (s : State) : R s (armSurvey start days s) := by
  have taken : Aside s (start.taken s) := by
    cases start
    · exact takeReading_aside s
    · exact Aside.refl s
  refine h.answered (h.andThen taken ?_) _ _
  exact h.survey rfl rfl rfl rfl rfl

theorem runSvs_orderly (fields : List Text) (s : State) : R s (runSvs fields s) := by
  unfold runSvs
  split
  · exact h.aside (answer_aside _ _ s)
  · dsimp only
    split
    · exact h.aside (answer_aside _ _ s)
    · split
      · exact h.aside (answer_aside _ _ s)
      · exact armSurvey_orderly h _ _ s

theorem runSva_orderly (fields : List Text) (s : State) : R s (runSva fields s) := by
  unfold runSva
  split
  · exact h.aside (answer_aside _ _ s)
  · split
    · refine h.answered ?_ _ _
      exact h.survey rfl rfl rfl rfl rfl
    · exact h.answered (concludeSurvey_orderly h _ _ s) _ _
    all_goals exact h.aside (answer_aside _ _ s)

theorem releaseSurvey_orderly (s : State) : R s (releaseSurvey s) := by
  have cleared : Aside s (clearProtection (offer .svy (surveyReleasePayload (s.svc.survey.id.getD 0)) s)) :=
    (clearProtection_aside _).after (offer_aside _ _ s)
  refine h.answered (h.andThen cleared ?_) _ _
  exact h.survey rfl rfl rfl rfl rfl

theorem runSvr_orderly (fields : List Text) (s : State) : R s (runSvr fields s) := by
  unfold runSvr
  split
  · exact h.aside (answer_aside _ _ s)
  · split
    · exact releaseSurvey_orderly h s
    · exact releaseSurvey_orderly h s
    all_goals exact h.aside (answer_aside _ _ s)

end

end Sys2Proof.Machine
end

section
/-! Items handed to the bank, and the events, the intervals, the samples and the measurement on the detector, the settings and
the bank. -/

namespace Sys2Proof.Machine

/-! ## What an item handed to the bank changes -/

/-- A change of the bank, the timebase and the link alone. -/
def BankOnly (s t : State) : Prop := t = { s with tlb := t.tlb, tmb := t.tmb, hlk := t.hlk }

theorem BankOnly.refl (s : State) : BankOnly s s := rfl

theorem BankOnly.trans {s t u : State} (h : BankOnly s t) (k : BankOnly t u) : BankOnly s u := by
  unfold BankOnly at h k ⊢
  rw [k, h]

theorem BankOnly.svc {s t : State} (h : BankOnly s t) : t.svc = s.svc := by rw [h]
theorem BankOnly.iva {s t : State} (h : BankOnly s t) : t.iva = s.iva := by rw [h]
theorem BankOnly.evd {s t : State} (h : BankOnly s t) : t.evd = s.evd := by rw [h]
theorem BankOnly.evs {s t : State} (h : BankOnly s t) : t.evs = s.evs := by rw [h]
theorem BankOnly.spm {s t : State} (h : BankOnly s t) : t.spm = s.spm := by rw [h]

theorem cellTakes_bankOnly (item : Item) (s : State) (i : Nat) : BankOnly s (cellTakes item s i) := by
  unfold cellTakes
  dsimp only
  split
  · split
    · unfold BankOnly postMark
      rw [postWithReading_others]
      rfl
    · rfl
  · rfl

theorem foldl_bankOnly {α : Type} {f : State → α → State} (each : ∀ s x, BankOnly s (f s x)) (xs : List α) (s : State) :
    BankOnly s (xs.foldl f s) := by
  induction xs generalizing s with
  | nil => exact BankOnly.refl s
  | cons x rest ih => exact (each s x).trans (ih _)

theorem surveyTakes_bankOnly (item : Item) (s : State) : BankOnly s (surveyTakes item s) := by
  unfold surveyTakes
  split <;> rfl

theorem matricesTake_bankOnly (item : Item) (s : State) : BankOnly s (matricesTake item s) := by
  unfold matricesTake
  split <;> rfl

/-- An item changes the bank, and with its notices the last reading given and the link. -/
theorem handItem_bankOnly (item : Item) (s : State) : BankOnly s (handItem item s) :=
  ((foldl_bankOnly (cellTakes_bankOnly item) (List.range 12) s).trans (surveyTakes_bankOnly item _)).trans
    (matricesTake_bankOnly item _)

theorem cellTakes_survey (item : Item) (s : State) (i : Nat) : (cellTakes item s i).tlb.survey = s.tlb.survey := by
  unfold cellTakes
  dsimp only
  split
  · split
    · unfold postMark
      rw [postWithReading_others]
      rfl
    · rfl
  · rfl

theorem cellsTake_survey (item : Item) (cells : List Nat) (s : State) :
    (cells.foldl (cellTakes item) s).tlb.survey = s.tlb.survey := by
  induction cells generalizing s with
  | nil => rfl
  | cons i rest ih => exact (ih _).trans (cellTakes_survey item s i)

theorem Tlb.takeChain_survey (b : Tlb) (c : ChainClassification) : (b.takeChain c).survey = b.survey := by
  unfold Tlb.takeChain
  split
  · split <;> rfl
  all_goals rfl

theorem matricesTake_survey (item : Item) (s : State) : (matricesTake item s).tlb.survey = s.tlb.survey := by
  unfold matricesTake
  split
  · exact Tlb.takeChain_survey _ _
  all_goals rfl

theorem surveyTakes_survey (item : Item) (s : State) : (surveyTakes item s).tlb.survey =
    if s.svc.survey.state = .running then s.tlb.survey.take s.svc.active s.svc.survey item else s.tlb.survey := by
  unfold surveyTakes
  split <;> rfl

/-- What an item leaves of the survey cells (R88). -/
theorem handItem_survey (item : Item) (s : State) : (handItem item s).tlb.survey =
    if s.svc.survey.state = .running then s.tlb.survey.take s.svc.active s.svc.survey item else s.tlb.survey := by
  have cells := foldl_bankOnly (cellTakes_bankOnly item) (List.range 12) s
  unfold handItem
  rw [matricesTake_survey, surveyTakes_survey, cells.svc, cellsTake_survey]

/-! ## The steps of a report (R25) -/

/-- The per-phase states after a report (step 1). -/
abbrev State.phasesAt (s : State) (r : Report) : PerPhase (Option PhaseState) := phasesAfter s.evd.phases s.svc.active r

/-- The state that a report's processing begins with: the phases by their new values, the records open before it advanced. -/
def reportBegins (r : Report) (span : Nat) (s : State) : State :=
  { s with evd := { s.evd.advance r (reportTicks s.evd r span) with phases := s.phasesAt r } }

/-- The records whose condition ends are closed (step 2). -/
def reportCloses (r : Report) (span : Nat) (s : State) : State :=
  [EventKind.interruption, .dip, .swell].foldl
    (closeEnded (s.phasesAt r) r (if s.evd.resumed then CloseCause.resume else .ended)) (reportBegins r span s)

/-- The records whose condition begins are open (step 2). -/
def reportOpens (r : Report) (span : Nat) (s : State) : State :=
  [EventKind.dip, .swell, .interruption].foldl (openHolding (s.phasesAt r) r) (reportCloses r span s)

/-- The open records take the report (step 3). -/
def reportProgresses (r : Report) (span : Nat) (s : State) : State :=
  { reportOpens r span s with evd := (reportOpens r span s).evd.progress (s.phasesAt r) r }

/-- The records at their limit are split (step 4). -/
def reportLimits (r : Report) (span : Nat) (s : State) : State :=
  [EventKind.dip, .swell, .interruption].foldl (limitRecord (s.phasesAt r) r) (reportProgresses r span s)

theorem processReport_state (r : Report) (span : Nat) (s : State) : (processReport r span s).1 =
    { reportLimits r span s with evd := { (reportLimits r span s).evd with
        lastBoundary := some ⟨r.time, r.tick⟩, resumed := false } } := rfl

/-! ## Events -/

theorem Evd.Regular.setContext {e : Evd} (x : e.Regular) {kind : EventKind} {c : Option Context}
    (fits : ∀ d, c = some d → d.kind = kind) : (e.setContext kind c).Regular := by
  refine ⟨fun k d held => ?_, fun p y at' => x.flagged p y (by rw [← Evd.setContext_phases e kind c]; exact at')⟩
  by_cases same : k = kind
  · subst same
    rw [Evd.setContext_context_same] at held
    exact fits d held
  · rw [Evd.setContext_context_other e c same] at held
    exact x.kinds k d held

theorem Context.progressPhase_kind (phases : PerPhase (Option PhaseState)) (r : Report) (c : Context) (p : Phase) :
    (c.progressPhase phases r p).kind = c.kind := by
  unfold Context.progressPhase
  split
  · rfl
  · split <;> rfl

/-- A report keeps the kind of a record. -/
theorem Context.progress_kind (c : Context) (phases : PerPhase (Option PhaseState)) (r : Report) :
    (c.progress phases r).kind = c.kind := by
  have fold : ∀ (ps : List Phase) (c : Context), (ps.foldl (Context.progressPhase phases r) c).kind = c.kind := by
    intro ps
    induction ps with
    | nil => exact fun _ => rfl
    | cons p rest ih => exact fun c => (ih _).trans (c.progressPhase_kind phases r p)
  exact fold allPhases c

/-- One change of every open record keeps the detector regular where it keeps their kinds. -/
theorem Orderly.everyRecord {R : State → State → Prop} (h : Orderly R) {s t : State} (f : Context → Context)
    (kind : ∀ c, (f c).kind = c.kind) (svc : t.svc = s.svc) (tlb : t.tlb = s.tlb) (evs : t.evs = s.evs)
    (phases : t.evd.phases = s.evd.phases) (records : ∀ k, t.evd.context k = (s.evd.context k).map f) : R s t := by
  refine h.records svc tlb evs phases fun k c held => ?_
  rw [records k] at held
  obtain ⟨d, was, rfl⟩ := Option.map_eq_some_iff.mp held
  exact ⟨d, was, kind d⟩

section
variable {R : State → State → Prop} (h : Orderly R)
include h

theorem dropContext_orderly (kind : EventKind) (s : State) : R s (setContext kind none s) :=
  h.events rfl rfl rfl fun x => x.setContext nofun

theorem closeRecord_orderly (c : Context) (k : CloseAt) (s : State) : R s (closeRecord c k s) := by
  have posted : R s (postClose c k (offeredSequence s) (offer .evt (c.record k).payload s)) :=
    h.aside ((postNotice_aside _ _ _).after (offer_aside _ _ s))
  unfold closeRecord
  dsimp only
  split
  · exact h.trans posted (dropContext_orderly h _ _)
  · exact h.trans (h.trans posted (handItem_orderly h _ _)) (dropContext_orderly h _ _)

theorem closeEnded_orderly (phases : PerPhase (Option PhaseState)) (r : Report) (cause : CloseCause) (s : State)
    (kind : EventKind) : R s (closeEnded phases r cause s kind) := by
  unfold closeEnded
  split
  · split
    · exact h.refl s
    · exact closeRecord_orderly h _ _ s
  · exact h.refl s

theorem openRecord_orderly (kind : EventKind) (phases : PerPhase (Option PhaseState)) (r : Report) (s : State) :
    R s (openRecord kind phases r s) := by
  have issued : R s (issueNumber s) := h.records rfl rfl rfl rfl fun k c held => ⟨c, held, rfl⟩
  have placed := h.trans issued (h.events (t := setContext kind
    (some (Context.opening kind (issueNumber s).evd.counter r)) (issueNumber s)) rfl rfl rfl fun x =>
      x.setContext fun d opened => by cases opened; rfl)
  unfold openRecord
  dsimp only
  refine h.then ?_ (postNotice_aside _ _ _)
  split
  · refine h.trans placed (h.records rfl rfl rfl rfl fun k c held => ?_)
    cases k
    case dip =>
      obtain ⟨d, was, rfl⟩ := Option.map_eq_some_iff.mp held
      exact ⟨d, was, rfl⟩
    all_goals exact ⟨c, held, rfl⟩
  · exact placed

theorem openHolding_orderly (phases : PerPhase (Option PhaseState)) (r : Report) (s : State) (kind : EventKind) :
    R s (openHolding phases r s kind) := by
  unfold openHolding
  split
  · exact h.refl s
  · split
    · exact openRecord_orderly h _ _ _ s
    · exact h.refl s

/-- A record split at its limit is continued by one of its kind (R41). -/
theorem limitRecord_orderly (phases : PerPhase (Option PhaseState)) (r : Report) (s : State) (kind : EventKind) :
    R s (limitRecord phases r s kind) := by
  unfold limitRecord
  split
  case h_1 c held =>
    split
    · refine h.then ?_ (postNotice_aside _ _ _)
      have posted : Aside s (postClose c ⟨.limit, r.time⟩ (offeredSequence s) (offer .evt (c.record ⟨.limit, r.time⟩).payload s)) :=
        (postNotice_aside _ _ _).after (offer_aside _ _ s)
      refine h.andThen posted (h.events rfl rfl rfl fun x => ?_)
      have ofKind : c.kind = kind := x.kinds kind c (by rw [posted.evd]; exact held)
      have closed := x.setContext (kind := c.kind) (c := none) nofun
      have issued : (issueNumber (closeRecord c ⟨.limit, r.time⟩ s)).evd.Regular := ⟨closed.kinds, closed.flagged⟩
      refine issued.setContext fun d continued => ?_
      cases continued
      exact (Context.progress_kind _ _ _).trans ofKind
    · exact h.refl s
  · exact h.refl s

theorem processReport_orderly (r : Report) (span : Nat) (s : State) (start : R s (reportBegins r span s)) :
    R s (processReport r span s).1 := by
  rw [processReport_state]
  have closed : R s (reportCloses r span s) := h.trans start (h.foldl _ (closeEnded_orderly h _ _ _) _ _)
  have opened : R s (reportOpens r span s) := h.trans closed (h.foldl _ (openHolding_orderly h _ _) _ _)
  have progressed : R s (reportProgresses r span s) := h.trans opened
    (h.everyRecord (Context.progress · (phasesAfter s.evd.phases s.svc.active r) r) (fun c => c.progress_kind _ _) rfl rfl rfl
      rfl fun k => by cases k <;> rfl)
  have limited : R s (reportLimits r span s) := h.trans progressed (h.foldl _ (limitRecord_orderly h _ _) _ _)
  exact h.trans limited (h.records rfl rfl rfl rfl fun k c held => ⟨c, held, rfl⟩)

theorem stopRecords_orderly (s : State) : R s (stopRecords s) := by
  refine h.foldl _ (fun s kind => ?_) _ s
  unfold stopRecord
  split
  · exact closeRecord_orderly h _ _ s
  · exact h.refl s

end

end Sys2Proof.Machine
end

section
/-! Intervals, samples, measurement, time steps and frames on the detector, the settings and the bank. -/

namespace Sys2Proof.Machine

theorem applyStaged_tlb (s : State) : (applyStaged s).tlb = s.tlb := by
  unfold applyStaged
  split
  · rfl
  · exact (offer_aside _ _ _).tlb

theorem applyStaged_surveyState (s : State) : (applyStaged s).svc.survey.state = s.svc.survey.state := by
  unfold applyStaged
  split
  · rfl
  · refine (congrArg (fun v : Svc => v.survey.state) (offer_aside _ _ _).svc).trans ?_
    dsimp only
    split <;> rfl

/-! ### Changes of one block -/

theorem ich_aside (b : Ich) (s : State) : Aside s { s with ich := b } := Aside.of_eq rfl rfl rfl rfl
theorem cyt_aside (b : Cyt) (s : State) : Aside s { s with cyt := b } := Aside.of_eq rfl rfl rfl rfl
theorem iva_aside (b : Iva) (s : State) : Aside s { s with iva := b } := Aside.of_eq rfl rfl rfl rfl
theorem tmb_aside (b : Tmb) (s : State) : Aside s { s with tmb := b } := Aside.of_eq rfl rfl rfl rfl
theorem spm_aside (b : Spm) (s : State) : Aside s { s with spm := b } := Aside.of_eq rfl rfl rfl rfl
theorem hlk_aside (b : Hlk) (s : State) : Aside s { s with hlk := b } := Aside.of_eq rfl rfl rfl rfl

theorem openInterval_aside (mark : Nat) (marks : IntervalMarks) (s : State) : Aside s (openInterval mark marks s) :=
  iva_aside _ s

theorem addCloses_aside (n : Nat) (s : State) : Aside s (addCloses n s) := iva_aside _ s

theorem haltMarked_aside (s : State) : Aside s (haltMarked s) := iva_aside _ s

theorem beginPeriod_aside (reasons : PeriodReasons) (r : Report) (s : State) : Aside s (beginPeriod reasons r s) := iva_aside _ s

/-- No phase is flagged as measurement starts. -/
theorem normalPhases_flagged (w : Wiring) (p : Phase) (x : PhaseState) (at' : (normalPhases w).get p = some x) :
    x.interrupted = true → x.excursion = .low := by
  unfold normalPhases at at'
  rw [PerPhase.build_get] at at'
  split at at'
  · cases at'
    nofun
  · cases at'

/-- After an interval's item the cell S1 of a running survey is in its range (R88). -/
theorem handInterval_s1 (values : PerPhase (Option Nat)) (valid member : Bool) (mark : Nat) (s : State)
    (running : s.svc.survey.state = .running) : (handItem (.int values valid member mark) s).tlb.survey.s1 ≤ cellMax := by
  rw [handItem_survey, if_pos running]
  exact min_le_right _ _

/-! ### The closure of an interval, step by step (R64) -/

/-- The record of an interval that closes is offered and its notice posted. -/
def intervalPosted (i : Interval) (cause : ClosureCause) (closeTime : Time) (s : State) : State :=
  postInterval (i.record closeTime (cause == .halt) s) (offeredSequence s)
    (offer .ivl (i.record closeTime (cause == .halt) s).payload s)

/-- The item of an interval that closes. -/
def intervalItem (i : Interval) (cause : ClosureCause) (closeTime : Time) (s : State) : Item :=
  .int (intervalValues (i.record closeTime (cause == .halt) s).phases) (i.record closeTime (cause == .halt) s).valid
    (i.record closeTime (cause == .halt) s).member (i.record closeTime (cause == .halt) s).startMark

/-- Then the bank has its item. -/
def intervalHanded (i : Interval) (cause : ClosureCause) (closeTime : Time) (s : State) : State :=
  handItem (intervalItem i cause closeTime s) (intervalPosted i cause closeTime s)

/-- The closure that an interval delivers (R64, R74). -/
def closureOf (i : Interval) (cause : ClosureCause) (closeTime : Time) (opened : Option Nat) (s : State) : Closure :=
  ⟨i.startMark, i.endMark, closeTime, (i.record closeTime (cause == .halt) s).valid,
    (i.record closeTime (cause == .halt) s).member, cause, (skippedMarks i.startMark opened).1,
    (skippedMarks i.startMark opened).2, opened⟩

theorem closeInterval_none {s : State} (held : s.iva.interval = none) (cause : ClosureCause) (closeTime : Time)
    (opened : Option Nat) : closeInterval cause closeTime opened s = s := by
  unfold closeInterval
  rw [held]

theorem closeInterval_some {s : State} {i : Interval} (held : s.iva.interval = some i) (cause : ClosureCause)
    (closeTime : Time) (opened : Option Nat) : closeInterval cause closeTime opened s =
      takeClosure (closureOf i cause closeTime opened s) { intervalHanded i cause closeTime s with
        iva := { (intervalHanded i cause closeTime s).iva with interval := none } } := by
  simp only [closeInterval, held, closureOf, intervalHanded, intervalItem, intervalPosted]

section
variable {R : State → State → Prop} (h : Orderly R)
include h

/-! ## Intervals -/

theorem takeClosure_orderly (k : Closure) (s : State) (bound : s.svc.survey.state = .running → s.tlb.survey.s1 ≤ cellMax) :
    R s (takeClosure k s) :=
  h.trans (applyStaged_orderly h s) (advanceSurvey_orderly h k _ fun running => by
    rw [applyStaged_tlb]
    exact bound ((applyStaged_surveyState s).symm.trans running))

theorem closeInterval_orderly (cause : ClosureCause) (closeTime : Time) (opened : Option Nat) (s : State) :
    R s (closeInterval cause closeTime opened s) := by
  cases held : s.iva.interval with
  | none =>
    rw [closeInterval_none held]
    exact h.refl s
  | some i =>
    rw [closeInterval_some held]
    have posted : Aside s (intervalPosted i cause closeTime s) := (postNotice_aside _ _ _).after (offer_aside _ _ s)
    have handed : R s (intervalHanded i cause closeTime s) := h.andThen posted (handItem_orderly h _ _)
    refine h.trans (h.then handed (iva_aside _ _)) (takeClosure_orderly h _ _ fun running => ?_)
    dsimp only at running ⊢
    have same : (intervalHanded i cause closeTime s).svc = (intervalPosted i cause closeTime s).svc :=
      (handItem_bankOnly _ _).svc
    have before : (intervalPosted i cause closeTime s).svc.survey.state = .running := by
      rw [← same]
      exact running
    unfold intervalHanded intervalItem
    exact handInterval_s1 _ _ _ _ _ before

theorem endPeriod_orderly (s : State) : R s (endPeriod s) := by
  unfold endPeriod
  split
  · exact h.andThen (iva_aside _ s) (handItem_orderly h _ _)
  · exact h.refl s

theorem endWindow_orderly (time : Time) (s : State) : R s (endWindow time s) := by
  unfold endWindow
  split
  · exact h.andThen (iva_aside _ s) (handItem_orderly h _ _)
  · exact h.refl s

theorem windowTakes_orderly (r : Report) (anyOpen closureDue : Bool) (s : State) : R s (windowTakes r anyOpen closureDue s) := by
  unfold windowTakes
  dsimp only
  split
  · exact h.andThen (iva_aside _ s) (endWindow_orderly h _ _)
  · exact h.aside (iva_aside _ s)

theorem periodTakes_orderly (plan : BoundaryPlan) (r : Report) (cycle : Option Cycle) (s : State) :
    R s (periodTakes plan r cycle s) := by
  unfold periodTakes
  dsimp only
  split
  · exact h.then (h.then (endPeriod_orderly h s) (beginPeriod_aside _ _ _)) (iva_aside _ _)
  · exact h.aside (iva_aside _ s)

theorem takePlanned_orderly (plan : BoundaryPlan) (r : Report) (ind : Indications) (cycle : Option Cycle) (s : State) :
    R s (takePlanned plan r ind cycle s) := by
  have counted : R s (addCloses ind.closes (windowTakes r ind.anyOpen plan.closure.isSome (periodTakes plan r cycle s))) :=
    h.then (h.trans (periodTakes_orderly h plan r cycle s) (windowTakes_orderly h _ _ _ _)) (addCloses_aside _ _)
  unfold takePlanned
  dsimp only
  split
  · exact h.then (h.trans counted (closeInterval_orderly h _ _ _ _)) (openInterval_aside _ _ _)
  · exact counted

theorem takeBoundary_orderly (r : Report) (ind : Indications) (cycle : Option Cycle) (s : State) :
    R s (takeBoundary r ind cycle s) := by
  unfold takeBoundary
  dsimp only
  refine h.then ?_ (iva_aside _ _)
  split
  · exact h.andThen (iva_aside _ s) (takePlanned_orderly h _ _ _ _ _)
  · exact h.andThen (openInterval_aside _ _ s) (takePlanned_orderly h _ _ _ _ _)

theorem haltIntervals_orderly (stops : Nat) (s : State) : R s (haltIntervals stops s) := by
  have opened : Aside s (haltOpened s) := by
    unfold haltOpened
    split
    · exact Aside.refl s
    · exact (openInterval_aside _ _ _).after (takeReading_aside s)
  have period : R (haltOpened s) (haltPeriod (haltOpened s)) := h.andThen (iva_aside _ _) (endPeriod_orderly h _)
  have ended : R s (endWindow (haltTime s) (haltPeriod (haltOpened s))) :=
    h.trans (h.andThen opened period) (endWindow_orderly h _ _)
  have marked : R s (haltMarked (addCloses stops (endWindow (haltTime s) (haltPeriod (haltOpened s))))) :=
    h.then ended ((haltMarked_aside _).after (addCloses_aside _ _))
  exact h.then (h.trans marked (closeInterval_orderly h _ _ _ _)) (iva_aside _ _)

/-! ## Samples -/

theorem updatePresence_orderly (r : Report) (s : State) : R s (updatePresence r s) :=
  h.andThen (cyt_aside _ s) (h.foldl _ (fun s _ => h.aside (postNotice_aside _ _ s)) _ _)

/-- A sample, where the begin of every report's processing has the relation. -/
theorem takeSample_orderly (raw : PerPhase (BitVec 16)) (s : State)
    (start : ∀ (r : Report) (span : Nat) (x : State), x.svc.active = s.svc.active → R x (reportBegins r span x)) :
    R s (takeSample raw s) := by
  unfold takeSample
  dsimp only
  split
  case h_1 kind _ =>
    have kept : Aside s (keepReport kind (formReport kind (settleBoundary kind (countSample (conditionAll raw s.svc.active) s)))
        (settleBoundary kind (countSample (conditionAll raw s.svc.active) s))) := Aside.of_eq rfl rfl rfl rfl
    refine h.trans (h.andThen kept ?_) (updatePresence_orderly h _ _)
    unfold deliverReport
    split
    · have handed := handItem_orderly h (.half (formReport kind (settleBoundary kind
        (countSample (conditionAll raw s.svc.active) s)))) (keepReport kind (formReport kind (settleBoundary kind
          (countSample (conditionAll raw s.svc.active) s))) (settleBoundary kind (countSample (conditionAll raw s.svc.active) s)))
      refine h.trans (h.trans handed (processReport_orderly h _ _ _ (start _ _ _ ?_))) (takeBoundary_orderly h _ _ _ _)
      rw [(handItem_bankOnly _ _).svc]
      rfl
    · exact h.refl _
  · exact h.aside (Aside.of_eq rfl rfl rfl rfl)

/-! ## Measurement -/

theorem runMea_orderly (fields : List Text) (s : State) : R s (runMea fields s) := by
  have started : R s (startMeasurement s) := by
    refine h.answered ?_ _ _
    refine h.then ?_ (offer_aside _ _ _)
    have measuring : R s { s with svc := { s.svc with measuring := true } } := h.survey rfl rfl rfl rfl rfl
    refine h.trans measuring (h.then (t := { s with
      svc := { s.svc with measuring := true }, evd := s.evd.atStart s.svc.active.wiring }) ?_ (Aside.of_eq rfl rfl rfl rfl))
    exact h.events rfl rfl rfl fun x => ⟨x.kinds, normalPhases_flagged _⟩
  have stopped : R s (stopMeasurement s) := by
    refine h.answered ?_ _ _
    refine h.then ?_ (offer_aside _ _ _)
    have halted := h.trans (stopRecords_orderly h s) (haltIntervals_orderly h s.evd.openCount _)
    refine h.trans halted ?_
    exact h.survey rfl rfl rfl rfl rfl
  unfold runMea
  split
  · unfold runGo
    split
    · exact h.aside (answer_aside _ _ s)
    · exact started
  · split
    · unfold runHalt
      split
      · exact h.aside (answer_aside _ _ s)
      · split
        · exact h.aside (answer_aside _ _ s)
        · exact stopped
    · exact h.aside (answer_aside _ _ s)

/-! ## Time steps -/

theorem signalStep_orderly (s : State) : R s (signalStep s) := by
  unfold signalStep
  split
  · refine h.then (t := { s with evd := { s.evd with
        dip := s.evd.dip.map Context.withTimeStep
        swell := s.evd.swell.map Context.withTimeStep
        interruption := s.evd.interruption.map Context.withTimeStep } }) ?_ (Aside.of_eq rfl rfl rfl rfl)
    exact h.everyRecord Context.withTimeStep (fun _ => rfl) rfl rfl rfl rfl fun k => by cases k <;> rfl
  · exact h.refl s

theorem deliverStep_orderly (step : OwedStep) (s : State) : R s (deliverStep step s) :=
  h.andThen (offerTimeRecord_aside _ _ _ s) (signalStep_orderly h _)

theorem deliverOwed_orderly (s : State) : R s (deliverOwed s) := by
  unfold deliverOwed
  split
  · exact h.andThen (tmb_aside _ s) (deliverStep_orderly h _ _)
  · exact h.refl s

theorem timeStep_orderly (cause : StepCause) (seconds sub : Nat) (after : Quality) (errors : List Int) (s : State) :
    R s (timeStep cause seconds sub after errors s) := by
  unfold timeStep
  dsimp only
  refine h.then ?_ (postQuality_aside _ _ _)
  unfold reportStep
  split
  · exact h.andThen (tmb_aside _ s) (deliverStep_orderly h _ _)
  · exact h.aside (tmb_aside _ _)

theorem crystalTick_orderly (s : State) : R s (crystalTick s) := by
  have counted : Aside s (countTick s) := Aside.of_eq rfl rfl rfl rfl
  unfold crystalTick
  split
  · refine h.andThen counted ?_
    unfold countRtc
    split
    · exact h.aside (tmb_aside _ _)
    · split
      · exact h.aside (tmb_aside _ _)
      · split
        · exact h.aside (tmb_aside _ _)
        · exact timeStep_orderly h _ _ _ _ _ _
  · exact h.refl s

theorem correctClock_orderly (error : Int) (s : State) : R s (correctClock error s) := by
  unfold correctClock
  split
  · split
    · exact h.aside (tmb_aside _ _)
    · exact timeStep_orderly h _ _ _ _ _ _
  · split
    · exact h.aside (tmb_aside _ _)
    · exact h.aside (tmb_aside _ _)

theorem takePulse_orderly (s : State) : R s (takePulse s) := by
  have accepted : Aside s { s with tmb := s.tmb.acceptPulse } := Aside.of_eq rfl rfl rfl rfl
  unfold takePulse
  split
  · exact h.aside (tmb_aside _ _)
  · dsimp only
    split
    · exact h.andThen accepted
        (h.then (h.then (correctClock_orderly h _ _) (tmb_aside _ _)) (changeQuality_aside _ _ _))
    · refine h.andThen accepted ?_
      unfold disagree
      dsimp only
      split
      · exact h.aside (tmb_aside _ _)
      · exact timeStep_orderly h _ _ _ _ _ _

end

end Sys2Proof.Machine
end

section
/-! Commands, frames, power changes and completions of the medium on the detector, the settings and the bank. -/

namespace Sys2Proof.Machine

/-- A change that leaves the detector, the settings and the bank regular whatever they were. -/
theorem Orderly.anew {R : State → State → Prop} (h : Orderly R) {s t : State} (evd : t.evd.Regular) (svc : t.svc.InRange)
    (bank : s.tlb.Keeps t.tlb) (sectors : t.evs.sectors.length = 1024) : R s t := by
  have events : R s { s with evd := t.evd } := h.events rfl rfl rfl fun _ => evd
  have service : R { s with evd := t.evd } { s with evd := t.evd, svc := t.svc } := h.service rfl rfl rfl fun _ => svc
  have tallied : R { s with evd := t.evd, svc := t.svc } { s with evd := t.evd, svc := t.svc, tlb := t.tlb } :=
    h.bank rfl rfl rfl bank
  exact h.trans (h.trans events service) (h.then tallied ⟨rfl, rfl, rfl, fun _ => sectors⟩)

theorem Evd.cold_regular : Evd.cold.Regular := by
  refine ⟨fun k c held => ?_, fun p x at' => ?_⟩
  · cases k <;> cases held
  · cases p <;> cases at' <;> nofun

theorem Tlb.keeps_cold (b : Tlb) : b.Keeps Tlb.cold :=
  ⟨fun _ => List.length_replicate, fun _ => List.length_replicate, fun _ => List.length_replicate,
    fun _ => List.length_replicate, fun _ => ⟨le_rfl, le_rfl, le_rfl, le_rfl⟩⟩

theorem postPower_aside (event : String) (further : List Text) (s : State) : Aside s (postPower event further s) :=
  postWithReading_aside _ _ s

theorem beginRideThrough_aside (s : State) : Aside s (beginRideThrough s) := by
  unfold beginRideThrough
  refine Aside.after (postPower_aside _ _ _) ?_
  exact Aside.of_eq rfl rfl rfl rfl

theorem recover_aside (s : State) : Aside s (recover s) := by
  unfold recover
  refine Aside.after (postPower_aside _ _ _) ?_
  exact Aside.of_eq rfl rfl rfl rfl

theorem announceResume_aside (s : State) : Aside s (announceResume s) := by
  unfold announceResume
  exact (spm_aside _ _).after ((postPower_aside _ _ _).after ((offer_aside _ _ _).after (takeReading_aside s)))

theorem runAfterCold_aside (s : State) : Aside s (runAfterCold (announceCold s)) := by
  unfold runAfterCold announceCold
  exact (startSampling_aside _).after ((spm_aside _ _).after ((postPower_aside _ _ _).after (offer_aside _ _ s)))

theorem postScanState_aside (s : State) : Aside s (postScanState s) ∧ (postScanState s).evs = s.evs := by
  unfold postScanState
  split
  · exact ⟨postWithReading_aside _ _ s, by unfold postStore; rw [postWithReading_others]⟩
  · exact ⟨postWithReading_aside _ _ s, by unfold postStore; rw [postWithReading_others]⟩
  all_goals exact ⟨Aside.refl s, rfl⟩

theorem takeBackKept_aside (s : State) : Aside s (takeBackKept s) := by
  unfold takeBackKept
  split
  · exact Aside.of_eq rfl rfl rfl rfl
  · exact Aside.refl s

theorem answerRead_aside (request : ReadRequest) (image : List Byte) (place : Text) (mark : Bool) (s : State) :
    Aside s (answerRead request image place mark s) := by
  unfold answerRead
  refine Aside.after (answer_aside _ _ _) ?_
  exact Aside.of_eq rfl rfl rfl rfl

theorem erased_recovery (e : Evs) (sector : Nat) : (e.erased sector).recovery = e.recovery := by
  unfold Evs.erased
  dsimp only
  split <;> rfl

/-- An erase ends as any completion does, or it ends a scan. -/
theorem eraseEnds_form (sector : Nat) (residue : List Host.Cell) (s : State) :
    ∃ x, Aside s x ∧ x.ich.osc = s.ich.osc ∧ (eraseEnds sector residue s = completed x ∨
      x.evs.recovery = s.evs.recovery ∧ ∃ failed, eraseEnds sector residue s = endScan failed x) := by
  have written : Aside s { s with evs := { s.evs with medium := s.evs.medium.erasedLeaving sector residue } } :=
    Aside.of_eq rfl rfl rfl rfl
  unfold eraseEnds
  dsimp only
  split
  · have erased := written.trans (erased_aside sector _)
    unfold eraseSucceeds
    dsimp only
    split
    · split
      · exact ⟨_, erased, rfl, Or.inl rfl⟩
      · exact ⟨_, erased, rfl, Or.inr ⟨erased_recovery _ sector, false, rfl⟩⟩
    · exact ⟨_, erased.trans (frontAdvances_aside _), (frontAdvances_calm _).osc, Or.inl rfl⟩
    all_goals exact ⟨_, erased, rfl, Or.inl rfl⟩
  · have failed := written.trans (updateSector_aside sector (fun x => { x with condition := .closed }) _)
    unfold eraseFails
    dsimp only
    split
    · split
      · exact ⟨_, failed, rfl, Or.inl rfl⟩
      · exact ⟨_, failed, rfl, Or.inr ⟨rfl, true, rfl⟩⟩
    all_goals exact ⟨_, failed.trans (enterFault_aside _ _), (enterFault_calm _ _).osc, Or.inl rfl⟩

/-- The state that the walk of a scan and its findings leave (R166, R167). -/
def scanHanded (s : State) : State :=
  handOverScan (walkRing s.evs.medium (programmedSlots s.evs.medium))
    { s with evs := scanned s.evs (programmedSlots s.evs.medium) (walkRing s.evs.medium (programmedSlots s.evs.medium)) }

theorem scanDelivered_eq (s : State) : scanDelivered s = match freeErase (scanHanded s).evs with
    | some sector => startErase sector (scanHanded s)
    | none => endScan false (scanHanded s) := rfl

section
variable {R : State → State → Prop} (h : Orderly R)
include h

/-! ## Commands -/

theorem runTis_orderly (broadcast : Bool) (fields : List Text) (s : State) : R s (runTis broadcast fields s) := by
  unfold runTis
  split
  · exact h.aside (answer_aside _ _ s)
  · split
    · exact h.answered (timeStep_orderly h _ _ _ _ _ s) _ _
    · exact h.aside (answer_aside _ _ s)

theorem runCommand_orderly (c : Command) (fields : List Text) (s : State) : R s (runCommand c fields s) := by
  cases c
  case cal => exact h.aside (answers_aside _ _ _ _ s)
  case mvh => exact h.aside (answers_aside _ _ _ _ s)
  case phm => exact h.aside (runPhm_aside fields s)
  case evl => exact h.aside (answers_aside _ _ _ _ s)
  case mvw => exact h.aside (answers_aside _ _ _ _ s)
  case mvf => exact h.aside (answers_aside _ _ _ _ s)
  case tlc => exact runTlc_orderly h fields s
  case tlr => exact h.aside (runTlr_aside fields s)
  case tlx => exact runTlx_orderly h fields s
  case tlf => exact runTlf_orderly h fields s
  case tlu => exact runTlu_orderly h fields s
  case tlm => exact h.aside (runTlm_aside fields s)
  case set => exact runSet_orderly h fields s
  case get => exact h.aside (runGet_aside fields s)
  case mea => exact runMea_orderly h fields s
  case svs => exact runSvs_orderly h fields s
  case sva => exact runSva_orderly h fields s
  case svr => exact runSvr_orderly h fields s
  case svq => exact h.aside (answers_aside _ _ _ _ s)
  case svv => exact h.aside (answers_aside _ _ _ _ s)
  case tis => exact runTis_orderly h false fields s
  case trf => exact h.aside (runTrf_aside fields s)
  case tim => exact h.aside (runTim_aside fields s)
  case rdr => exact h.aside (runReadOf_aside _ fields s)
  case rdx => exact h.aside (runReadOf_aside _ fields s)
  case rdn => exact h.aside (runRdn_aside fields s)
  case stq => exact h.aside (answers_aside _ _ _ _ s)
  case ste => exact h.aside (runSte_aside fields s)
  case idn => exact h.aside (answers_aside _ _ _ _ s)
  case lnk => exact h.aside (runLnk_aside fields s)
  case sta => exact h.aside (answers_aside _ _ _ _ s)

/-! ## Frames -/

theorem handOver_orderly (c : Command) (fields : List Text) (s : State) : R s (handOver c fields s) := by
  unfold handOver
  dsimp only
  split
  · exact h.aside ((answer_aside _ _ _).after (hlk_aside _ s))
  · exact h.andThen (hlk_aside _ s) (runCommand_orderly h c fields _)

theorem handBroadcast_orderly (c : Command) (fields : List Text) (s : State) : R s (handBroadcast c fields s) := by
  unfold handBroadcast
  split
  · exact runTis_orderly h true fields s
  · exact h.refl s

theorem takeFrame_orderly (f : Frame) (s : State) : R s (takeFrame f s) := by
  unfold takeFrame
  split
  · split
    · exact h.refl s
    · exact h.aside (placeReply_aside _ _ _ _ s)
  · split
    · exact handBroadcast_orderly h _ _ s
    · exact handOver_orderly h _ _ s

theorem takeFrames_orderly (n : Nat) (s : State) : R s (takeFrames n s) := by
  induction n generalizing s with
  | zero => exact h.refl s
  | succ n ih =>
    unfold takeFrames
    split
    · exact h.refl s
    · split
      · exact h.trans (h.andThen (hlk_aside _ s) (takeFrame_orderly h _ _)) (ih _)
      · exact h.refl s

theorem frameKept_orderly (f : Frame) (s : State) : R s (frameKept f s) := by
  unfold frameKept
  split
  · exact h.andThen (hlk_aside _ s) (takeFrames_orderly h _ _)
  · exact h.aside (hlk_aside _ s)

theorem dropReception_orderly (s : State) : R s (dropReception s) := h.aside (hlk_aside _ s)

theorem goodCharacter_orderly (c : Char) (s : State) : R s (goodCharacter c s) := by
  unfold goodCharacter
  split
  · exact h.aside (hlk_aside _ s)
  · split
    · exact h.refl s
    · split
      · unfold frameCompletes
        dsimp only
        split
        · exact h.aside (hlk_aside _ s)
        · split
          · exact h.aside (hlk_aside _ s)
          · split
            · exact h.andThen (hlk_aside _ s) (frameKept_orderly h _ _)
            · exact h.aside (hlk_aside _ s)
      · exact h.aside (hlk_aside _ s)

theorem transmitterIdle_orderly (s : State) : R s (transmitterIdle s) :=
  h.then (h.then (h.andThen (hlk_aside _ s) (takeFrames_orderly h _ _)) (hlk_aside _ _)) (transmit_aside _)

theorem endReply_orderly (s : State) : R s (endReply s) := by
  unfold endReply
  dsimp only
  split
  · exact h.aside ((offer_aside _ _ _).after ((hlk_aside _ _).after (hlk_aside _ s)))
  · exact h.aside (hlk_aside _ s)

theorem request_orderly (c : Command) (fields : List Text) (s : State) : R s (request c fields s) := by
  unfold request
  split
  · exact h.refl s
  · split
    · exact h.trans (dropReception_orderly h s) (handOver_orderly h _ _ _)
    · exact h.trans (dropReception_orderly h s) (frameKept_orderly h _ _)

theorem broadcastTis_orderly (fields : List Text) (s : State) : R s (broadcastTis fields s) := by
  unfold broadcastTis
  split
  · exact h.refl s
  · split
    · exact h.trans (dropReception_orderly h s) (handBroadcast_orderly h _ _ _)
    · exact h.trans (dropReception_orderly h s) (frameKept_orderly h _ _)

/-! ## Power -/

theorem coldStart_orderly (reason : ColdReason) (s : State) : R s (coldStart reason s) :=
  h.anew Evd.cold_regular Svc.cold_inRange (Tlb.keeps_cold _) List.length_replicate

theorem enterOff_orderly (s : State) : R s (enterOff s) := by
  have off : R s (wiped s) := h.anew Evd.cold_regular Svc.cold_inRange (Tlb.keeps_cold _) List.length_replicate
  unfold enterOff
  split
  · exact h.trans off (coldStart_orderly h _ _)
  · exact off

theorem wake_orderly (found : Option (List Byte)) (s : State) : R s (wake found s) := by
  unfold wake
  split
  · exact h.aside ((transmit_aside _).after (spm_aside _ s))
  · exact coldStart_orderly h _ s

theorem enterDormant_orderly (s : State) : R s (enterDormant s) := by
  have sealed : R s (sealContext s) := h.aside (Aside.of_eq rfl rfl rfl rfl)
  unfold enterDormant
  split
  · exact enterOff_orderly h s
  · dsimp only
    split
    · exact h.trans sealed (wake_orderly h none _)
    · exact sealed

theorem giveUpStart_orderly (s : State) : R s (giveUpStart s) := by
  have fallen : ∀ x, Aside x (fallDormant x) := fun _ => Aside.of_eq rfl rfl rfl rfl
  have back : R s (returnDormant s) := by
    unfold returnDormant
    split
    · exact h.aside ((spm_aside _ _).after ((fallen _).after (takeBackKept_aside s)))
    · refine h.aside ((fallen s).trans ?_)
      exact Aside.of_eq rfl rfl rfl rfl
  unfold giveUpStart
  split
  · exact enterOff_orderly h s
  · split
    · exact h.trans back (wake_orderly h none _)
    · exact back

theorem supplyFails_orderly (s : State) : R s (supplyFails s) := by
  unfold supplyFails
  split
  · exact h.aside (beginRideThrough_aside s)
  · exact h.aside (spm_aside _ s)
  · split
    · exact h.aside (spm_aside _ s)
    · have aborted : Aside s { s with spm := s.spm.abort } := spm_aside _ s
      unfold abortStart
      dsimp only
      split
      · exact h.aside (spm_aside _ s)
      · exact h.aside (spm_aside _ s)
      · refine h.andThen ?_ (giveUpStart_orderly h _)
        exact Aside.of_eq rfl rfl rfl rfl
      · exact h.andThen aborted (giveUpStart_orderly h _)
      · exact h.andThen aborted (giveUpStart_orderly h _)
  all_goals exact h.refl s

theorem supplyReturns_orderly (found : Option (List Byte)) (low : Bool) (s : State) : R s (supplyReturns found low s) := by
  have pins : Aside s { s with pins := { s.pins with defcomLow := low } } := Aside.of_eq rfl rfl rfl rfl
  unfold supplyReturns
  dsimp only
  split
  · exact h.aside ((spm_aside _ _).after pins)
  · split
    · exact h.aside ((spm_aside _ _).after pins)
    · exact h.aside ((recover_aside _).after pins)
  · exact h.aside ((spm_aside _ _).after pins)
  · exact h.andThen pins (wake_orderly h _ _)
  · exact h.andThen pins (coldStart_orderly h _ _)

theorem noteBackup_orderly (i : Indication) (s : State) : R s (noteBackup i s) := h.aside (Aside.of_eq rfl rfl rfl rfl)

theorem endDrain_orderly (s : State) : R s (endDrain s) := by
  unfold endDrain
  split
  · exact enterDormant_orderly h s
  · exact h.refl s

theorem commit_orderly (s : State) : R s (commit s) := by
  have told : R s (postPower "COMMIT" [optText num (offeredSequence s)]
      (offer .pwr (dormantRecord s) { s with spm := { s.spm with commitWaiting := false } })) :=
    h.aside ((postPower_aside _ _ _).after ((offer_aside _ _ _).after (spm_aside _ s)))
  exact h.trans told (endDrain_orderly h _)

theorem endWindowOfRide_orderly (s : State) : R s (endWindowOfRide s) := by
  unfold endWindowOfRide
  dsimp only
  split
  · refine h.andThen ?_ (commit_orderly h _)
    exact Aside.of_eq rfl rfl rfl rfl
  · exact h.aside (Aside.of_eq rfl rfl rfl rfl)

theorem resumedEvents_orderly (s : State) : R s { s with evd := { s.evd with resumed := true } } :=
  h.records rfl rfl rfl rfl fun _ c held => ⟨c, held, rfl⟩

theorem warmResume_orderly (s : State) : R s (warmResume s) := by
  have timed : Aside s (resumeTimebase { s with spm := s.spm.running }) := by
    unfold resumeTimebase
    split
    · exact (changeQuality_aside _ _ _).after (spm_aside _ s)
    · exact spm_aside _ s
  have stored : ∀ x, Aside x (resumeStore x) := fun x => by
    refine Aside.after (mediumChoice_aside _) ?_
    exact Aside.of_eq rfl rfl rfl rfl
  have owed := h.then (h.andThen (timed.trans (stored _)) (deliverOwed_orderly h _))
    ((startSampling_aside _).after (announceResume_aside _))
  unfold warmResume
  dsimp only
  refine h.trans owed (h.then (resumedEvents_orderly h _) (iva_aside _ _))

theorem endQualification_orderly (s : State) : R s (endQualification s) := by
  unfold endQualification
  split
  · exact warmResume_orderly h s
  · exact h.aside (Aside.of_eq rfl rfl rfl rfl)
  · exact h.refl s

/-! ## Completions of the medium -/

theorem superviseCompletion_orderly (s : State) : R s (superviseCompletion s) := by
  unfold superviseCompletion
  split
  · exact giveUpStart_orderly h _
  · split
    · exact h.then (commit_orderly h _) (mediumChoice_aside _)
    · split
      · exact enterDormant_orderly h _
      · exact h.aside (mediumChoice_aside _)

theorem completed_orderly (s : State) : R s (completed s) := by
  have ste : Aside s (takeWaitingSte { s with evs := { s.evs with activity := .idle } }) := by
    unfold takeWaitingSte
    split
    · refine Aside.after (takeSte_aside _) ?_
      exact Aside.of_eq rfl rfl rfl rfl
    · exact Aside.of_eq rfl rfl rfl rfl
  exact h.andThen ste (superviseCompletion_orderly h _)

theorem programEnds_orderly (slot : Nat) (image : List Byte) (check : BitVec 32) (readBack : Option (List Byte)) (s : State) :
    R s (programEnds slot image check readBack s) := by
  unfold programEnds
  dsimp only
  refine h.andThen ?_ (completed_orderly h _)
  split
  · refine Aside.after (programSucceeds_aside _ _ _) ?_
    exact Aside.of_eq rfl rfl rfl rfl
  · refine Aside.after (programFails_aside _ _) ?_
    exact Aside.of_eq rfl rfl rfl rfl

/-- The end of a scan, where its restore has the relation. -/
theorem endScan_orderly (failed : Bool) (s : State)
    (restores : ∀ x : State, x.evs.recovery = s.evs.recovery → R x (restore x)) : R s (endScan failed s) := by
  have left : Aside s { s with evs := { s.evs with activity := .idle, state := stateAfterScan failed s.evs } } :=
    Aside.of_eq rfl rfl rfl rfl
  have recovered : ∀ x, R x (recoverSurvey x) := by
    intro x
    unfold recoverSurvey
    split
    · split
      · exact h.survey rfl rfl rfl rfl rfl
      · split
        · refine h.trans ?_ (concludeSurvey_orderly h _ _ _)
          exact h.survey rfl rfl rfl rfl rfl
        · exact h.refl x
    · exact h.refl x
  have restored := h.andThen (left.trans (postScanState_aside _).1) (restores _ (by rw [(postScanState_aside _).2]))
  exact h.then (h.then (h.trans restored (recovered _)) (runAfterCold_aside _)) (mediumChoice_aside _)

/-- The end of an erase that ends no scan. -/
theorem eraseEnds_completes {sector : Nat} {residue : List Host.Cell} {s : State} {x : State} (before : Aside s x)
    (form : eraseEnds sector residue s = completed x) : R s (eraseEnds sector residue s) := by
  rw [form]
  exact h.andThen before (completed_orderly h x)

theorem handOverScan_orderly (w : Walk) (s : State) : R s (handOverScan w s) := by
  have counted : R s { s with evd := { s.evd with counter := recoveredCounter s.evs.medium w.valid } } :=
    h.records rfl rfl rfl rfl fun _ c held => ⟨c, held, rfl⟩
  refine h.then counted ?_
  exact Aside.of_eq rfl rfl rfl rfl

theorem scanHanded_orderly (s : State) : R s (scanHanded s) :=
  h.andThen (scanned_aside _ _ s) (handOverScan_orderly h _ _)

end

/-! ## What a cold start found stays -/

theorem mediumChoice_recovery (s : State) : (mediumChoice s).evs.recovery = s.evs.recovery := by
  rw [(mediumChoice_chooses s).store]

theorem offer_recovery (kind : RecordKind) (payload : List Byte) (s : State) :
    (offer kind payload s).evs.recovery = s.evs.recovery := by
  rw [offer_store]

theorem concludeSurvey_recovery (cause : VerdictCause) (after : SurveyState) (s : State) :
    (concludeSurvey cause after s).evs.recovery = s.evs.recovery := by
  unfold concludeSurvey
  dsimp only
  rw [postNotice_others]
  exact offer_recovery _ _ _

theorem recoverSurvey_recovery (s : State) : (recoverSurvey s).evs.recovery = s.evs.recovery := by
  unfold recoverSurvey
  split
  · split
    · rfl
    · split
      · exact concludeSurvey_recovery _ _ _
      · rfl
  · rfl

/-- What the scan found for the restore stays through the end of the cold start. -/
theorem endScan_recovery (failed : Bool) (s : State) : (endScan failed s).evs.recovery = s.evs.recovery := by
  have announced : ∀ x, (runAfterCold (announceCold x)).evs.recovery = x.evs.recovery := by
    intro x
    unfold runAfterCold announceCold postPower
    rw [postWithReading_others]
    exact offer_recovery _ _ x
  unfold endScan finishColdStart
  dsimp only
  rw [mediumChoice_recovery, announced, recoverSurvey_recovery]
  unfold restore
  dsimp only
  rw [(postScanState_aside _).2]

end Sys2Proof.Machine
end

section
/-! The detector stays regular, the settings stay in their ranges, and the bank keeps its sizes and its order. -/

namespace Sys2Proof.Machine

/-- A relation that follows from an orderly one, and that samples and the ends of scans have, is one of every row. -/
theorem Orderly.rows {R Q : State → State → Prop} (h : Orderly R) (weaker : ∀ s t, R s t → Q s t)
    (sample : ∀ raw s, Q s (takeSample raw s))
    (scanEnds : ∀ failed s x, R s x → x.evs.recovery = s.evs.recovery → Q s (endScan failed x))
    (scanned : ∀ s, freeErase (scanHanded s).evs = none → Q s (endScan false (scanHanded s))) : Rows Q where
  refl s := weaker _ _ (h.refl s)
  sample := sample
  windowOpen s := weaker _ _ (h.aside (ich_aside _ s))
  calibrated n1 s := weaker _ _ (h.aside (ich_aside _ s))
  pulse s := weaker _ _ (takePulse_orderly h s)
  tick s := weaker _ _ (crystalTick_orderly h s)
  anchor s := weaker _ _ (h.aside (tmb_aside _ s))
  holdover s := weaker _ _ (h.aside (changeQuality_aside _ _ s))
  program slot image check readBack s _ := weaker _ _ (programEnds_orderly h slot image check readBack s)
  erase sector residue s _ := by
    obtain ⟨x, before, _, form | ⟨kept, failed, form⟩⟩ := eraseEnds_form sector residue s
    · exact weaker _ _ (eraseEnds_completes h before form)
    · rw [form]
      exact scanEnds failed s x (h.aside before) kept
  slotRead slot request s _ := weaker _ _ (h.andThen (answerRead_aside _ _ _ _ s) (completed_orderly h _))
  scan s _ := by
    rw [scanDelivered_eq]
    split
    · exact weaker _ _ (h.then (scanHanded_orderly h s) (startErase_aside _ _))
    case h_2 none => exact scanned s none
  supplyFail s := weaker _ _ (supplyFails_orderly h s)
  supplyGood found low s := weaker _ _ (supplyReturns_orderly h found low s)
  backupFail s _ := weaker _ _ (h.trans (noteBackup_orderly h _ s) (enterOff_orderly h _))
  backup i s := weaker _ _ (noteBackup_orderly h i s)
  windowEnd s _ := weaker _ _ (endWindowOfRide_orderly h s)
  qualified s _ := weaker _ _ (endQualification_orderly h s)
  badCharacter s := weaker _ _ (h.aside (hlk_aside _ s))
  goodCharacter c s := weaker _ _ (goodCharacter_orderly h c s)
  frameLate s := weaker _ _ (dropReception_orderly h s)
  eligible s := weaker _ _ (h.aside ((transmit_aside _).after (hlk_aside _ s)))
  noticeSent s := weaker _ _ (transmitterIdle_orderly h s)
  runGoesOn next rest s := weaker _ _ (h.aside (hlk_aside _ s))
  replySent s := weaker _ _ (h.trans (endReply_orderly h s) (transmitterIdle_orderly h _))
  request c fields s := weaker _ _ (request_orderly h c fields s)
  broadcast fields s := weaker _ _ (broadcastTis_orderly h fields s)

/-! ## The bank -/

/-- The bank keeps its sizes and its order, and the sector table its size. -/
structure BankKept (s t : State) : Prop where
  bank : s.tlb.Keeps t.tlb
  sectors : s.evs.sectors.length = 1024 → t.evs.sectors.length = 1024

theorem Tlb.Keeps.trans {a b c : Tlb} (h : a.Keeps b) (k : b.Keeps c) : a.Keeps c :=
  ⟨fun x => k.cells (h.cells x), fun x => k.dip (h.dip x), fun x => k.swell (h.swell x), fun x => k.pair (h.pair x),
    fun x => k.order (h.order x)⟩

theorem BankKept.sized {s t : State} (h : BankKept s t) (x : s.Sized) : t.Sized :=
  ⟨h.bank.cells x.cells, h.bank.dip x.dip, h.bank.swell x.swell, h.bank.pair x.pair, h.sectors x.sectors⟩

theorem BankKept.of_eq {s t : State} (tlb : t.tlb = s.tlb) (sectors : t.evs.sectors = s.evs.sectors) : BankKept s t :=
  ⟨by rw [tlb]; exact s.tlb.keeps_refl, fun x => by rw [sectors]; exact x⟩

theorem bankKept_orderly : Orderly BankKept where
  trans h k := ⟨h.bank.trans k.bank, fun x => k.sectors (h.sectors x)⟩
  aside h := ⟨by rw [h.tlb]; exact Tlb.keeps_refl _, h.sectors⟩
  events _ tlb evs _ := BankKept.of_eq tlb (by rw [evs])
  service _ tlb sectors _ := BankKept.of_eq tlb sectors
  bank _ _ evs keeps := ⟨keeps, fun x => by rw [evs]; exact x⟩

theorem bankKept_rows : Rows BankKept := by
  have restores : ∀ x, BankKept x (restore x) := fun x => BankKept.of_eq rfl rfl
  refine bankKept_orderly.rows (fun _ _ h => h) (fun raw s => ?_) (fun failed s x before _ => ?_) (fun s _ => ?_)
  · exact takeSample_orderly bankKept_orderly raw s fun _ _ _ _ => BankKept.of_eq rfl rfl
  · exact bankKept_orderly.trans before (endScan_orderly bankKept_orderly failed x fun y _ => restores y)
  · exact bankKept_orderly.trans (scanHanded_orderly bankKept_orderly s)
      (endScan_orderly bankKept_orderly false _ fun y _ => restores y)

/-- Settles O21: every row changes the bank by operations that keep each table's size, and what counts in a survey cell counts
in the cell that bounds it. -/
theorem everyCommandKeepsTheBankRegular : Obligations.EveryCommandKeepsTheBankRegular :=
  ⟨fun _ _ _ sized done => (bankKept_rows.exec done).sized sized, fun _ _ _ order done => (bankKept_rows.exec done).bank.order order,
    fun _ _ done =>
      have kept := bankKept_rows.step done
      ⟨fun x => kept.sized ⟨x.cells, x.dip, x.swell, x.pair, x.sectors⟩, kept.bank.order⟩⟩

/-! ## The detector -/

/-- The detector stays regular. -/
def DetectorKept (s t : State) : Prop := s.evd.Regular → t.evd.Regular

theorem detectorKept_orderly : Orderly DetectorKept where
  trans h k x := k (h x)
  aside h x := by rw [h.evd]; exact x
  events _ _ _ keeps := keeps
  service evd _ _ _ x := by rw [evd]; exact x
  bank evd _ _ _ x := by rw [evd]; exact x

/-- A phase that is not flagged unless LOW is not after a value either: what ends LOW is at or above what clears the flag
(R26, R27). -/
theorem PhaseState.after_flagged {x : PhaseState} (set : Settings) (v : Nat) (thresholds : set.tint ≤ set.tdip)
    (flagged : x.interrupted = true → x.excursion = .low) :
    (x.after set v).interrupted = true → (x.after set v).excursion = .low := by
  unfold PhaseState.after
  dsimp only
  split
  case isTrue low =>
    intro _
    simpa using (Bool.and_eq_true_iff.mp low).2
  case isFalse =>
    split
    · nofun
    case isFalse kept =>
      intro held
      unfold Excursion.after
      rw [flagged held]
      have short : ¬ set.tdip + set.hyst ≤ v := by omega
      simp only [short, if_false]

theorem phasesAfter_flagged {phases : PerPhase (Option PhaseState)} {set : Settings} (r : Report)
    (thresholds : set.tint ≤ set.tdip) (flagged : ∀ p x, phases.get p = some x → x.interrupted = true → x.excursion = .low)
    (p : Phase) (x : PhaseState) (at' : (phasesAfter phases set r).get p = some x) : x.interrupted = true → x.excursion = .low := by
  unfold phasesAfter at at'
  rw [PerPhase.build_get] at at'
  obtain ⟨v, _, rfl⟩ := Option.map_eq_some_iff.mp at'
  refine PhaseState.after_flagged set v.value thresholds ?_
  cases before : phases.get p with
  | none => nofun
  | some y => exact flagged p y before

/-- A report begins with a regular detector under an interruption threshold not above the dip threshold. -/
theorem reportBegins_regular (r : Report) (span : Nat) {s : State} (thresholds : s.svc.active.tint ≤ s.svc.active.tdip) :
    DetectorKept s (reportBegins r span s) := by
  intro x
  refine ⟨fun k c held => ?_, phasesAfter_flagged r thresholds x.flagged⟩
  cases k
  all_goals
    obtain ⟨d, was, rfl⟩ := Option.map_eq_some_iff.mp held
    exact x.kinds _ d was

theorem detectorKept_rows : Rows fun s t => s.svc.active.tint ≤ s.svc.active.tdip → DetectorKept s t := by
  have restores : ∀ x, DetectorKept x (restore x) := fun x regular => ⟨regular.kinds, normalPhases_flagged _⟩
  refine detectorKept_orderly.rows (fun _ _ h _ => h) (fun raw s thresholds => ?_) (fun failed s x before _ _ => ?_)
    (fun s _ _ => ?_)
  · refine takeSample_orderly detectorKept_orderly raw s fun r span x active => reportBegins_regular r span ?_
    rw [active]
    exact thresholds
  · exact detectorKept_orderly.trans before (endScan_orderly detectorKept_orderly failed x fun y _ => restores y)
  · exact detectorKept_orderly.trans (scanHanded_orderly detectorKept_orderly s)
      (endScan_orderly detectorKept_orderly false _ fun y _ => restores y)

/-! ## The settings -/

/-- The settings stay in their ranges. -/
def SettingsKept (s t : State) : Prop := s.svc.InRange → t.svc.InRange

theorem settingsKept_orderly : Orderly SettingsKept where
  trans h k x := k (h x)
  aside h x := by rw [h.svc]; exact x
  events svc _ _ _ x := by rw [svc]; exact x
  service _ _ _ keeps := keeps
  bank _ svc _ _ x := by rw [svc]; exact x

/-- The settings that a cold start would restore are in their ranges. -/
def Recovery.InRange (e : Recovery) : Prop :=
  ∀ (r : StoredRecord) (n : Setting), e.settings = some r → n.inRange ((settingsOfPayload r.payload).get n) = true

theorem restore_inRange {s : State} (found : s.evs.recovery.InRange) : (restore s).svc.InRange := by
  refine ⟨fun n => ?_, nofun, List.nil_sublist _⟩
  unfold restore Svc.restored
  dsimp only
  split
  case h_1 r stored => exact found r n stored
  case h_2 => exact Svc.cold_inRange.active n

theorem settingsKept_rows : Rows fun s t => t.evs.recovery.InRange → SettingsKept s t := by
  have ended : ∀ (failed : Bool) (s : State), (endScan failed s).evs.recovery.InRange → SettingsKept s (endScan failed s) := by
    intro failed s found
    rw [endScan_recovery] at found
    exact endScan_orderly settingsKept_orderly failed s fun x same _ => restore_inRange (by rw [same]; exact found)
  refine settingsKept_orderly.rows (fun _ _ h _ => h) (fun raw s _ => ?_) (fun failed s x before _ found => ?_)
    (fun s _ found => ?_)
  · exact takeSample_orderly settingsKept_orderly raw s fun _ _ _ _ x => x
  · exact settingsKept_orderly.trans before (ended failed x found)
  · exact settingsKept_orderly.trans (scanHanded_orderly settingsKept_orderly s) (ended false _ found)

/-- Settles O10: every row changes records by operations that keep their kinds, phases by R26 and R27 alone, and the settings
by values in their ranges; and what a scan found is what its end restores. -/
theorem everyCommandKeepsTheDetectorRegular : Obligations.EveryCommandKeepsTheDetectorRegular :=
  ⟨fun _ _ _ thresholds regular done => detectorKept_rows.exec done thresholds regular,
    fun _ _ thresholds regular done => detectorKept_rows.step done thresholds regular,
    fun _ _ range found done => settingsKept_rows.step done found range, fun _ x => x.thresholds⟩

end Sys2Proof.Machine
end

section
/-! The oscillator indication (O6). -/

namespace Sys2Proof.Machine

/-- The oscillator indication stays, or the sample clock is that of a cold start. -/
def OscKept (s t : State) : Prop := t.ich.osc = s.ich.osc ∨ t.ich = Ich.cold

theorem OscKept.refl (s : State) : OscKept s s := Or.inl rfl

theorem Calm.oscKept {s t : State} (h : Calm s t) : OscKept s t := Or.inl h.osc

/-- The sample clock stays as it is after an operation. -/
theorem OscKept.then {s t u : State} (h : OscKept s t) (same : u.ich = t.ich) : OscKept s u := by
  unfold OscKept
  rw [same]
  exact h

/-- The indication stays before an operation. -/
theorem OscKept.after {s t u : State} (h : OscKept t u) (same : t.ich.osc = s.ich.osc) : OscKept s u := by
  unfold OscKept
  rw [← same]
  exact h

theorem enterOff_ich (s : State) : (enterOff s).ich = Ich.cold := by
  unfold enterOff
  split <;> rfl

theorem wake_oscKept (found : Option (List Byte)) (s : State) : OscKept s (wake found s) := by
  unfold wake
  split
  · unfold warmStart
    rw [transmit_others]
    exact Or.inl rfl
  · exact Or.inr rfl

theorem enterDormant_oscKept (s : State) : OscKept s (enterDormant s) := by
  have sealed : (sealContext s).ich.osc = s.ich.osc := rfl
  unfold enterDormant
  split
  · exact Or.inr (enterOff_ich s)
  · dsimp only
    split
    · exact (wake_oscKept none _).after sealed
    · exact Or.inl sealed

theorem takeBackKept_ich (s : State) : (takeBackKept s).ich = s.ich := by
  unfold takeBackKept
  split <;> rfl

theorem returnDormant_ich (s : State) : (returnDormant s).ich = s.ich := by
  unfold returnDormant
  split
  · exact takeBackKept_ich s
  · rfl

theorem giveUpStart_oscKept (s : State) : OscKept s (giveUpStart s) := by
  unfold giveUpStart
  split
  · exact Or.inr (enterOff_ich s)
  · split
    · exact (wake_oscKept none _).after (by rw [returnDormant_ich])
    · exact Or.inl (by rw [returnDormant_ich])

theorem commit_oscKept (s : State) : OscKept s (commit s) := by
  have told : ∀ x, (postPower "COMMIT" [optText num (offeredSequence s)] (offer .pwr (dormantRecord s) x)).ich = x.ich := by
    intro x
    unfold postPower
    rw [postWithReading_others, offer_others]
  unfold commit endDrain
  split
  · exact (enterDormant_oscKept _).after (by rw [told])
  · exact Or.inl (by rw [told])

theorem mediumChoice_ich (s : State) : (mediumChoice s).ich = s.ich := by rw [(mediumChoice_chooses s).others]

theorem superviseCompletion_oscKept (s : State) : OscKept s (superviseCompletion s) := by
  unfold superviseCompletion
  split
  · exact giveUpStart_oscKept _
  · split
    · exact (commit_oscKept _).then (mediumChoice_ich _)
    · split
      · exact enterDormant_oscKept _
      · exact Or.inl (by rw [mediumChoice_ich])

theorem completed_oscKept (s : State) : OscKept s (completed s) :=
  (superviseCompletion_oscKept _).after (takeWaitingSte_calm _).osc

theorem endScan_oscKept (failed : Bool) (s : State) : OscKept s (endScan failed s) := by
  refine Or.inl ?_
  have cold : ∀ x, (finishColdStart x).ich.osc = x.ich.osc := fun x =>
    (congrArg Ich.osc (show _ = (announceCold (recoverSurvey (restore x))).ich from rfl)).trans
      (((postPower_calm _ _ _).after (offer_calm _ _ _)).osc.trans (recoverSurvey_calm _).osc)
  unfold endScan
  dsimp only
  rw [mediumChoice_ich, cold, (postScanState_calm _).osc]

theorem postPower_ich (event : String) (further : List Text) (s : State) : (postPower event further s).ich = s.ich := by
  unfold postPower
  rw [postWithReading_others]

theorem supplyFails_oscKept (s : State) : OscKept s (supplyFails s) := by
  unfold supplyFails
  split
  · unfold beginRideThrough
    exact Or.inl (by rw [postPower_ich]; rfl)
  · exact Or.inl rfl
  · split
    · exact Or.inl rfl
    · unfold abortStart
      dsimp only
      split
      · exact Or.inl rfl
      · exact Or.inl rfl
      all_goals exact (giveUpStart_oscKept _).after rfl
  all_goals exact OscKept.refl s

theorem supplyReturns_oscKept (found : Option (List Byte)) (low : Bool) (s : State) :
    OscKept s (supplyReturns found low s) := by
  unfold supplyReturns
  dsimp only
  split
  · exact Or.inl rfl
  · split
    · exact Or.inl rfl
    · unfold recover
      exact Or.inl (by rw [postPower_ich])
  · exact Or.inl rfl
  · exact (wake_oscKept _ _).after rfl
  · exact Or.inr rfl

theorem endWindowOfRide_oscKept (s : State) : OscKept s (endWindowOfRide s) := by
  unfold endWindowOfRide
  dsimp only
  split
  · exact (commit_oscKept _).after rfl
  · exact Or.inl rfl

theorem warmResume_osc (s : State) : (warmResume s).ich.osc = s.ich.osc := by
  have announced : ∀ x, (announceResume x).ich.osc = x.ich.osc := fun x =>
    ((postPower_calm _ _ _).after ((offer_calm _ _ _).after (takeReading_calm x))).osc
  calc (warmResume s).ich.osc
      = (announceResume (deliverOwed (resumeStore (resumeTimebase { s with spm := s.spm.running })))).ich.osc := rfl
    _ = s.ich.osc := by
        rw [announced, (deliverOwed_calm _).osc, (resumeStore_calm _).osc, (resumeTimebase_calm _).osc]

theorem programEnds_oscKept (slot : Nat) (image : List Byte) (check : BitVec 32) (readBack : Option (List Byte)) (s : State) :
    OscKept s (programEnds slot image check readBack s) := by
  unfold programEnds
  dsimp only
  refine (completed_oscKept _).after ?_
  split
  · exact (programSucceeds_calm _ _ _).osc
  · exact (programFails_calm _ _).osc

theorem scanDelivered_oscKept (s : State) : OscKept s (scanDelivered s) := by
  rw [scanDelivered_eq]
  split
  · exact Or.inl rfl
  · exact (endScan_oscKept _ _).after rfl

theorem oscKept_rows : OtherRows OscKept where
  refl := OscKept.refl
  sample raw s := (takeSample_calm raw s).oscKept
  windowOpen s := (openCalibration_calm s).oscKept
  pulse s := (takePulse_calm s).oscKept
  tick s := (crystalTick_calm s).oscKept
  anchor s := (expireAnchor_calm s).oscKept
  holdover s := (enterHoldover_calm s).oscKept
  program slot image check readBack s _ := programEnds_oscKept slot image check readBack s
  erase sector residue s _ := by
    obtain ⟨x, _, same, form | ⟨_, failed, form⟩⟩ := eraseEnds_form sector residue s
    · rw [form]
      exact (completed_oscKept x).after same
    · rw [form]
      exact (endScan_oscKept failed x).after same
  slotRead _ _ s _ := (completed_oscKept _).after (answerRead_calm _ _ _ _ s).osc
  scan s _ := scanDelivered_oscKept s
  supplyFail := supplyFails_oscKept
  supplyGood := supplyReturns_oscKept
  backupFail s _ := Or.inr (enterOff_ich _)
  backup _ _ := Or.inl rfl
  windowEnd s _ := endWindowOfRide_oscKept s
  qualified s _ := by
    unfold endQualification
    split
    · exact Or.inl (warmResume_osc s)
    all_goals exact Or.inl rfl
  badCharacter s := (badCharacter_calm s).oscKept
  goodCharacter c s := (goodCharacter_calm c s).oscKept
  frameLate s := (dropReception_calm s).oscKept
  eligible s := (makeEligible_calm s).oscKept
  noticeSent s := (transmitterIdle_calm s).oscKept
  runGoesOn _ _ _ := Or.inl rfl
  replySent s := ((transmitterIdle_calm _).after (endReply_calm s)).oscKept
  request c fields s := (request_calm c fields s).oscKept
  broadcast fields s := (broadcastTis_calm fields s).oscKept

/-- Settles O6. -/
theorem onlyCalibrationsAndColdStartsMoveOsc : Obligations.OnlyCalibrationsAndColdStartsMoveOsc := by
  intro i s t done moved
  by_cases completes : ∃ n1, i = .calibrationComplete n1
  · exact Or.inl completes
  · exact Or.inr ((oscKept_rows.exec (fun n1 same => completes ⟨n1, same⟩) done).resolve_left moved)

end Sys2Proof.Machine
end

section
/-! A sample on the tracker and the half-cycle unit (O2). -/

namespace Sys2Proof.Machine

theorem follows_iff (s : State) (p : Phase) :
    follows s p = true ↔ wired s.svc.active.wiring p = true ∨ s.cyt.channels.get p ≠ none := by
  rw [follows, Bool.or_eq_true, Option.isSome_iff_ne_none]

theorem quarterCycle_eq (fn : NominalFrequency) : quarterCycle fn = match fn with
    | .hz50 => 96
    | .hz60 => 80 := by cases fn <;> rfl

theorem SignState.majority_iff (c : SignState) (k : SampleClass) :
    c.majority k = true ↔ 2 ≤ [c.newest, c.middle, c.oldest].count k := by
  unfold SignState.majority
  cases hn : c.newest == k <;> cases hm : c.middle == k <;> cases ho : c.oldest == k <;>
    simp [List.count_cons, hn, hm, ho]

/-- The class for which a channel asks a change: the one against its sign state (R9). -/
def Sign.asked : Sign → SampleClass
  | .neg => .positive
  | .pos => .negative

theorem SignState.asks_eq (c : SignState) : c.asks = c.majority c.sign.asked := by
  unfold SignState.asks Sign.asked
  cases c.sign <;> rfl

/-- What a sample makes of a channel's sign state (R9, R10). -/
theorem SignState.observe_fst (c : SignState) (q : Nat) (x : Int) : (c.observe q x).1 =
    if 2 ≤ [classify x, c.newest, c.middle].count c.sign.asked ∧ q ≤ c.sinceChange + 1 then
      ⟨c.sign.flip, classify x, c.newest, c.middle, 0⟩
    else ⟨c.sign, classify x, c.newest, c.middle, c.sinceChange + 1⟩ := by
  have asks : (c.shift x).asks = true ↔ 2 ≤ [classify x, c.newest, c.middle].count c.sign.asked := by
    rw [SignState.asks_eq, SignState.majority_iff]
    rfl
  unfold SignState.observe
  by_cases changes : 2 ≤ [classify x, c.newest, c.middle].count c.sign.asked ∧ q ≤ c.sinceChange + 1
  · rw [if_pos changes, if_pos (by
      rw [Bool.and_eq_true, asks, decide_eq_true_eq]
      exact changes)]
    rfl
  · rw [if_neg changes, if_neg (by
      rw [Bool.and_eq_true, asks, decide_eq_true_eq]
      exact changes)]
    rfl

theorem observeAll_fst (xs : PerPhase (Int × Bool)) (s : State) (p : Phase) (followed : follows s p = true) :
    ((observeAll xs s).get p).map Prod.fst = some (((s.cyt.channels.get p).getD
      (SignState.start (quarterCycle s.cyt.fnInUse))).observe (quarterCycle s.cyt.fnInUse) (xs.get p).1).1 := by
  rw [observeAll, PerPhase.build_get, if_pos followed]
  rfl

theorem countSample_half (xs : PerPhase (Int × Bool)) (s : State) (p : Phase) : (countSample xs s).hcu.channels.get p =
    if follows s p then
      some { (s.hcu.channels.get p).getD HcuChannel.empty with
        current := ((s.hcu.channels.get p).getD HcuChannel.empty).current.add (xs.get p) }
    else none := by
  dsimp only [countSample]
  rw [PerPhase.build_get]

theorem countSample_sign (xs : PerPhase (Int × Bool)) (s : State) (p : Phase) : (countSample xs s).cyt.channels.get p =
    ((observeAll xs s).get p).map Prod.fst := by
  dsimp only [countSample]
  rw [PerPhase.build_get]

theorem countSample_presence (xs : PerPhase (Int × Bool)) (s : State) (p : Phase) : (countSample xs s).cyt.presence.get p =
    if follows s p then some ((s.cyt.presence.get p).getD Presence.initial) else none := by
  dsimp only [countSample]
  rw [PerPhase.build_get]

/-- A sample that places no boundary is counted (R3, R16). -/
theorem exec_sample_unplaced {s : State} {r1 r2 r3 : BitVec 16} (on : sampling s = true) (none' : s.places r1 r2 r3 = none) :
    exec (.sample r1 r2 r3) s = .next (s.counted r1 r2 r3) := by
  show Host.Outcome.next (if sampling s then takeSample ⟨r1, r2, r3⟩ s else s) = _
  rw [if_pos on]
  unfold State.places State.counted State.change at none'
  unfold takeSample
  simp only [none']
  rfl

/-- Settles O2. -/
theorem sampleJoinsTheCurrentHalves : Obligations.SampleJoinsTheCurrentHalves := by
  intro s r1 r2 r3 on
  refine ⟨exec_sample_unplaced on, rfl, rfl, rfl, ?_, fun p => ?_⟩
  · show s.cyt.progress.next = _
    cases s.cyt.progress <;> rfl
  · split
    case isTrue followed =>
      have f := (follows_iff s p).mpr followed
      refine ⟨(countSample_half _ s p).trans (if_pos f), (countSample_sign _ s p).trans ?_,
        (countSample_presence _ s p).trans (if_pos f)⟩
      rw [observeAll_fst _ s p f, SignState.observe_fst, quarterCycle_eq]
      rfl
    case isFalse unfollowed =>
      have f : ¬ follows s p = true := fun x => unfollowed ((follows_iff s p).mp x)
      refine ⟨(countSample_half _ s p).trans (if_neg f), (countSample_sign _ s p).trans ?_,
        (countSample_presence _ s p).trans (if_neg f)⟩
      rw [observeAll, PerPhase.build_get, if_neg f]
      rfl

end Sys2Proof.Machine
end

section
/-! What notices, record offers and time steps leave: the link, the reading, the store and the receivers of a step's signal. -/

namespace Sys2Proof.Machine

/-! ## The link across notices -/

/-- What an operation that answers nothing keeps of the link: all but the transmitter, the notices and the link marks. -/
structure LinkSteady (s t : State) : Prop where
  settings : t.hlk.settings = s.hlk.settings
  configMark : t.hlk.configMark = s.hlk.configMark
  adoption : t.hlk.adoption = s.hlk.adoption
  buffer : t.hlk.buffer = s.hlk.buffer
  reception : t.hlk.reception = s.hlk.reception
  inProgress : t.hlk.inProgress = s.hlk.inProgress
  reply : s.hlk.reply = none → t.hlk.reply = none

theorem LinkSteady.of_eq {s t : State} (same : t.hlk = s.hlk) : LinkSteady s t := by
  constructor
  all_goals rw [same]
  exact id

theorem LinkSteady.trans {s t u : State} (h : LinkSteady s t) (k : LinkSteady t u) : LinkSteady s u :=
  ⟨k.settings.trans h.settings, k.configMark.trans h.configMark, k.adoption.trans h.adoption, k.buffer.trans h.buffer,
    k.reception.trans h.reception, k.inProgress.trans h.inProgress, fun x => k.reply (h.reply x)⟩

theorem transmit_reply_none {s : State} (empty : s.hlk.reply = none) : (transmit s).hlk.reply = none := by
  unfold transmit
  split
  · rw [empty]
    unfold startNotice
    dsimp only
    split <;> exact empty
  · exact empty

theorem postNotice_steady (kind : NoticeKind) (fields : List Text) (s : State) : LinkSteady s (postNotice kind fields s) := by
  obtain ⟨settings, configMark, adoption, buffer, reception, inProgress⟩ := postNotice_link kind fields s
  refine ⟨settings, configMark, adoption, buffer, reception, inProgress, fun empty => ?_⟩
  unfold postNotice
  split
  · exact empty
  · split
    · exact transmit_reply_none empty
    · exact empty

theorem postWithReading_steady (kind : NoticeKind) (fields : Time → List Text) (s : State) :
    LinkSteady s (postWithReading kind fields s) :=
  LinkSteady.trans (t := takeReading s) (LinkSteady.of_eq rfl) (postNotice_steady kind (fields (reading s)) (takeReading s))

theorem postWithReading_posts (kind : NoticeKind) (fields : Time → List Text) (s : State) :
    Posts s (postWithReading kind fields s) [⟨kind, fields (reading s)⟩] :=
  (postNotice_posts kind (fields (reading s)) (takeReading s)).of_links rfl rfl

/-- Notices of one operation and then of another that keeps the link settings. -/
theorem Posts.andThen {s t u : State} {first second : List Notice} (h : Posts s t first) (k : Posts t u second)
    (steady : LinkSteady t u) : Posts s u (first ++ second) := h.trans k steady.settings

/-- An operation before that leaves the link as it was. -/
theorem Posts.before {s t u : State} {posted : List Notice} (same : t.hlk = s.hlk) (k : Posts t u posted) : Posts s u posted :=
  k.of_links same.symm rfl

/-- What answering keeps of the link. -/
theorem answer_link (status : Status) (fields : List Text) (s : State) :
    (answer status fields s).hlk.settings = s.hlk.settings ∧ (answer status fields s).hlk.configMark = s.hlk.configMark ∧
      (answer status fields s).hlk.adoption = s.hlk.adoption ∧ (answer status fields s).hlk.buffer = s.hlk.buffer ∧
      (answer status fields s).hlk.reception = s.hlk.reception := by
  unfold answer
  split
  · obtain ⟨settings, configMark, adoption, buffer, reception, _⟩ := transmit_link { s with hlk := { s.hlk with
      inProgress := none
      reply := some ⟨_, status, fields, s.tmb.tick, delayTicks s.hlk.settings.delay, false, none⟩ } }
    exact ⟨settings, configMark, adoption, buffer, reception⟩
  · exact ⟨rfl, rfl, rfl, rfl, rfl⟩

/-! ## The medium's choice posts nothing -/

theorem startProgram_hlk (s : State) : (startProgram s).hlk = s.hlk := by
  unfold startProgram
  split
  · rfl
  · dsimp only
    split <;> rfl

/-- Answering on a link as it was posts nothing. -/
theorem answered_posts {s u : State} (same : u.hlk = s.hlk) (status : Status) (fields : List Text) :
    Posts s (answer status fields u) [] := (answer_posts status fields u).of_links same.symm rfl

theorem startRead_posts (request : ReadRequest) (s : State) : Posts s (startRead request s) [] := by
  have read : ∀ image place mark, Posts s (answerRead request image place mark
      { s with evs := { s.evs with waitingRead := none } }) [] := by
    intro image place mark
    unfold answerRead
    refine answered_posts ?_ _ _
    rfl
  have refused : Posts s (answerUnavailable { s with evs := { s.evs with waitingRead := none } }) [] := by
    refine answered_posts ?_ _ _
    rfl
  unfold startRead
  dsimp only
  split
  · exact Posts.of_same rfl rfl rfl
  · split
    · exact (read _ _ _).of_links rfl (startProgram_hlk _)
    · exact read _ _ _
  · split
    · exact refused.of_links rfl (startProgram_hlk _)
    · exact refused

theorem startRead_settings (request : ReadRequest) (s : State) : (startRead request s).hlk.settings = s.hlk.settings := by
  unfold startRead
  dsimp only
  split
  · rfl
  · split
    · rw [startProgram_hlk]
      exact answer_settings _ _ _
    · exact answer_settings _ _ _
  · split
    · rw [startProgram_hlk]
      exact answer_settings _ _ _
    · exact answer_settings _ _ _

/-- The choice of the medium's next operation posts nothing and keeps the link settings. -/
theorem mediumChoice_posts (s : State) : Posts s (mediumChoice s) [] ∧ (mediumChoice s).hlk.settings = s.hlk.settings := by
  have same : ∀ t : State, t.hlk = s.hlk → Posts s t [] ∧ t.hlk.settings = s.hlk.settings := fun t h =>
    ⟨(Posts.refl s).of_links rfl h, by rw [h]⟩
  have ordinary : Posts s (ordinaryChoice s) [] ∧ (ordinaryChoice s).hlk.settings = s.hlk.settings := by
    unfold ordinaryChoice
    split
    · exact same _ rfl
    · exact ⟨startRead_posts _ s, startRead_settings _ s⟩
    · split
      · exact same _ (startProgram_hlk s)
      · exact same _ rfl
    · split
      · exact same _ (startProgram_hlk s)
      · exact ⟨startRead_posts _ s, startRead_settings _ s⟩
    · split
      · exact same _ (startProgram_hlk s)
      · exact same _ rfl
  unfold mediumChoice
  split
  · exact same _ rfl
  · split
    · exact same _ rfl
    · unfold eraseAllChoice
      split
      · exact same _ (startProgram_hlk s)
      · split
        · exact same _ rfl
        · exact same _ rfl
    all_goals exact ordinary

/-! ## Records offered -/

theorem dropRecord_counts (s : State) : (dropRecord s).evs.pwq = s.evs.pwq ∧
    (dropRecord s).evs.gapCount = min 65535 (s.evs.gapCount + 1) := ⟨rfl, Nat.min_comm _ _⟩

/-- A record offered takes a reading where it is taken. -/
theorem offer_tmb (kind : RecordKind) (payload : List Byte) (s : State) :
    (offer kind payload s).tmb = if recordTaken s then s.tmb.afterReading else s.tmb := by
  unfold offer
  split
  · unfold takeRecord
    rw [(mediumChoice_chooses _).others]
    rfl
  · rfl

theorem offer_posts (kind : RecordKind) (payload : List Byte) (s : State) :
    Posts s (offer kind payload s) [] ∧ (offer kind payload s).hlk.settings = s.hlk.settings := by
  unfold offer
  split
  · unfold takeRecord
    obtain ⟨posts, settings⟩ := mediumChoice_posts { takeReading s with evs := { s.evs with
      pwq := s.evs.pwq ++ [completeRecord kind payload (reading s) s.tmb.quality s]
      lastIssued := some (completeRecord kind payload (reading s) s.tmb.quality s).sequence
      gapCount := 0
      mode := if 24 ≤ s.evs.pwq.length + 1 then .drain else s.evs.mode } }
    exact ⟨posts.of_links rfl rfl, settings⟩
  · exact ⟨Posts.of_same rfl rfl rfl, rfl⟩

section
variable (payload : List Byte) (time : Time) (quality : Quality) (s : State)

theorem offerTimeRecord_posts : Posts s (offerTimeRecord payload time quality s) [] ∧
    (offerTimeRecord payload time quality s).hlk.settings = s.hlk.settings := by
  unfold offerTimeRecord
  split
  · unfold takeRecord
    obtain ⟨posts, settings⟩ := mediumChoice_posts { s with evs := { s.evs with
      pwq := s.evs.pwq ++ [completeRecord .tim payload time quality s]
      lastIssued := some (completeRecord .tim payload time quality s).sequence
      gapCount := 0
      mode := if 24 ≤ s.evs.pwq.length + 1 then .drain else s.evs.mode } }
    exact ⟨posts.of_links rfl rfl, settings⟩
  · exact ⟨Posts.of_same rfl rfl rfl, rfl⟩

theorem offerTimeRecord_quiet (quiet : s.evs.waitingRead = none) :
    (offerTimeRecord payload time quality s).hlk = s.hlk := by
  unfold offerTimeRecord
  split
  · unfold takeRecord
    exact (mediumChoice_quiet (by exact quiet)).1
  · rfl

theorem offerTimeRecord_medium : (offerTimeRecord payload time quality s).evs.medium = s.evs.medium :=
  (offerTimeRecord_calm payload time quality s).medium

/-- A time record taken stands at the end of the queue (R131, R142). -/
theorem offerTimeRecord_taken (takes : recordTaken s = true) : (offerTimeRecord payload time quality s).evs.pwq =
    s.evs.pwq ++ [completeRecord .tim payload time quality s] := by
  unfold offerTimeRecord
  rw [if_pos takes]
  unfold takeRecord
  rw [(mediumChoice_chooses _).store]

theorem offerTimeRecord_dropped (drops : recordTaken s = false) : offerTimeRecord payload time quality s = dropRecord s := by
  unfold offerTimeRecord
  rw [if_neg (by simp [drops])]

end

/-! ## The clock after a reading -/

/-- A reading given is the last one, held where the clock lies behind it (R123). -/
theorem Tmb.afterReading_eq (t : Tmb) :
    t.afterReading = { t with lastReading := some t.handedOut, held := t.held && t.formed.lt t.handedOut } := by
  rw [Tmb.afterReading_only, Tmb.afterReading_lastReading, Tmb.afterReading_held]

/-- A clock that is not held gives the time it forms. -/
theorem Tmb.handedOut_free {t : Tmb} (free : t.held = false) : t.handedOut = t.formed := by
  unfold Tmb.handedOut
  split
  · rw [if_neg (by simp [free])]
  · rfl

theorem Tmb.afterReading_free {t : Tmb} (free : t.held = false) : t.afterReading = { t with lastReading := some t.formed } := by
  rw [Tmb.afterReading_eq, Tmb.handedOut_free free, free]
  rfl

/-! ## A change of quality (R125, R136) -/

theorem postQuality_others (before : Quality) (cause : QualityCause) (s : State) : postQuality before cause s =
    { s with tmb := (postQuality before cause s).tmb, hlk := (postQuality before cause s).hlk } := by
  unfold postQuality
  split
  · rfl
  · rw [postWithReading_others]

/-- The notice of a quality that is another than before. -/
def qualityNotices (before after : Quality) (cause : QualityCause) (time : Time) : List Notice :=
  if after = before then [] else [⟨.tqn, [before.text, after.text, cause.text, timeText time]⟩]

theorem postQuality_posts (before : Quality) (cause : QualityCause) (s : State) :
    Posts s (postQuality before cause s) (qualityNotices before s.tmb.quality cause (reading s)) := by
  unfold postQuality qualityNotices
  split
  · exact Posts.refl s
  · exact postWithReading_posts _ _ s

theorem postQuality_steady (before : Quality) (cause : QualityCause) (s : State) :
    LinkSteady s (postQuality before cause s) := by
  unfold postQuality
  split
  · exact LinkSteady.of_eq rfl
  · exact postWithReading_steady _ _ s

theorem postQuality_tmb (before : Quality) (cause : QualityCause) (s : State) :
    (postQuality before cause s).tmb = if s.tmb.quality = before then s.tmb else s.tmb.afterReading := by
  unfold postQuality
  split
  · rfl
  · rw [postWithReading_others]

/-! ## A time step (R131) -/

/-- The state with its clock set and the new time given, before the step is reported. -/
def clockSet (seconds sub : Nat) (after : Quality) (s : State) : State :=
  { s with tmb := { s.tmb with
      seconds := seconds
      sub := sub
      held := false
      run := []
      quality := after
      lastReading := some ⟨seconds, subToMs sub⟩ } }

/-- The step that a change of the clock reports. -/
def stepOf (cause : StepCause) (seconds sub : Nat) (after : Quality) (errors : List Int) (s : State) : OwedStep :=
  ⟨timePayload cause s.tmb.formed ⟨seconds, subToMs sub⟩ s.tmb.quality after s.tmb.tick errors, ⟨seconds, subToMs sub⟩, after⟩

section
variable (cause : StepCause) (seconds sub : Nat) (after : Quality) (errors : List Int) (s : State)

theorem timeStep_eq : timeStep cause seconds sub after errors s =
    postQuality s.tmb.quality cause.qualityCause (reportStep (stepOf cause seconds sub after errors s)
      (clockSet seconds sub after s)) := by
  have given : takeReading { s with tmb := { s.tmb with
      seconds := seconds, sub := sub, held := false, run := [], quality := after } } = clockSet seconds sub after s := by
    unfold takeReading clockSet
    rw [Tmb.afterReading_free rfl]
    rfl
  unfold timeStep
  dsimp only
  rw [given]
  rfl

theorem deliverStep_tmb (step : OwedStep) (s : State) : (deliverStep step s).tmb = s.tmb := by rw [deliverStep_others]

theorem deliverStep_posts (step : OwedStep) (s : State) :
    Posts s (deliverStep step s) [] ∧ (deliverStep step s).hlk.settings = s.hlk.settings := by
  obtain ⟨posts, settings⟩ := offerTimeRecord_posts step.payload step.time step.quality s
  have link : (deliverStep step s).hlk = (offerTimeRecord step.payload step.time step.quality s).hlk := by
    unfold deliverStep
    rw [signalStep_others]
  exact ⟨posts.of_links rfl link, by rw [link, settings]⟩

theorem deliverStep_quiet (step : OwedStep) {s : State} (quiet : s.evs.waitingRead = none) : (deliverStep step s).hlk = s.hlk := by
  unfold deliverStep
  rw [signalStep_others]
  exact offerTimeRecord_quiet _ _ _ s quiet

/-- The step reported, and the timebase as it leaves it. -/
theorem reportStep_tmb (step : OwedStep) (s : State) :
    (reportStep step s).tmb = { s.tmb with owed := if blocksRun s = true then s.tmb.owed else some step } := by
  unfold reportStep
  split
  · rw [deliverStep_tmb]
  · rfl

theorem reportStep_posts (step : OwedStep) (s : State) :
    Posts s (reportStep step s) [] ∧ (reportStep step s).hlk.settings = s.hlk.settings := by
  unfold reportStep
  split
  · exact deliverStep_posts step s
  · exact ⟨Posts.of_same rfl rfl rfl, rfl⟩

/-- The timebase after a step: the new time, which is the last reading given. -/
theorem timeStep_tmb : (timeStep cause seconds sub after errors s).tmb = { s.tmb with
    seconds := seconds
    sub := sub
    held := false
    run := []
    quality := after
    lastReading := some ⟨seconds, subToMs sub⟩
    owed := if blocksRun s = true then s.tmb.owed else some (stepOf cause seconds sub after errors s) } := by
  rw [timeStep_eq, postQuality_tmb, reportStep_tmb]
  have still : ∀ t : Tmb, t.held = false → t.lastReading = some t.formed → t.afterReading = t := by
    intro t free given
    rw [Tmb.afterReading_free free, ← given]
  rw [still _ rfl rfl, ite_self]
  rfl

theorem timeStep_others : timeStep cause seconds sub after errors s = { s with
    tmb := (timeStep cause seconds sub after errors s).tmb
    evs := (timeStep cause seconds sub after errors s).evs
    evd := (timeStep cause seconds sub after errors s).evd
    iva := (timeStep cause seconds sub after errors s).iva
    hlk := (timeStep cause seconds sub after errors s).hlk } := by
  rw [timeStep_eq, postQuality_others]
  unfold reportStep
  split
  · rw [deliverStep_others]
    rfl
  · rfl

/-- A step posts the change of quality, with the new time. -/
theorem timeStep_posts : Posts s (timeStep cause seconds sub after errors s)
    (qualityNotices s.tmb.quality after cause.qualityCause ⟨seconds, subToMs sub⟩) := by
  rw [timeStep_eq]
  have reported := (reportStep_posts (stepOf cause seconds sub after errors s) (clockSet seconds sub after s)).1
  have told := postQuality_posts s.tmb.quality cause.qualityCause
    (reportStep (stepOf cause seconds sub after errors s) (clockSet seconds sub after s))
  have time : reading (reportStep (stepOf cause seconds sub after errors s) (clockSet seconds sub after s)) =
      ⟨seconds, subToMs sub⟩ := by
    unfold reading
    rw [reportStep_tmb]
    exact Tmb.handedOut_free rfl
  have quality : (reportStep (stepOf cause seconds sub after errors s) (clockSet seconds sub after s)).tmb.quality = after := by
    rw [reportStep_tmb]
    rfl
  rw [time, quality] at told
  exact (reported.andThen told (postQuality_steady _ _ _)).of_links rfl rfl

theorem timeStep_settings : (timeStep cause seconds sub after errors s).hlk.settings = s.hlk.settings := by
  rw [timeStep_eq, (postQuality_steady _ _ _).settings, (reportStep_posts _ _).2]
  rfl

/-- With no read waiting a step answers nothing. -/
theorem timeStep_steady (quiet : s.evs.waitingRead = none) : LinkSteady s (timeStep cause seconds sub after errors s) := by
  have reported : (reportStep (stepOf cause seconds sub after errors s) (clockSet seconds sub after s)).hlk = s.hlk := by
    unfold reportStep
    split
    · exact deliverStep_quiet _ (by exact quiet)
    · rfl
  rw [timeStep_eq]
  exact (LinkSteady.of_eq reported).trans (postQuality_steady _ _ _)

/-- Where the blocks run the receivers of the step's signal are those that the signal leaves (R45, R73). -/
theorem timeStep_signals (run : blocksRun s = true) : (timeStep cause seconds sub after errors s).evd = (signalStep s).evd ∧
    (timeStep cause seconds sub after errors s).iva = (signalStep s).iva := by
  rw [timeStep_eq, postQuality_others]
  have on : blocksRun (clockSet seconds sub after s) = true := run
  unfold reportStep
  rw [if_pos on]
  unfold deliverStep
  rw [offerTimeRecord_others]
  have measures : ∀ x : State, (signalStep x).evd = (if x.svc.measuring then { x.evd with
      dip := x.evd.dip.map Context.withTimeStep
      swell := x.evd.swell.map Context.withTimeStep
      interruption := x.evd.interruption.map Context.withTimeStep } else x.evd) ∧
      (signalStep x).iva = (if x.svc.measuring then { x.iva with
        interval := x.iva.interval.map (fun i => { i with marks := { i.marks with timeStep := true } })
        period := x.iva.period.map (fun p => { p with reasons := { p.reasons with timeStep := true } })
        pendingStep := true } else x.iva) := by
    intro x
    unfold signalStep
    split <;> exact ⟨rfl, rfl⟩
  rw [(measures _).1, (measures _).2, (measures s).1, (measures s).2]
  exact ⟨rfl, rfl⟩

/-- Where the blocks run the step's record is offered (R131). -/
theorem timeStep_evs (run : blocksRun s = true) : (timeStep cause seconds sub after errors s).evs =
    (offerTimeRecord (stepOf cause seconds sub after errors s).payload ⟨seconds, subToMs sub⟩ after
      (clockSet seconds sub after s)).evs := by
  rw [timeStep_eq, postQuality_others]
  have on : blocksRun (clockSet seconds sub after s) = true := run
  unfold reportStep
  rw [if_pos on]
  unfold deliverStep
  rw [signalStep_others]
  rfl

/-- Where they do not, the store and the receivers are as they were, and the step is owed (R178, log entry 18). -/
theorem timeStep_owes (waits : blocksRun s ≠ true) : (timeStep cause seconds sub after errors s).evs = s.evs ∧
    (timeStep cause seconds sub after errors s).evd = s.evd ∧ (timeStep cause seconds sub after errors s).iva = s.iva := by
  rw [timeStep_eq, postQuality_others]
  have off : ¬ blocksRun (clockSet seconds sub after s) = true := waits
  unfold reportStep
  rw [if_neg off]
  exact ⟨rfl, rfl, rfl⟩

end

/-! ## The signal of a step (R45, R73) -/

/-- While MEASURING a step marks what is in progress. -/
theorem signalStep_measuring {s : State} (on : s.svc.measuring = true) : (signalStep s).evd.counter = s.evd.counter ∧
    (signalStep s).iva = { s.iva with
      interval := s.iva.interval.map (fun j => { j with marks := { j.marks with timeStep := true } })
      period := s.iva.period.map (fun d => { d with reasons := { d.reasons with timeStep := true } })
      pendingStep := true } ∧
    ∀ kind, (signalStep s).evd.context kind =
      (s.evd.context kind).map (fun c => { c with marks := { c.marks with timeStep := true } }) := by
  unfold signalStep
  rw [if_pos on]
  exact ⟨rfl, rfl, fun kind => by cases kind <;> rfl⟩

end Sys2Proof.Machine
end

section
/-! Surveys armed (O31). -/

namespace Sys2Proof.Machine

/-- A number is written in digits, so it is no word. -/
theorem num_ne_now (n : Nat) : num n ≠ "NOW".toList := by
  intro same
  have digits := (num_spells n).2.1
  rw [same] at digits
  exact absurd digits (by decide)

theorem readSvsFields_second (start days : Nat) : readSvsFields [num start, num days] = some (.second start, days) := by
  simp only [readSvsFields, readNat_num, num_ne_now, Option.bind_some, if_false, Option.map_some]

theorem readSvsFields_now (days : Nat) : readSvsFields ["NOW".toList, num days] = some (.now, days) := by
  simp only [readSvsFields, readNat_num, Option.bind_some, if_true]

/-- Fields of another form are not read. -/
theorem readSvsFields_other {fields : List Text}
    (other : ∀ start days, fields = [start, days] → readNat days = none ∨ start ≠ "NOW".toList ∧ readNat start = none) :
    readSvsFields fields = none := by
  unfold readSvsFields
  split
  case h_1 start days =>
    rcases other start days rfl with bad | ⟨word, bad⟩
    · rw [bad]
      rfl
    · rw [bad]
      cases readNat days with
      | none => rfl
      | some d => simp only [Option.bind_some, word, if_false, Option.map_none]
  case h_2 => rfl

theorem svsForbidden_iff (s : State) : svsForbidden s = true ↔ s.svc.survey.state ≠ .idle ∨ s.svc.measuring = false ∨
    s.tmb.quality = .unset ∨ ∃ nv ∈ s.svc.staged, nv.1.locked = true := by
  unfold svsForbidden
  rw [Bool.or_eq_true, Bool.or_eq_true, Bool.or_eq_true, bne_iff_ne, Bool.not_eq_true', beq_iff_eq, List.any_eq_true,
    or_assoc, or_assoc]

/-- A start, a number of days or an end outside its range (R107). -/
abbrev svsOut (start days : Nat) : Prop :=
  4294967295 < start ∨ days < 1 ∨ 35 < days ∨ 4294966800 < (start + 599) / 600 * 600 + days * 86400

/-- What SVS with a start and days in the form leaves, in the order of its checks (R107). -/
theorem exec_svs {s : State} {fields : List Text} {start : RequestedStart} {days : Nat} (free : s.LinkFree)
    (wf : wellFormedFields fields = true) (form : readSvsFields fields = some (start, days)) :
    ∃ t, exec (.svs fields) s = .next t ∧
      (svsOut (start.seconds s) days → AnsweredOnly s t .svs .rng []) ∧
      (¬ svsOut (start.seconds s) days → svsForbidden s = true → AnsweredOnly s t .svs .stt []) ∧
      (¬ svsOut (start.seconds s) days → svsForbidden s ≠ true → t = armSurvey start days (taken .svs s)) := by
  refine ⟨_, exec_taken (i := .svs fields) rfl free wf, ?_⟩
  have seconds : start.seconds (taken .svs s) = start.seconds s := by cases start <;> rfl
  have forbidden : svsForbidden (taken .svs s) = svsForbidden s := rfl
  have runs : runCommand .svs fields (taken .svs s) = if svsOut (start.seconds s) days then answer .rng [] (taken .svs s)
      else if svsForbidden s = true then answer .stt [] (taken .svs s) else armSurvey start days (taken .svs s) := by
    show runSvs fields _ = _
    unfold runSvs
    rw [form]
    dsimp only
    rw [seconds, forbidden]
    rfl
  rw [runs]
  refine ⟨fun out => ?_, fun within no => ?_, fun within yes => ?_⟩
  · rw [if_pos out]
    exact answer_only _ _ free.inProgress
  · rw [if_neg within, if_pos no]
    exact answer_only _ _ free.inProgress
  · rw [if_neg within, if_neg yes]

/-- The state with the survey armed, before its reply (R107). -/
def surveyArmed (start : RequestedStart) (days : Nat) (s : State) : State :=
  { start.taken s with svc := { s.svc with survey := { s.svc.survey with
      state := .armed
      requestedStart := some (start.seconds s)
      armedMark := some (markAtOrAfter (start.seconds s))
      days := some days } } }

theorem armSurvey_eq (start : RequestedStart) (days : Nat) (s : State) : armSurvey start days s =
    answer .ok [num (start.seconds s), num (markAtOrAfter (start.seconds s)), num days] (surveyArmed start days s) := by
  cases start <;> rfl

/-- Settles O31. -/
theorem svsArmsTheSurvey : Obligations.SvsArmsTheSurvey := by
  refine ⟨fun s start days free wf => ?_, fun s days free wf => ?_, fun s fields free wf other => ?_⟩
  · obtain ⟨t, done, out, no, yes⟩ := exec_svs free wf (readSvsFields_second start days)
    refine ⟨t, done, ?_⟩
    dsimp only
    split
    case isTrue beyond => exact out beyond
    case isFalse within =>
      split
      case isTrue refused => exact no within ((svsForbidden_iff s).mpr refused)
      case isFalse allowed =>
        rw [yes within fun x => allowed ((svsForbidden_iff s).mp x)]
        rw [armSurvey_eq]
        exact answer_after (u := surveyArmed (.second start) days (taken .svs s)) free rfl _ _
  · obtain ⟨t, done, out, no, yes⟩ := exec_svs free wf (readSvsFields_now days)
    refine ⟨t, done, ?_⟩
    dsimp only
    split
    case isTrue beyond => exact out beyond
    case isFalse within =>
      split
      case isTrue refused => exact no within ((svsForbidden_iff s).mpr refused)
      case isFalse allowed =>
        rw [yes within fun x => allowed ((svsForbidden_iff s).mp x)]
        rw [armSurvey_eq]
        obtain ⟨answered, kept, others⟩ := answer_after (u := surveyArmed .now days (taken .svs s)) free rfl .ok
          [num (reading s).seconds, num (markAtOrAfter (reading s).seconds), num days]
        refine ⟨answered, kept, others.trans ?_⟩
        dsimp only [surveyArmed, RequestedStart.taken, takeReading, taken]
        rw [Tmb.afterReading_eq]
        rfl
  · have runs : runCommand .svs fields (taken .svs s) = answer .syn [] (taken .svs s) := by
      show runSvs fields _ = _
      unfold runSvs
      rw [readSvsFields_other other]
    exact exec_answers (i := .svs fields) rfl free wf runs

end Sys2Proof.Machine
end

section
/-! TIS (O36). -/

namespace Sys2Proof.Machine

/-- What a step of the clock leaves beside the link, where the blocks run: the timebase, the store with the step's record, and
the receivers of its signal. -/
structure Stepped (s t : State) (cause : StepCause) (seconds ms sub : Nat) (after : Quality) (errors : List Int) : Prop where
  timebase : t.tmb = { s.tmb with
    seconds := seconds
    sub := sub
    held := false
    run := []
    quality := after
    lastReading := some ⟨seconds, ms⟩ }
  others : t = { s with tmb := t.tmb, evs := t.evs, evd := t.evd, iva := t.iva, hlk := t.hlk }
  medium : t.evs.medium = s.evs.medium
  taken : recordTaken s = true → ∃ x, t.evs.pwq = s.evs.pwq ++ [x] ∧ x.kind = .tim ∧ x.sequence = nextSequence s.evs ∧
    x.time = ⟨seconds, ms⟩ ∧ x.quality = after ∧
    x.payload = timePayload cause s.tmb.formed ⟨seconds, ms⟩ s.tmb.quality after s.tmb.tick errors
  dropped : recordTaken s = false → t.evs.pwq = s.evs.pwq ∧ t.evs.gapCount = min 65535 (s.evs.gapCount + 1)
  stopped : s.svc.measuring = false → t.evd = s.evd ∧ t.iva = s.iva
  measuring : s.svc.measuring = true → t.evd.counter = s.evd.counter ∧
    t.iva = { s.iva with
      interval := s.iva.interval.map (fun j => { j with marks := { j.marks with timeStep := true } })
      period := s.iva.period.map (fun d => { d with reasons := { d.reasons with timeStep := true } })
      pendingStep := true } ∧
    ∀ kind, t.evd.context kind = (s.evd.context kind).map (fun c => { c with marks := { c.marks with timeStep := true } })

theorem timeStep_stepped (cause : StepCause) (seconds sub : Nat) (after : Quality) (errors : List Int) {s : State}
    (run : blocksRun s = true) :
    Stepped s (timeStep cause seconds sub after errors s) cause seconds (subToMs sub) sub after errors := by
  have records := timeStep_evs cause seconds sub after errors s run
  obtain ⟨events, intervals⟩ := timeStep_signals cause seconds sub after errors s run
  refine ⟨?_, timeStep_others _ _ _ _ _ s, ?_, fun takes => ?_, fun drops => ?_, fun off => ?_, fun on => ?_⟩
  · rw [timeStep_tmb, if_pos run]
  · rw [records, offerTimeRecord_medium]
    rfl
  · rw [records, offerTimeRecord_taken _ _ _ _ (by exact takes)]
    exact ⟨_, rfl, rfl, rfl, rfl, rfl, rfl⟩
  · rw [records, offerTimeRecord_dropped _ _ _ _ (by exact drops)]
    exact dropRecord_counts _
  · rw [events, intervals, signalStep_stopped off]
    exact ⟨rfl, rfl⟩
  · rw [events, intervals]
    exact signalStep_measuring on

/-- The link beside, on both sides. -/
theorem Stepped.relink {s u t v : State} {cause : StepCause} {seconds ms sub : Nat} {after : Quality} {errors : List Int}
    (h : Stepped u t cause seconds ms sub after errors) (before : u = { s with hlk := u.hlk })
    (link : v = { t with hlk := v.hlk }) : Stepped s v cause seconds ms sub after errors := by
  obtain ⟨l, rfl⟩ : ∃ l, u = { s with hlk := l } := ⟨_, before⟩
  obtain ⟨m, rfl⟩ : ∃ m, v = { t with hlk := m } := ⟨_, link⟩
  exact ⟨h.timebase, congrArg (fun x : State => { x with hlk := m }) h.others, h.medium, h.taken, h.dropped, h.stopped,
    h.measuring⟩

/-- A millisecond set is the one read (R133, section 6.1). -/
theorem subToMs_msToSub {ms : Nat} (_ : ms ≤ 999) : subToMs (msToSub ms) = ms := by
  unfold subToMs msToSub
  omega

theorem readTisFields_none_iff (fields : List Text) :
    readTisFields fields = none ↔ fields = [] ∨ 2 < fields.length ∨ ∃ f ∈ fields, readNat f = none := by
  match fields with
  | [] => simp [readTisFields]
  | [a] => simp [readTisFields]
  | [a, b] => cases ha : readNat a <;> cases hb : readNat b <;> simp [readTisFields, ha, hb]
  | a :: b :: c :: rest => simp [readTisFields]

theorem readTisFields_some {fields : List Text} {seconds ms : Nat} (form : readTisFields fields = some (seconds, ms)) :
    (fields[0]?.bind readNat).getD 0 = seconds ∧ (fields[1]?.bind readNat).getD 0 = ms := by
  match fields with
  | [] => cases form
  | [a] =>
    obtain ⟨n, value, same⟩ := Option.map_eq_some_iff.mp form
    cases same
    simp [value]
  | [a, b] =>
    obtain ⟨n, value, rest⟩ := Option.bind_eq_some_iff.mp form
    obtain ⟨m, value', same⟩ := Option.map_eq_some_iff.mp rest
    cases same
    simp [value, value']
  | a :: b :: c :: rest => cases form

/-- TIS leaves SYN, RNG or a step, by its fields (R133). -/
theorem runTis_cases (broadcast : Bool) (fields : List Text) (s : State) :
    (readTisFields fields = none ∧ runTis broadcast fields s = answer .syn [] s) ∨
    ∃ seconds ms, readTisFields fields = some (seconds, ms) ∧
      ((¬ (seconds ≤ max32 ∧ ms ≤ 999) ∧ runTis broadcast fields s = answer .rng [] s) ∨
        (seconds ≤ max32 ∧ ms ≤ 999) ∧ runTis broadcast fields s = setTime broadcast seconds ms s) := by
  unfold runTis
  cases form : readTisFields fields with
  | none => exact .inl ⟨rfl, rfl⟩
  | some v =>
    obtain ⟨seconds, ms⟩ := v
    refine .inr ⟨seconds, ms, rfl, ?_⟩
    dsimp only
    split
    case isTrue range => exact .inr ⟨range, rfl⟩
    case isFalse out => exact .inl ⟨out, rfl⟩

theorem blocksRun_of_free {s : State} (free : s.LinkFree) : blocksRun s = true := by
  unfold blocksRun
  rcases free.power with on | on <;> rw [on] <;> rfl

/-- A broadcast TIS that can be taken as it arrives reaches the timebase with no command in progress (R190). -/
theorem exec_broadcast {s : State} {fields : List Text} (free : s.LinkFree) (wf : wellFormedFields fields = true) :
    exec (.tis true fields) s = .next (runTis true fields (dropReception s)) := by
  have on : linkOn s = true := by
    unfold linkOn
    rcases free.power with on | on <;> rw [on] <;> rfl
  have once : takenAtOnce fields s = true := by simp [takenAtOnce, canTake, free.inProgress, free.reply, free.buffer, wf]
  have runs : (dropReception s).spm.power ≠ .starting := by
    intro starting
    rcases free.power with on | on <;> exact absurd (on.symm.trans starting) (by decide)
  show Host.Outcome.next (broadcastTis fields s) = _
  unfold broadcastTis handBroadcast
  rw [if_neg (by simp [on]), if_pos once, if_pos ⟨rfl, runs⟩]

/-- With no command in progress nothing is answered (R190). -/
theorem answer_unasked {s : State} (none' : s.hlk.inProgress = none) (status : Status) (fields : List Text) :
    answer status fields s = s := by
  unfold answer
  rw [none']

theorem Quality.afterTis_eq (q : Quality) : q.afterTis = if q = .unset then .free else q := by cases q <;> rfl

/-- What an accepted TIS leaves of the link and the rest, from the state in which it reaches the timebase. -/
theorem setTime_stepped {broadcast : Bool} {seconds ms : Nat} {s u : State} (free : s.LinkFree) (one : s.OneRequest)
    (before : u = { s with hlk := u.hlk }) (short : ms ≤ 999) :
    let cause := if broadcast = true then StepCause.broadcast else .host
    let t := timeStep cause seconds (msToSub ms) s.tmb.quality.afterTis [] u
    Stepped s t cause seconds ms (msToSub ms) s.tmb.quality.afterTis [] ∧ LinkSteady u t ∧
      Posts u t (qualityNotices s.tmb.quality s.tmb.quality.afterTis .tis ⟨seconds, ms⟩) := by
  have quiet : u.evs.waitingRead = none := by
    rw [before]
    exact one.no_read free.inProgress
  have run : blocksRun u = true := by
    rw [before]
    exact (blocksRun_of_free free :)
  have posts := timeStep_posts (if broadcast = true then StepCause.broadcast else .host) seconds (msToSub ms)
    s.tmb.quality.afterTis [] u
  have stepped := timeStep_stepped (if broadcast = true then StepCause.broadcast else .host) seconds (msToSub ms)
    s.tmb.quality.afterTis [] run
  rw [subToMs_msToSub short] at posts stepped
  refine ⟨stepped.relink before rfl, timeStep_steady _ _ _ _ _ _ quiet, ?_⟩
  have told : (if broadcast = true then StepCause.broadcast else .host).qualityCause = .tis := by cases broadcast <;> rfl
  rw [told] at posts
  have quality : u.tmb.quality = s.tmb.quality := by rw [before]
  rw [quality] at posts
  exact posts

/-- The state in which a TIS reaches the timebase, addressed or broadcast. -/
def tisTaken (broadcast : Bool) (s : State) : State := if broadcast then dropReception s else taken .tis s

theorem exec_tis {s : State} {fields : List Text} (broadcast : Bool) (free : s.LinkFree) (wf : wellFormedFields fields = true) :
    exec (.tis broadcast fields) s = .next (runTis broadcast fields (tisTaken broadcast s)) := by
  cases broadcast
  case false => exact exec_taken (i := .tis false fields) rfl free wf
  case true => exact exec_broadcast free wf

theorem tisTaken_others (broadcast : Bool) (s : State) : tisTaken broadcast s = { s with hlk := (tisTaken broadcast s).hlk } := by
  cases broadcast <;> rfl

/-- The link as TIS finds it: the frame in reception is gone, and an addressed TIS is in progress. -/
theorem tisTaken_link (broadcast : Bool) (s : State) : (tisTaken broadcast s).hlk =
    { s.hlk with reception := none, inProgress := if broadcast then s.hlk.inProgress else some .tis } := by
  cases broadcast <;> rfl

/-- A refused TIS changes nothing but the link, and answers where it is addressed. -/
theorem tis_refused (broadcast : Bool) {s : State} (free : s.LinkFree) (status : Status) :
    if broadcast = true then answer status [] (tisTaken broadcast s) = { s with hlk := { s.hlk with reception := none } }
    else AnsweredOnly s (answer status [] (tisTaken broadcast s)) .tis status [] := by
  cases broadcast
  case false => exact answer_only (c := .tis) status [] free.inProgress
  case true => exact answer_unasked (s := dropReception s) free.inProgress status []

/-- Settles O36. -/
theorem tisStepsTheClock : Obligations.TisStepsTheClock := by
  intro s broadcast fields free one wf
  refine ⟨_, exec_tis broadcast free wf, ?_⟩
  dsimp only
  have malformed := readTisFields_none_iff fields
  rcases runTis_cases broadcast fields (tisTaken broadcast s) with ⟨form, runs⟩ | ⟨seconds, ms, form, rest⟩
  · rw [if_pos (malformed.mp form), runs]
    exact tis_refused broadcast free .syn
  · obtain ⟨first, second⟩ := readTisFields_some form
    have wellFormed : ¬ (fields = [] ∨ 2 < fields.length ∨ ∃ f ∈ fields, readNat f = none) := by
      intro bad
      rw [malformed.mpr bad] at form
      exact absurd form nofun
    rw [if_neg wellFormed, first, second]
    rcases rest with ⟨out, runs⟩ | ⟨range, runs⟩
    · have beyond : 4294967295 < seconds ∨ 999 < ms := by
        by_contra within
        exact out ⟨Nat.le_of_not_lt fun x => within (.inl x), Nat.le_of_not_lt fun x => within (.inr x)⟩
      rw [if_pos beyond, runs]
      exact tis_refused broadcast free .rng
    · have within : ¬ (4294967295 < seconds ∨ 999 < ms) := fun x => x.elim (Nat.not_lt.mpr range.1) (Nat.not_lt.mpr range.2)
      rw [if_neg within, runs, ← Quality.afterTis_eq]
      obtain ⟨stepped, steady, posts⟩ := setTime_stepped (broadcast := broadcast) (seconds := seconds) free one
        (tisTaken_others broadcast s) range.2
      unfold setTime
      have quality : (tisTaken broadcast s).tmb.quality = s.tmb.quality := by rw [tisTaken_others]
      rw [quality]
      generalize timeStep (if broadcast = true then StepCause.broadcast else .host) seconds (msToSub ms)
        s.tmb.quality.afterTis [] (tisTaken broadcast s) = u at stepped steady posts ⊢
      have replied : [timeText u.tmb.formed, u.tmb.quality.text] =
          [timeText ⟨seconds, ms⟩, s.tmb.quality.afterTis.text] := by
        rw [stepped.timebase]
        unfold Tmb.formed
        rw [subToMs_msToSub range.2]
      have final := stepped.relink rfl (answer_others .ok [timeText u.tmb.formed, u.tmb.quality.text] u)
      obtain ⟨settings, _, _, buffer, reception⟩ := answer_link .ok [timeText u.tmb.formed, u.tmb.quality.text] u
      have begun : Posts s (tisTaken broadcast s) [] :=
        Posts.of_same (by rw [tisTaken_link]) (by rw [tisTaken_link]) (by rw [tisTaken_link])
      have told := (begun.trans posts steady.settings).trans (answer_posts .ok [timeText u.tmb.formed, u.tmb.quality.text] u)
        (answer_settings .ok [timeText u.tmb.formed, u.tmb.quality.text] u)
      dsimp only
      rw [replied] at final settings buffer reception told ⊢
      refine ⟨?_, ?_, ?_, ?_, final.timebase, final.others, ?_, final.medium, final.taken, final.dropped, final.stopped,
        final.measuring⟩
      · cases broadcast
        case false => exact answer_answered (steady.inProgress.trans rfl) _ _
        case true =>
          have unasked : u.hlk.inProgress = none := steady.inProgress.trans free.inProgress
          rw [answer_unasked unasked]
          exact ⟨steady.reply free.reply, unasked⟩
      · rw [settings, steady.settings, tisTaken_link]
      · rw [buffer, steady.buffer, tisTaken_link, free.buffer]
      · rw [reception, steady.reception, tisTaken_link]
      · rw [List.nil_append, List.append_nil] at told
        exact told

end Sys2Proof.Machine
end

section
/-! TRF and TIM (O37). -/

namespace Sys2Proof.Machine

/-- A record queued from a state is queued from one with the same store, reading, quality and event count. -/
theorem Queues.before {s s' t : State} {kind : RecordKind} {payload : List Byte} {generation : BitVec 16}
    (h : Queues s t kind payload generation) (evs : s.evs = s'.evs) (time : reading s = reading s')
    (quality : s.tmb.quality = s'.tmb.quality) (counter : s.evd.counter = s'.evd.counter) :
    Queues s' t kind payload generation := by
  obtain ⟨medium, takes, drops⟩ := h
  have same : recordTaken s' = recordTaken s := by unfold recordTaken; rw [evs]
  refine ⟨?_, ?_, ?_⟩
  · rw [← evs]
    exact medium
  · rw [same, ← evs, ← time, ← quality, ← counter]
    exact takes
  · rw [same, ← evs]
    exact drops

/-- A record queued in a state with the same store is queued in another. -/
theorem Queues.after {s t t' : State} {kind : RecordKind} {payload : List Byte} {generation : BitVec 16}
    (h : Queues s t kind payload generation) (evs : t'.evs = t.evs) : Queues s t' kind payload generation := by
  obtain ⟨medium, takes, drops⟩ := h
  refine ⟨?_, ?_, ?_⟩
  all_goals rw [evs]
  · exact medium
  · exact takes
  · exact drops

/-- The timebase but for its readings. -/
def Tmb.SameButReadings (a b : Tmb) : Prop := b = { a with lastReading := b.lastReading, held := b.held }

theorem Tmb.SameButReadings.trans {a b c : Tmb} (h : a.SameButReadings b) (k : b.SameButReadings c) : a.SameButReadings c := by
  unfold Tmb.SameButReadings at h k ⊢
  rw [k, h]

theorem postQuality_clock (before : Quality) (cause : QualityCause) (s : State) :
    s.tmb.SameButReadings (postQuality before cause s).tmb := by
  rw [postQuality_tmb]
  split
  · rfl
  · exact Tmb.afterReading_only _

theorem offer_clock (kind : RecordKind) (payload : List Byte) (s : State) :
    s.tmb.SameButReadings (offer kind payload s).tmb := by
  rw [offer_tmb]
  split
  · exact Tmb.afterReading_only _
  · rfl

theorem runTrf_words (enabled : Bool) (polarity : Polarity) (s : State) :
    runTrf [if enabled then "ON".toList else "OFF".toList, polarityText polarity] s = setReference enabled polarity s := by
  cases enabled <;> cases polarity <;> rfl

/-- Words of another form are not read. -/
theorem readTrfFields_other {fields : List Text} (other : ∀ (state : Bool) (polarity : Polarity),
    fields ≠ [if state then "ON".toList else "OFF".toList, polarityText polarity]) : readTrfFields fields = none := by
  unfold readTrfFields
  split
  case h_1 state polarity =>
    by_cases on : state = "ON".toList
    · by_cases rise : polarity = "RISE".toList
      · exact absurd (by rw [on, rise]; rfl) (other true .rise)
      · by_cases fall : polarity = "FALL".toList
        · exact absurd (by rw [on, fall]; rfl) (other true .fall)
        · simp only [on, rise, fall, if_true, if_false, Option.bind_some]
    · by_cases off : state = "OFF".toList
      · by_cases rise : polarity = "RISE".toList
        · exact absurd (by rw [off, rise]; rfl) (other false .rise)
        · by_cases fall : polarity = "FALL".toList
          · exact absurd (by rw [off, fall]; rfl) (other false .fall)
          · have word : "OFF".toList ≠ "ON".toList := by decide
            simp only [off, word, rise, fall, if_true, if_false, Option.bind_some]
      · simp only [on, off, if_false, Option.bind_none]
  case h_2 => rfl

/-- The quality after TRF (R134). -/
def qualityAfterTrf (enabled : Bool) (q : Quality) : Quality := if enabled = false ∧ q = .locked then .holdover else q

/-- The state with the reference settings written and the quality judged, before its notice (R134). -/
def referenceWritten (enabled : Bool) (polarity : Polarity) (s : State) : State :=
  { s with tmb := { s.tmb.withReference enabled polarity with quality := qualityAfterTrf enabled s.tmb.quality } }

theorem setReference_eq (enabled : Bool) (polarity : Polarity) (s : State) : setReference enabled polarity s =
    answer .ok [enabledText enabled, polarityText polarity]
      (offerSettings .reference (postQuality s.tmb.quality .trf (referenceWritten enabled polarity s))) := by
  unfold setReference referenceWritten qualityAfterTrf
  dsimp only
  by_cases turns : enabled = false ∧ s.tmb.quality = .locked
  · rw [if_pos turns, if_pos (by simp [turns])]
    rfl
  · rw [if_neg turns, if_neg (by simpa using turns)]
    unfold postQuality
    rw [if_pos rfl]
    rfl

/-- The notice of TRF is that of LOCKED turned to HOLDOVER. -/
theorem qualityNotices_trf (enabled : Bool) (q : Quality) (time : Time) :
    qualityNotices q (qualityAfterTrf enabled q) .trf time = if qualityAfterTrf enabled q = q then []
      else [⟨.tqn, ["LOCKED".toList, "HOLDOVER".toList, "TRF".toList, timeText time]⟩] := by
  by_cases turns : enabled = false ∧ q = .locked
  · obtain ⟨rfl, rfl⟩ := turns
    rfl
  · have kept : qualityAfterTrf enabled q = q := if_neg turns
    unfold qualityNotices
    rw [kept, if_pos rfl, if_pos rfl]

/-- The reply of TIM with its disagree run written out. -/
theorem timFields_listed (given : Time) (t : Tmb) : timFields given t =
    [timeText given, bitText t.held, num t.seconds, num t.sub, num t.tick.toNat, t.quality.text,
      if t.enabled then "ON".toList else "OFF".toList, polarityText t.polarity, optText int t.lastError,
      optText (fun a => num (tickSpan a t.tick)) t.anchor, num t.run.length] ++ t.run.map int ++ [num t.rejected] := by
  unfold timFields countedList enabledText
  rw [List.length_map]
  rfl

/-- Settles O37. -/
theorem trfAndTimServeTheTimebase : Obligations.TrfAndTimServeTheTimebase := by
  refine ⟨fun s enabled polarity free one => ?_, fun s fields free wf other => ?_, fun s fields free wf => ?_⟩
  · have wf : wellFormedFields [if enabled then "ON".toList else "OFF".toList, polarityText polarity] = true := by
      cases enabled <;> cases polarity <;> decide
    refine ⟨_, exec_taken (i := .trf _) rfl free wf, ?_⟩
    dsimp only [runCommand]
    rw [runTrf_words, setReference_eq]
    have quiet : s.evs.waitingRead = none := one.no_read free.inProgress
    have told := postQuality_posts (taken .trf s).tmb.quality .trf (referenceWritten enabled polarity (taken .trf s))
    have steady := postQuality_steady (taken .trf s).tmb.quality .trf (referenceWritten enabled polarity (taken .trf s))
    have clock := postQuality_clock (taken .trf s).tmb.quality .trf (referenceWritten enabled polarity (taken .trf s))
    have others := postQuality_others (taken .trf s).tmb.quality .trf (referenceWritten enabled polarity (taken .trf s))
    have time := reading_postQuality (taken .trf s).tmb.quality .trf (referenceWritten enabled polarity (taken .trf s))
    generalize postQuality (taken .trf s).tmb.quality .trf (referenceWritten enabled polarity (taken .trf s)) = u at *
    have waits : u.evs.waitingRead = none := by
      rw [others]
      exact quiet
    have link : (offerSettings .reference u).hlk = u.hlk := (offer_quiet _ _ waits).1
    have payload : settingsPayload .reference u.svc.active u.hlk.settings u.tmb.enabled u.tmb.polarity =
        settingsPayload .reference s.svc.active s.hlk.settings enabled polarity := by
      rw [steady.settings, clock, others]
      rfl
    have queued := offer_queues .cfg (settingsPayload .reference s.svc.active s.hlk.settings enabled polarity) u
    have generation : u.svc.generation = s.svc.generation := by
      rw [others]
      rfl
    rw [← payload, generation] at queued
    have asked : (offerSettings .reference u).hlk.inProgress = some .trf := by
      rw [link, steady.inProgress]
      rfl
    have whole := clock.trans (offer_clock .cfg (settingsPayload .reference u.svc.active u.hlk.settings u.tmb.enabled
      u.tmb.polarity) u)
    obtain ⟨settings, _, _, _, reception⟩ := answer_link .ok [enabledText enabled, polarityText polarity]
      (offerSettings .reference u)
    refine ⟨answer_answered asked _ _, ?_, ?_, ?_, ?_, ?_, ?_⟩
    · rw [answer_others]
      exact whole
    · rw [answer_others]
      unfold offerSettings
      rw [offer_others, others]
      rfl
    · rw [settings, link, steady.settings]
      rfl
    · rw [reception, link, steady.reception]
      rfl
    · have notices : qualityNotices (taken .trf s).tmb.quality (referenceWritten enabled polarity (taken .trf s)).tmb.quality
          .trf (reading (referenceWritten enabled polarity (taken .trf s))) = _ :=
        qualityNotices_trf enabled s.tmb.quality (reading s)
      rw [notices] at told
      have posted : Posts (taken .trf s) (offerSettings .reference u) _ := told.of_links rfl link
      exact posted.command (by rw [link, steady.settings]; rfl) _ _
    · rw [← payload]
      refine (queued.before ?_ ?_ ?_ ?_).after (answer_evs _ _ _)
      · rw [others]
        rfl
      · rw [time]
        rfl
      · rw [clock]
        rfl
      · rw [others]
        rfl
  · have runs : runCommand .trf fields (taken .trf s) = answer .syn [] (taken .trf s) := by
      show runTrf fields _ = _
      unfold runTrf
      rw [readTrfFields_other other]
    exact exec_answers (i := .trf fields) rfl free wf runs
  · by_cases empty : fields = []
    · subst empty
      refine ⟨_, exec_taken (i := .tim []) rfl free wf, ?_⟩
      dsimp only
      rw [if_neg (by simp)]
      have runs : runCommand .tim [] (taken .tim s) =
          answer .ok (timFields (reading s) s.tmb.afterReading) (takeReading (taken .tim s)) := rfl
      rw [runs]
      obtain ⟨answered, kept, same⟩ := answer_after (u := takeReading (taken .tim s)) free rfl .ok
        (timFields (reading s) s.tmb.afterReading)
      refine ⟨?_, kept, same.trans ?_⟩
      · generalize answer .ok _ (takeReading _) = t at answered ⊢
        rw [timFields_listed, Tmb.afterReading_eq] at answered
        dsimp only at answered
        exact answered
      · rw [← runs]
        dsimp only [takeReading, taken]
        rw [Tmb.afterReading_eq]
        rfl
    · have runs : runCommand .tim fields (taken .tim s) = answer .syn [] (taken .tim s) := if_pos empty
      obtain ⟨t, done, only⟩ := exec_answers (i := .tim fields) rfl free wf runs
      exact ⟨t, done, by rw [if_pos empty]; exact only⟩

end Sys2Proof.Machine
end

section
/-! The clocks (O39). -/

namespace Sys2Proof.Machine

/-- A crystal tick as the clocks count it, short of a step: the second and the sub-second count that it leaves, the tick counter
and its wraps. -/
def tickCounted (seconds sub : Nat) (s : State) : State :=
  { s with
    tmb := { s.tmb with tick := s.tmb.tick + 1, seconds := seconds, sub := sub }
    spm := { s.spm with
      wrapCount := if s.tmb.tick = 0xFFFFFFFF#32 then min 65535 (s.spm.wrapCount + 1) else s.spm.wrapCount } }

theorem countTick_eq (s : State) : countTick s = tickCounted s.tmb.seconds s.tmb.sub s := by
  unfold countTick tickCounted saturate
  rw [Nat.min_comm]

theorem crystalTick_off {s : State} (off : s.spm.power = .off) : crystalTick s = s := if_neg (by simp [clocksRun, off])

theorem crystalTick_running {s : State} (on : s.spm.power ≠ .off) : crystalTick s = countRtc (tickCounted s.tmb.seconds s.tmb.sub s) := by
  rw [← countTick_eq]
  exact if_pos (by simpa [clocksRun] using on)

theorem crystalTick_sub {s : State} (on : s.spm.power ≠ .off) (room : s.tmb.sub < 32767) :
    crystalTick s = tickCounted s.tmb.seconds (s.tmb.sub + 1) s := by
  rw [crystalTick_running on]
  exact if_pos room

theorem crystalTick_second {s : State} (on : s.spm.power ≠ .off) (full : 32767 ≤ s.tmb.sub) (room : s.tmb.seconds < 4294967295) :
    crystalTick s = tickCounted (s.tmb.seconds + 1) 0 s := by
  rw [crystalTick_running on]
  exact (if_neg (by exact not_lt.mpr full)).trans (if_pos (by exact room))

theorem crystalTick_wrap {s : State} (on : s.spm.power ≠ .off) (full : 32767 ≤ s.tmb.sub) (last : 4294967295 ≤ s.tmb.seconds) :
    crystalTick s = if s.spm.power = .dormant then tickCounted 0 0 s
      else timeStep .wrap 0 0 .unset [] (tickCounted s.tmb.seconds s.tmb.sub s) := by
  rw [crystalTick_running on]
  exact (if_neg (by exact not_lt.mpr full)).trans (if_neg (by exact not_lt.mpr last))

theorem exec_rtcWrap {s : State} (on : s.spm.power ≠ .off) (full : 32767 ≤ s.tmb.sub) (last : 4294967295 ≤ s.tmb.seconds) :
    exec .rtcWrap s = .next (crystalTick s) := by
  have due : rtcWrapDue s = true := by
    unfold rtcWrapDue clocksRun max32
    simp [on, full, last]
  show execRtcWrap s = _
  unfold execRtcWrap
  rw [if_pos due]

theorem blocksRun_iff (s : State) : blocksRun s = true ↔ ¬ (s.spm.power = .starting ∧ s.spm.startKind = some .warm) := by
  unfold blocksRun
  rw [not_and_or]
  simp

/-- The clocks advance outside a wrap of the RTC (R121, R122). -/
theorem crystalTick_counts (s : State) :
    (s.spm.power = .off → crystalTick s = s) ∧
    (s.spm.power ≠ .off →
      (s.tmb.sub < 32767 → crystalTick s = tickCounted s.tmb.seconds (s.tmb.sub + 1) s) ∧
      (32767 ≤ s.tmb.sub → s.tmb.seconds < 4294967295 → crystalTick s = tickCounted (s.tmb.seconds + 1) 0 s) ∧
      (32767 ≤ s.tmb.sub → 4294967295 ≤ s.tmb.seconds →
        (s.spm.power = .dormant → crystalTick s = tickCounted 0 0 s) ∧ exec .rtcWrap s = .next (crystalTick s))) :=
  ⟨crystalTick_off, fun on => ⟨crystalTick_sub on, crystalTick_second on, fun full last =>
    ⟨fun dormant => (crystalTick_wrap on full last).trans (if_pos dormant), exec_rtcWrap on full last⟩⟩⟩

/-- The notice of a quality left for UNSET by the wrap. -/
theorem qualityNotices_wrap (before : Quality) : qualityNotices before .unset StepCause.wrap.qualityCause ⟨0, subToMs 0⟩ =
    if before = .unset then [] else [⟨.tqn, [before.text, "UNSET".toList, "WRAP".toList, "0.000".toList]⟩] := by
  cases before <;> decide

theorem subToMs_first : subToMs 0 = 0 := by decide

theorem formed_last (s : State) : (tickCounted 4294967295 32767 s).tmb.formed = ⟨4294967295, 999⟩ := by
  have last : subToMs 32767 = 999 := by decide
  exact congrArg (Time.mk 4294967295) last

/-- The step that the wrap of the RTC is. -/
theorem stepOf_wrap (s : State) : stepOf .wrap 0 0 .unset [] (tickCounted 4294967295 32767 s) =
    ⟨timePayload .wrap ⟨4294967295, 999⟩ ⟨0, 0⟩ s.tmb.quality .unset (s.tmb.tick + 1) [], ⟨0, 0⟩, .unset⟩ := by
  unfold stepOf
  rw [formed_last, subToMs_first]
  rfl

theorem afterReading_holdover (t : Tmb) : ({ t with quality := .holdover } : Tmb).afterReading =
    { t with
      quality := .holdover
      lastReading := some t.handedOut
      held := ({ t with quality := .holdover } : Tmb).afterReading.held } := by
  rw [Tmb.afterReading_held]
  exact Tmb.afterReading_eq _

/-- HOLDOVER_TIMEOUT, where due (R132). -/
theorem exec_holdoverTimeout {s : State} {w : Tick} (watch : s.tmb.watchFrom = some w) (locked : s.tmb.quality = .locked)
    (samples : sampling s = true) (late : 98304 ≤ tickSpan w s.tmb.tick) :
    exec .holdoverTimeout s = .next (postNotice .tqn
      ["LOCKED".toList, "HOLDOVER".toList, "TIMEOUT".toList, timeText (reading s)]
      (takeReading { s with tmb := { s.tmb with quality := .holdover } })) := by
  have due : holdoverDue s = true := (holdoverDue_iff s).mpr ⟨locked, samples, w, watch, late⟩
  show execHoldoverTimeout s = _
  unfold execHoldoverTimeout
  rw [if_pos due]
  unfold enterHoldover changeQuality postQuality
  rw [locked]
  exact congrArg Host.Outcome.next (if_neg (by simp))

/-- The wrap of the RTC outside OFF and DORMANT (R121, R131). -/
theorem rtcWrap_steps {s : State} (on : s.spm.power ≠ .off) (awake : s.spm.power ≠ .dormant) (sub : s.tmb.sub = 32767)
    (seconds : s.tmb.seconds = 4294967295) : exec .rtcWrap s =
      .next (timeStep .wrap 0 0 .unset [] (tickCounted 4294967295 32767 s)) := by
  rw [exec_rtcWrap on sub.ge seconds.ge, crystalTick_wrap on sub.ge seconds.ge, if_neg awake, sub, seconds]

/-- Settles O39. -/
theorem clockEventsComeAtTheirTicks : Obligations.ClockEventsComeAtTheirTicks := by
  refine ⟨crystalTick_counts, fun s on awake sub seconds => ?_, fun s on tick room => ?_, fun s a anchor fresh late => ?_,
    fun s w watch locked samples late => ?_⟩
  · refine ⟨_, rtcWrap_steps on awake sub seconds, ?_⟩
    dsimp only
    have told : Posts _ _ (qualityNotices s.tmb.quality .unset StepCause.wrap.qualityCause ⟨0, subToMs 0⟩) :=
      timeStep_posts .wrap 0 0 .unset [] (tickCounted 4294967295 32767 s)
    rw [qualityNotices_wrap] at told
    have others := timeStep_others .wrap 0 0 .unset [] (tickCounted 4294967295 32767 s)
    have clock := timeStep_tmb .wrap 0 0 .unset [] (tickCounted 4294967295 32767 s)
    rw [stepOf_wrap] at clock
    have stepped := timeStep_stepped .wrap 0 0 .unset [] (s := tickCounted 4294967295 32767 s)
    have owes := timeStep_owes .wrap 0 0 .unset [] (tickCounted 4294967295 32767 s)
    have runs : blocksRun (tickCounted 4294967295 32767 s) = true ↔ ¬ (s.spm.power = .starting ∧ s.spm.startKind = some .warm) :=
      blocksRun_iff s
    generalize timeStep .wrap 0 0 .unset [] (tickCounted 4294967295 32767 s) = t at *
    refine ⟨?_, ?_, ?_, ?_, Posts.before (t := tickCounted 4294967295 32767 s) rfl told, fun waits => ?_, fun run => ?_⟩
    · rw [clock]
      by_cases run : blocksRun (tickCounted 4294967295 32767 s) = true
      · rw [if_pos run, if_neg (runs.mp run)]
        rfl
      · rw [if_neg run, if_pos (not_not.mp (fun h => run (runs.mpr h)))]
        rfl
    · rw [others]
      rfl
    · rw [others]
      rfl
    · by_cases run : blocksRun (tickCounted 4294967295 32767 s) = true
      · exact (stepped run).medium
      · rw [(owes run).1]
        rfl
    · exact owes (fun run => runs.mp run waits)
    · have stepped := stepped (runs.mpr run)
      have taken := stepped.taken
      rw [formed_last, subToMs_first] at taken
      exact ⟨stepped.stopped, stepped.measuring, taken, stepped.dropped⟩
  · have due : tickWrapDue s = true := by
      unfold tickWrapDue clocksRun
      simp [on, tick]
    show execTickCounterWrap s = _
    unfold execTickCounterWrap
    rw [if_pos due, crystalTick_sub on room]
    unfold tickCounted
    rw [if_pos tick, tick]
    rfl
  · have due : anchorExpiryDue s = true := (anchorExpiryDue_iff s).mpr ⟨fresh, a, anchor, late⟩
    show execPulseAnchorExpiry s = _
    unfold execPulseAnchorExpiry
    rw [if_pos due]
    rfl
  · refine ⟨_, exec_holdoverTimeout watch locked samples late, ?_, ?_, fun masked => ?_, fun unmasked busy room => ?_⟩
    · rw [postNotice_others]
      exact afterReading_holdover s.tmb
    · rw [postNotice_others]
      rfl
    · rw [postNotice_masked (by exact masked)]
      rfl
    · rw [postNotice_queued (by exact unmasked) (by exact room) (by exact busy)]
      rfl

end Sys2Proof.Machine
end

section
/-! Reference pulses (O38). -/

namespace Sys2Proof.Machine

/-! ## Which edge is a first, a rejected or an accepted pulse (R126) -/

/-- The ticks since the anchor, none without one. -/
def Tmb.sinceAnchor (t : Tmb) : Nat := (t.anchor.map (fun a => tickSpan a t.tick)).getD 0

theorem Tmb.firstPulse_iff (t : Tmb) :
    t.firstPulse = true ↔ t.anchor = none ∨ t.anchorExpired = true ∨ 36045 < t.sinceAnchor := by
  unfold Tmb.firstPulse Tmb.sinceAnchor
  split
  case h_1 none => simp [none]
  case h_2 a anchored => simp [anchored]

theorem Tmb.rejectsPulse_iff (t : Tmb) : t.rejectsPulse = true ↔ ¬ t.firstPulse = true ∧ t.sinceAnchor < 29491 := by
  unfold Tmb.rejectsPulse Tmb.sinceAnchor
  split
  case h_1 none => simp [Tmb.firstPulse, none]
  case h_2 a anchored => simp [anchored]

theorem exec_referencePulse_ignored {edge : Polarity} {s : State}
    (other : ¬ (s.tmb.enabled = true ∧ sampling s = true ∧ edge = s.tmb.polarity)) : exec (.referencePulse edge) s = .next s := by
  show execReferencePulse edge s = _
  unfold execReferencePulse isPulse
  rw [if_neg]
  simpa [and_assoc] using other

theorem exec_referencePulse_taken {edge : Polarity} {s : State} (on : s.tmb.enabled = true) (samples : sampling s = true)
    (same : edge = s.tmb.polarity) : exec (.referencePulse edge) s = .next (takePulse s) := by
  show execReferencePulse edge s = _
  unfold execReferencePulse isPulse
  rw [if_pos]
  simp [on, samples, same]

/-! ## The run of agreeing errors (R129) -/

theorem foldl_max_int (l : List Int) (v : Int) : l.foldl max v ∈ v :: l ∧ ∀ u ∈ v :: l, u ≤ l.foldl max v := by
  induction l generalizing v with
  | nil => simp
  | cons w rest ih =>
    obtain ⟨mem, bound⟩ := ih (max v w)
    rw [List.foldl_cons]
    have top := bound (max v w) List.mem_cons_self
    constructor
    · rcases List.mem_cons.mp mem with eq | h
      · rw [eq]
        rcases max_choice v w with e | e <;> rw [e] <;> simp
      · simp [h]
    · simp only [List.forall_mem_cons] at bound ⊢
      exact ⟨by omega, by omega, bound.2⟩

theorem foldl_min_int (l : List Int) (v : Int) : l.foldl min v ∈ v :: l ∧ ∀ u ∈ v :: l, l.foldl min v ≤ u := by
  induction l generalizing v with
  | nil => simp
  | cons w rest ih =>
    obtain ⟨mem, bound⟩ := ih (min v w)
    rw [List.foldl_cons]
    have top := bound (min v w) List.mem_cons_self
    constructor
    · rcases List.mem_cons.mp mem with eq | h
      · rw [eq]
        rcases min_choice v w with e | e <;> rw [e] <;> simp
      · simp [h]
    · simp only [List.forall_mem_cons] at bound ⊢
      exact ⟨by omega, by omega, bound.2⟩

/-- Errors are spread no wider than a bound where no two of them differ by more. -/
theorem errorSpread_le_iff {errors : List Int} (some' : errors ≠ []) (bound : Int) :
    errorSpread errors ≤ bound ↔ ∀ x ∈ errors, ∀ y ∈ errors, x - y ≤ bound := by
  cases errors with
  | nil => exact absurd rfl some'
  | cons e rest =>
    obtain ⟨hiMem, hi⟩ := foldl_max_int rest e
    obtain ⟨loMem, lo⟩ := foldl_min_int rest e
    constructor
    · intro small x hx y hy
      have small : rest.foldl max e - rest.foldl min e ≤ bound := small
      have := hi x hx
      have := lo y hy
      omega
    · exact fun all => all _ hiMem _ loMem

/-! ## A correction (R128) -/

/-- The second that a pulse sets (R128, R130). -/
def secondSet (error : Int) (seconds : Nat) : Nat := if error < 0 then (if seconds < 4294967295 then seconds + 1 else 0) else seconds

/-- A correction leaves the clock held, where it was or where it sets the clock back behind the last reading given (R128). -/
def setBack (error : Int) (t : Tmb) : Bool :=
  t.held || (decide (0 < error) && t.lastReading.any (fun last => (⟨t.seconds, 0⟩ : Time).lt last))

/-- The timebase as a correction short of a wrap leaves it, its quality apart (R128). -/
def Tmb.corrected (error : Int) (t : Tmb) : Tmb :=
  { t with seconds := secondSet error t.seconds, sub := 0, run := [], held := setBack error t }

theorem belowLast_secondStart (t : Tmb) : ({ t with sub := 0 } : Tmb).belowLast =
    t.lastReading.any (fun last => (⟨t.seconds, 0⟩ : Time).lt last) := by
  unfold Tmb.belowLast Tmb.formed
  dsimp only
  rw [subToMs_first]
  cases t.lastReading <;> rfl

/-- A correction short of a wrap sets the clock to the second and changes the quality (R128). -/
theorem correctPhase_room {error : Int} {s : State} (room : ¬ (error < 0 ∧ 4294967295 ≤ s.tmb.seconds)) : correctPhase error s =
    changeQuality (s.tmb.quality.afterPulse error) .pulse { s with tmb := s.tmb.corrected error } := by
  have clock : correctClock error s = { s with tmb := { s.tmb.corrected error with run := s.tmb.run } } := by
    unfold correctClock Tmb.corrected secondSet setBack max32
    dsimp only
    rw [belowLast_secondStart]
    by_cases early : error < 0
    · have low : s.tmb.seconds < 4294967295 := by omega
      have late : ¬ 0 < error := by omega
      rw [if_pos early, if_pos low, if_pos early, if_pos low]
      simp [late]
    · rw [if_neg early, if_neg early]
      by_cases late : 0 < error <;> simp [late]
  unfold correctPhase
  rw [clock]
  rfl

/-- A correction past the last second is the wrap (R121, R128). -/
theorem correctPhase_wrap {error : Int} {s : State} (early : error < 0) (last : 4294967295 ≤ s.tmb.seconds) :
    correctPhase error s = timeStep .wrap 0 0 .unset [] s := by
  have clock : correctClock error s = timeStep .wrap 0 0 .unset [] s :=
    (if_pos early).trans (if_neg (by exact not_lt.mpr last))
  have stepped := timeStep_tmb .wrap 0 0 .unset [] s
  unfold correctPhase
  rw [clock]
  generalize timeStep .wrap 0 0 .unset [] s = t at *
  have run : t.tmb.run = [] := by rw [stepped]
  have quality : t.tmb.quality = .unset := by rw [stepped]
  have same : ({ t with tmb := { t.tmb with run := [] } } : State) = t := by rw [← run]
  dsimp only
  rw [same, quality]
  unfold changeQuality postQuality Quality.afterPulse
  dsimp only
  rw [quality, if_pos rfl, if_pos rfl, ← quality]

theorem Quality.afterPulse_eq (q : Quality) (error : Int) : q.afterPulse error =
    if q = .unset then .unset else if error.natAbs ≤ 33 ∨ q = .holdover then .locked else q := by
  unfold Quality.afterPulse
  by_cases near : error.natAbs ≤ 33 <;> simp [near]

/-- The reading that a corrected clock gives: the last one given, where the clock is held behind it (R123). -/
theorem handedOut_corrected (error : Int) (t : Tmb) :
    let ahead := setBack error t && t.lastReading.any (fun last => (⟨secondSet error t.seconds, 0⟩ : Time).lt last)
    (t.corrected error).handedOut =
      (if ahead then t.lastReading.getD ⟨secondSet error t.seconds, 0⟩ else ⟨secondSet error t.seconds, 0⟩) ∧
    (t.corrected error).afterReading.held = ahead := by
  have formed : (t.corrected error).formed = ⟨secondSet error t.seconds, 0⟩ := congrArg (Time.mk _) subToMs_first
  have held : (t.corrected error).held = setBack error t := rfl
  have last : (t.corrected error).lastReading = t.lastReading := rfl
  rw [Tmb.afterReading_held]
  unfold Tmb.handedOut
  rw [formed, held, last]
  generalize (⟨secondSet error t.seconds, 0⟩ : Time) = now
  generalize setBack error t = back
  cases t.lastReading with
  | none => simp [Time.lt_irrefl]
  | some l =>
    by_cases behind : back = true ∧ now.lt l = true
    · obtain ⟨back, behind⟩ := behind
      simp [back, behind]
    · cases back <;> simp_all [Time.lt_irrefl]

/-! ## The automatic step (R130) -/

theorem stepTarget_eq (error : Int) (t : Tmb) : stepTarget error t = (secondSet error t.seconds,
    if (error < 0 ∧ 4294967295 ≤ t.seconds) ∨ t.quality = .unset then .unset else .locked) := by
  have after : t.quality.afterStep = if t.quality = .unset then .unset else .locked := by cases t.quality <;> rfl
  unfold stepTarget secondSet max32
  rw [after]
  by_cases early : error < 0
  · by_cases room : t.seconds < 4294967295
    · have : ¬ 4294967295 ≤ t.seconds := by omega
      simp [early, room, this]
    · simp [early, room, Nat.le_of_not_lt room]
  · simp [early]

/-- What a correction short of a wrap leaves, with the change of quality that it brings (R125, R128, R136). -/
theorem correctedQuality (error : Int) (s : State) :
    let t := changeQuality (s.tmb.quality.afterPulse error) .pulse { s with tmb := s.tmb.corrected error }
    let now : Time := ⟨secondSet error s.tmb.seconds, 0⟩
    let ahead := setBack error s.tmb && s.tmb.lastReading.any (fun last => now.lt last)
    let given : Time := if ahead then s.tmb.lastReading.getD now else now
    t = { s with tmb := t.tmb, hlk := t.hlk } ∧
    t.tmb = { s.tmb.corrected error with
      quality := s.tmb.quality.afterPulse error, held := t.tmb.held, lastReading := t.tmb.lastReading } ∧
    Posts s t (if t.tmb.quality = s.tmb.quality then []
      else [⟨.tqn, [s.tmb.quality.text, t.tmb.quality.text, "PULSE".toList, timeText given]⟩]) ∧
    (t.tmb.quality = s.tmb.quality → t.hlk = s.hlk ∧ t.tmb.lastReading = s.tmb.lastReading ∧
      t.tmb.held = setBack error s.tmb) ∧
    (t.tmb.quality ≠ s.tmb.quality → t.tmb.lastReading = some given ∧ t.tmb.held = ahead) := by
  intro t now ahead given
  obtain ⟨gives, keeps⟩ := handedOut_corrected error s.tmb
  let judged : Tmb := { s.tmb.corrected error with quality := s.tmb.quality.afterPulse error }
  have time : judged.handedOut = given := gives
  have holds : judged.afterReading.held = ahead := by
    rw [Tmb.afterReading_held] at keeps ⊢
    exact keeps
  have others := postQuality_others s.tmb.quality .pulse { s with tmb := judged }
  have clock := postQuality_tmb s.tmb.quality .pulse { s with tmb := judged }
  have told : Posts _ _ (qualityNotices s.tmb.quality judged.quality .pulse judged.handedOut) :=
    postQuality_posts s.tmb.quality .pulse { s with tmb := judged }
  have still : judged.quality = s.tmb.quality → t = { s with tmb := judged } := fun same => if_pos same
  rw [time] at told
  have change : t = postQuality s.tmb.quality .pulse { s with tmb := judged } := rfl
  rw [← change] at others clock told
  clear_value t given ahead
  have quality : t.tmb.quality = judged.quality := by
    rw [clock]
    split
    · rfl
    · rw [Tmb.afterReading_eq]
  refine ⟨others, ?_, ?_, fun same => ?_, fun other => ?_⟩
  · rw [clock]
    split
    · rfl
    · rw [Tmb.afterReading_eq]
  · rw [quality]
    exact told.before (t := { s with tmb := judged }) rfl
  · rw [still (quality ▸ same)]
    exact ⟨rfl, rfl, rfl⟩
  · rw [clock, if_neg (quality ▸ other), holds, Tmb.afterReading_lastReading, time]
    exact ⟨rfl, rfl⟩

theorem blocksRun_of_sampling {s : State} (samples : sampling s = true) : blocksRun s = true := by
  refine (blocksRun_iff s).mpr fun ⟨starting, _⟩ => ?_
  unfold sampling at samples
  rw [starting] at samples
  exact absurd samples (by decide)

/-! ## The pulse whole -/

/-- An accepted pulse before its error is judged (R126, R127). -/
theorem Tmb.acceptPulse_eq {t : Tmb} {run : List Int} (goes : (if t.firstPulse = true then [] else t.run) = run) :
    t.acceptPulse = { t with
      anchor := some t.tick
      anchorExpired := false
      watchFrom := some t.tick
      run := run
      lastError := some (phaseError t.sub) } := by
  unfold Tmb.acceptPulse
  rw [goes]

/-- The run that a disagreeing pulse leaves (R129). -/
theorem extendRun_eq (run : List Int) (error : Int) : extendRun run error =
    if run ≠ [] ∧ (∀ x ∈ run ++ [error], ∀ y ∈ run ++ [error], x - y ≤ 66) then run ++ [error] else [error] :=
  if_congr (and_congr_right fun _ => errorSpread_le_iff (by simp) 66) rfl rfl

/-- Settles O38. -/
theorem pulsesDisciplineTheClock : Obligations.PulsesDisciplineTheClock := by
  intro s edge
  by_cases pulse : s.tmb.enabled = true ∧ sampling s = true ∧ edge = s.tmb.polarity
  case neg => exact ⟨s, exec_referencePulse_ignored pulse, by intros; rw [if_pos pulse]⟩
  obtain ⟨on, samples, same⟩ := pulse
  obtain ⟨t, whole⟩ : ∃ t, takePulse s = t := ⟨_, rfl⟩
  refine ⟨t, whole ▸ exec_referencePulse_taken on samples same, ?_⟩
  intro span first error run next accepted second wraps signalled
  have isFirst : s.tmb.firstPulse = true ↔ first := s.tmb.firstPulse_iff
  have accepts : s.tmb.acceptPulse = accepted := Tmb.acceptPulse_eq (if_congr isFirst rfl rfl)
  have goes : extendRun run error = next := extendRun_eq run error
  have blocks : blocksRun { s with tmb := accepted } = true := blocksRun_of_sampling samples
  rw [if_neg (not_not.mpr ⟨on, samples, same⟩)]
  unfold takePulse at whole
  by_cases rejected : s.tmb.rejectsPulse = true
  · rw [if_pos (by rw [← isFirst]; exact s.tmb.rejectsPulse_iff.mp rejected), ← whole, if_pos rejected]
    unfold saturate
    rw [Nat.min_comm]
  rw [if_neg rejected, accepts] at whole
  dsimp only at whole
  rw [show phaseError s.tmb.sub = error from rfl] at whole
  rw [if_neg (by rw [← isFirst]; exact fun h => rejected (s.tmb.rejectsPulse_iff.mpr h))]
  by_cases small : error.natAbs ≤ 3277
  · rw [if_pos small] at whole
    rw [if_pos small]
    by_cases past : wraps
    · have corrected : correctPhase error { s with tmb := accepted } = _ := correctPhase_wrap past.1 past.2
      have stepped := timeStep_stepped .wrap 0 0 .unset [] blocks
      have told : Posts _ _ (qualityNotices s.tmb.quality .unset .wrap ⟨0, subToMs 0⟩) :=
        timeStep_posts .wrap 0 0 .unset [] { s with tmb := accepted }
      have zero : second = 0 := (if_pos past.1).trans (if_neg (by exact not_lt.mpr past.2))
      rw [subToMs_first, ← corrected, whole] at stepped told
      have clock := stepped.timebase
      have quality : t.tmb.quality = .unset := by rw [clock]
      have held : t.tmb.held = false := by rw [clock]
      have last : t.tmb.lastReading = some ⟨0, 0⟩ := by rw [clock]
      rw [zero, quality, held, last, if_pos (.inl past)]
      exact ⟨clock, fun _ => ⟨⟨stepped.stopped, stepped.measuring⟩, rfl, rfl, told.before (t := { s with tmb := accepted }) rfl,
        stepped.others⟩, fun h => absurd past h, fun h => absurd past h, fun h => absurd past h⟩
    · have corrected : correctPhase error { s with tmb := accepted } = _ := correctPhase_room past
      obtain ⟨others, clock, told, same, other⟩ := correctedQuality error { s with tmb := accepted }
      rw [← corrected, whole] at others clock told same other
      rw [Quality.afterPulse_eq] at clock
      refine ⟨?_, fun h => absurd h past, fun _ => ⟨others, told.before (t := { s with tmb := accepted }) rfl⟩, fun _ => same,
        fun _ => other⟩
      rw [if_congr (or_iff_right past) rfl rfl]
      exact clock
  · rw [if_neg small] at whole
    rw [if_neg small]
    unfold disagree at whole
    dsimp only at whole
    rw [goes, stepTarget_eq] at whole
    by_cases short : next.length < 3
    · rw [if_pos short, ← whole]
      exact if_pos short
    rw [if_neg short]
    have stepped := timeStep_stepped .reference second 0
      (if wraps ∨ s.tmb.quality = .unset then .unset else .locked) next blocks
    have told : Posts _ _ (qualityNotices s.tmb.quality _ .step ⟨second, subToMs 0⟩) :=
      timeStep_posts .reference second 0 (if wraps ∨ s.tmb.quality = .unset then .unset else .locked) next
        { s with tmb := accepted }
    have corrected : timeStep .reference second 0 (if wraps ∨ s.tmb.quality = .unset then .unset else .locked) next
        { s with tmb := accepted } = t := (if_neg short).symm.trans whole
    rw [subToMs_first, corrected] at stepped told
    have clock := stepped.timebase
    have quality : t.tmb.quality = if wraps ∨ s.tmb.quality = .unset then .unset else .locked := by rw [clock]
    refine ⟨clock, ⟨stepped.stopped, stepped.measuring⟩, ?_, stepped.others, fun takes => ?_⟩
    · rw [quality]
      exact told.before (t := { s with tmb := accepted }) rfl
    · obtain ⟨x, queue, kind, sequence, time, _, payload⟩ := stepped.taken takes
      rw [quality]
      exact ⟨x, by rw [queue]; exact List.mem_append_right _ (List.mem_singleton.mpr rfl), kind, sequence, time, payload⟩

end Sys2Proof.Machine
end

section
/-! SLOT_READ_COMPLETE (O45). -/

namespace Sys2Proof.Machine

/-- With nothing but the next operation waiting, a completion is the medium's choice (R148). -/
theorem completed_plain {s : State} (plain : s.PlainCompletion) :
    completed s = mediumChoice { s with evs := { s.evs with activity := .idle } } := by
  unfold completed takeWaitingSte
  rw [if_neg (by simp [plain.ste])]
  unfold superviseCompletion
  rw [if_neg (by simp [plain.abort]), if_neg (by simp [plain.commit]), if_neg (by simp [plain.committed])]

/-- An answer stands over what leaves the reply, the settings of the link, the command in progress and the tick as they were. -/
theorem Answered.same {s t : State} {c : Command} {status : Status} {fields : List Text} (h : Answered s c status fields)
    (link : t.hlk = s.hlk) (time : t.tmb.tick = s.tmb.tick) : Answered t c status fields := by
  obtain ⟨⟨eligible, reply⟩, released⟩ := h
  exact ⟨⟨eligible, by rw [link, time, reply]⟩, by rw [link, released]⟩

/-- The fields of the answer to a slot read (R157, R158). -/
theorem readFieldsOf_slot (asked : ReadRequest) (slot : Nat) (bytes : List Byte) :
    readFieldsOf asked.form bytes (num slot) (slotSequence bytes != asked.sequence) =
      (let mark := if fromBigEndian (bytes.take 4) = asked.sequence then [] else ["MISMATCH".toList]
       match asked.form with
       | .raw => [hexBytes bytes, num slot] ++ mark
       | .decoded => decodedSlot bytes ++ num slot :: mark) := by
  have mark : (if (slotSequence bytes != asked.sequence) = true then ["MISMATCH".toList] else []) =
      if fromBigEndian (bytes.take 4) = asked.sequence then [] else ["MISMATCH".toList] := by
    show (if (fromBigEndian (bytes.take 4) != asked.sequence) = true then _ else _) = _
    by_cases found : fromBigEndian (bytes.take 4) = asked.sequence <;> simp [found]
  unfold readFieldsOf
  rw [mark]
  cases asked.form <;> rfl

/-- A slot read answered: the store with its last read, and the reply. -/
def readAnswered (slot : Nat) (asked : ReadRequest) (s : State) : State :=
  answerRead asked (s.evs.medium.slot slot) (num slot) (slotSequence (s.evs.medium.slot slot) != asked.sequence) s

theorem exec_slotReadComplete {s : State} {slot : Nat} {asked : ReadRequest} (flight : s.evs.activity = .read slot asked) :
    exec .slotReadComplete s = .next (completed (readAnswered slot asked s)) := by
  show execSlotReadComplete s = _
  unfold execSlotReadComplete
  rw [flight]
  rfl

theorem readAnswered_others (slot : Nat) (asked : ReadRequest) (s : State) : readAnswered slot asked s =
    { s with evs := { s.evs with lastRead := some asked.sequence }, hlk := (readAnswered slot asked s).hlk } := answer_others _ _ _

theorem readAnswered_answered {s : State} {c : Command} (serves : s.hlk.inProgress = some c) (slot : Nat) (asked : ReadRequest) :
    let bytes := Memory.readBytes s.evs.medium (128 * slot) 128
    let mark := if fromBigEndian (bytes.take 4) = asked.sequence then [] else ["MISMATCH".toList]
    Answered (readAnswered slot asked s) c .ok (match asked.form with
      | .raw => [hexBytes bytes, num slot] ++ mark
      | .decoded => decodedSlot bytes ++ num slot :: mark) := by
  have fields := readFieldsOf_slot asked slot (s.evs.medium.slot slot)
  dsimp only at fields
  unfold readAnswered answerRead
  rw [fields]
  exact answer_answered (by exact serves) _ _

/-- Settles O45. -/
theorem slotReadAnswersTheCommand : Obligations.SlotReadAnswersTheCommand := by
  refine ⟨fun s slot asked c flight serves => ?_, fun s slot asked c flight serves one plain => ?_⟩
  · have others := readAnswered_others slot asked s
    exact ⟨_, exec_slotReadComplete flight, by rw [others], by rw [others], readAnswered_answered serves slot asked⟩
  · have others := readAnswered_others slot asked s
    have answered := readAnswered_answered serves slot asked
    have ends : completed (readAnswered slot asked s) = _ := completed_plain (by
      rw [others]
      exact ⟨plain.ste, plain.commit, plain.committed, plain.abort⟩)
    have quiet : (readAnswered slot asked s).evs.waitingRead = none := by
      rw [others]
      exact (one.flight slot asked flight).2
    refine ⟨_, exec_slotReadComplete flight, ?_⟩
    rw [ends]
    obtain ⟨link, waiting⟩ := mediumChoice_quiet (s := { readAnswered slot asked s with evs :=
      { (readAnswered slot asked s).evs with activity := .idle } }) quiet
    have chooses := mediumChoice_chooses { readAnswered slot asked s with evs :=
      { (readAnswered slot asked s).evs with activity := .idle } }
    generalize mediumChoice _ = t at *
    generalize readAnswered slot asked s = u at *
    have store := chooses.store
    have rest := chooses.others
    have last := (chooses.quiet quiet).2.1
    refine ⟨?_, answered.same link (by rw [rest]), ?_, waiting, ?_, ?_, ?_, ?_, ?_⟩
    · rw [rest, others]
    · rw [last, others]
    all_goals rw [store, others]

end Sys2Proof.Machine
end

section
/-! STQ and STE (O48). -/

namespace Sys2Proof.Machine

/-- STQ's fields of the erase-all are those of a store in ERASING_ALL, and absent in any other (R163). -/
theorem stqFields_listed (e : Evs) : stqFields e =
    [e.state.text, e.mode.text, e.activity.text, num e.pwq.length,
      optText num e.oldestSequence, optText num e.lastStored, optText num e.lastIssued,
      num e.writePosition, optText num e.oldest, optText num e.due,
      optText (fun d => bitText (eraseHeld e d)) e.due, optText num e.protectionStart, num e.gapCount,
      num e.surveyDrops, num e.coldDrops, num e.failures, checkText e.lastCheck,
      num (e.sectors.map (fun x => x.voids.length)).sum, num e.voidFound, num e.breaksFound,
      if e.state = .erasingAll then num e.front else [],
      if e.state = .erasingAll then num e.erasedCount else []] := by
  have present : ∀ t : Text, presentText (e.state == .erasingAll) t = if e.state = .erasingAll then t else [] := by
    intro t
    cases e.state <;> rfl
  have sum : num (voidSlots e) = num (e.sectors.map (fun x => x.voids.length)).sum := rfl
  unfold stqFields
  dsimp only
  rw [present, present, sum]

theorem not_aborting {s : State} (free : s.LinkFree) (one : s.OneRequest) : s.spm.abortPending = false := by
  by_contra aborting
  have starting := (one.abort (by simpa using aborting)).1
  rcases free.power with run | ride
  · rw [run] at starting
    cases starting
  · rw [ride] at starting
    cases starting

theorem sampling_of_free {s : State} (free : s.LinkFree) : sampling s = true := by
  unfold sampling
  rcases free.power with run | ride
  · simp [run]
  · simp [ride]

/-- The sector at which an accepted STE begins lies in the medium, where the positions do (R161). -/
theorem eraseAllStart_lt {e : Evs} (write : e.writePosition < 32768) (oldest : ∀ x, e.oldest = some x → x < 32768) :
    eraseAllStart e < 1024 := by
  unfold eraseAllStart sectorOf
  have bound : e.oldest.getD e.writePosition < 32768 := by
    cases found : e.oldest with
    | none => exact write
    | some x => exact oldest x found
  omega

/-- An erase-all just begun can program no record: every sector is CLOSED (R148, R161). -/
theorem erasingAll_headProgrammable {e : Evs} (inside : eraseAllStart e < 1024) : headProgrammable e.erasingAll = false := by
  have closed : (sectorAt e.erasingAll (sectorOf e.erasingAll.writePosition)).condition = .closed := by
    have place : sectorOf e.erasingAll.writePosition = eraseAllStart e := by
      show 32 * eraseAllStart e / 32 = _
      omega
    rw [place]
    unfold sectorAt
    show (((List.replicate 1024 { Sector.empty with condition := .closed })[eraseAllStart e]?).getD Sector.empty).condition = _
    rw [List.getElem?_replicate, if_pos inside]
    rfl
  unfold headProgrammable
  rw [closed]
  simp

/-- The medium's choice just after an accepted STE is the first erase (R162). -/
theorem mediumChoice_erasingAll {s : State} {e : Evs} (began : s.evs = e.erasingAll) (idle : e.activity = .idle)
    (samples : sampling s = true) (goes : s.spm.abortPending = false) (inside : eraseAllStart e < 1024) :
    mediumChoice s = { s with evs := { e.erasingAll with activity := .erase (eraseAllStart e) } } := by
  have state : s.evs.state = .erasingAll := by rw [began]; rfl
  have usable : mediumUsable s = true := by
    have still : s.evs.activity = .idle := by rw [began]; exact idle
    unfold mediumUsable
    simp [samples, goes, still]
  unfold mediumChoice
  rw [if_neg (by simp [usable]), state]
  dsimp only
  unfold eraseAllChoice
  rw [began, if_neg (by simp [erasingAll_headProgrammable inside]), if_pos (by show 0 < 1024; decide)]
  unfold startErase
  rw [began]
  rfl

/-- Settles O48. -/
theorem stqAndSteServeTheStore : Obligations.StqAndSteServeTheStore := by
  intro s fields free one wf
  refine ⟨?_, ?_⟩
  · by_cases empty : fields = []
    · subst empty
      obtain ⟨t, done, only⟩ := exec_answers (i := .stq []) (status := .ok) (reply := stqFields s.evs) rfl free wf rfl
      rw [stqFields_listed] at only
      exact ⟨t, done, by rw [if_neg (by simp)]; exact only⟩
    · obtain ⟨t, done, only⟩ := exec_answers (i := .stq fields) (status := .syn) (reply := []) rfl free wf (if_pos empty)
      exact ⟨t, done, by rw [if_pos empty]; exact only⟩
  · by_cases empty : fields = []
    case neg =>
      obtain ⟨t, done, only⟩ := exec_answers (i := .ste fields) (status := .syn) (reply := []) rfl free wf (if_pos empty)
      exact ⟨t, done, by rw [if_pos empty]; exact only⟩
    subst empty
    have done := exec_taken (i := .ste []) rfl free wf
    have runs : runCommand .ste [] (taken .ste s) =
        if s.evs.activity = .idle then (if s.evs.acceptsSte then mediumChoice (takeSte (taken .ste s)) else takeSte (taken .ste s))
        else { taken .ste s with evs := { s.evs with steWaiting := true } } := by
      show runSte [] _ = _
      unfold runSte
      rw [if_neg (by simp)]
      rfl
    by_cases idle : s.evs.activity = .idle
    case neg =>
      rw [if_neg idle] at runs
      refine ⟨_, done, ?_⟩
      rw [if_neg (by simp), if_pos idle, runs]
      rfl
    rw [if_pos idle] at runs
    have refused : ∀ status, s.evs.acceptsSte = false → takeSte (taken .ste s) = answer status [] (taken .ste s) →
        ∃ t, exec (.ste []) s = .next t ∧ AnsweredOnly s t .ste status [] := fun status no takes =>
      exec_answers (i := .ste []) rfl free wf (by rw [runs, if_neg (by simp [no]), takes])
    have unready : s.evs.state ≠ .ready → s.evs.acceptsSte = false := fun h => by simp [Evs.acceptsSte, h]
    have takes : takeSte (taken .ste s) = match s.evs.state with
      | .ready => if s.evs.acceptsSte then answer .ok [] { taken .ste s with evs := s.evs.erasingAll }
          else answer .lck [] (taken .ste s)
      | .full => answer .lck [] (taken .ste s)
      | .fault => answer .stt [] (taken .ste s)
      | .erasingAll => answer .stt [] (taken .ste s)
      | .scanning => answer .stt [] (taken .ste s) := rfl
    cases state : s.evs.state
    all_goals
      rw [state] at takes
      dsimp only at takes
    case ready =>
      by_cases protection : s.evs.protectionStart = none
      · have accepts : s.evs.acceptsSte = true := by simp [Evs.acceptsSte, state, protection]
        rw [if_pos (by exact accepts)] at takes
        rw [if_pos accepts, takes] at runs
        refine ⟨_, done, ?_⟩
        rw [if_neg (by simp), if_neg (not_not.mpr idle), runs]
        dsimp only
        rw [if_neg (not_not.mpr protection)]
        intro write oldest
        obtain ⟨answered, kept, same⟩ := answer_after (c := .ste)
          (u := { taken .ste s with evs := s.evs.erasingAll }) free rfl .ok []
        have samples := sampling_of_free free
        have goes := not_aborting free one
        have inside := eraseAllStart_lt write oldest
        have choice := mediumChoice_erasingAll (s := answer .ok [] { taken .ste s with evs := s.evs.erasingAll })
          (e := s.evs) (by rw [same]) idle (by rw [same]; exact samples)
          (by rw [same]; exact goes) inside
        rw [choice]
        generalize answer .ok [] _ = t at *
        refine ⟨answered.same rfl rfl, ⟨kept.settings, kept.configMark, kept.adoption, kept.buffer, kept.reception,
          kept.notices, kept.busy⟩, ?_⟩
        rw [same]
        rfl
      · have accepts : s.evs.acceptsSte = false := by
          unfold Evs.acceptsSte
          cases found : s.evs.protectionStart with
          | none => exact absurd found protection
          | some p => simp
        rw [if_neg (by simpa using accepts)] at takes
        obtain ⟨t, done, only⟩ := refused .lck accepts takes
        refine ⟨t, done, ?_⟩
        rw [if_neg (by simp), if_neg (not_not.mpr idle)]
        dsimp only
        rw [if_pos protection]
        exact only
    all_goals
      obtain ⟨t, done, only⟩ := refused _ (unready (by rw [state]; decide)) takes
      refine ⟨t, done, ?_⟩
      rw [if_neg (by simp), if_neg (not_not.mpr idle)]
      exact only

end Sys2Proof.Machine
end

section
/-! The staged set applied (O29). -/

namespace Sys2Proof.Machine

/-- The survey context as the staged set's application counts it (R103). -/
def SurveyContext.applied (c : SurveyContext) : SurveyContext :=
  if c.state = .running then { c with generationsApplied := c.generationsApplied.map (fun n => min 65535 (n + 1)) } else c

/-- The state whose settings record is offered: the staged set active as the next generation (R103). -/
def stagedWritten (s : State) : State :=
  { s with
    cyt := { s.cyt with fnChanged := s.cyt.fnChanged || (s.svc.active.write s.svc.staged).fn != s.svc.active.fn }
    svc := { s.svc with
      active := s.svc.active.write s.svc.staged
      staged := []
      generation := s.svc.generation + 1
      survey := s.svc.survey.applied } }

theorem applyStaged_some {s : State} (staged : s.svc.staged ≠ []) :
    applyStaged s = markSettingsChanged (offerSettings .appliedAtClosure (stagedWritten s)) := by
  have survey : (if s.svc.survey.state = .running then { s.svc.survey with
      generationsApplied := s.svc.survey.generationsApplied.map (fun n => saturate max16 (n + 1)) } else s.svc.survey) =
      s.svc.survey.applied := by
    unfold SurveyContext.applied saturate
    simp only [Nat.min_comm]
  unfold applyStaged
  rw [if_neg staged]
  dsimp only
  rw [survey]
  rfl

/-- Settles O29. -/
theorem stagedSettingsApplyAsOneGeneration : Obligations.StagedSettingsApplyAsOneGeneration := by
  refine fun s => ⟨fun none => if_pos none, fun staged => ?_⟩
  dsimp only
  rw [applyStaged_some staged]
  let payload := settingsPayload .appliedAtClosure (s.svc.active.write s.svc.staged) s.hlk.settings s.tmb.enabled s.tmb.polarity
  have offered : offerSettings .appliedAtClosure (stagedWritten s) = offer .cfg payload (stagedWritten s) := rfl
  have others := offer_others .cfg payload (stagedWritten s)
  have clock := offer_tmb .cfg payload (stagedWritten s)
  have queues := offer_queues .cfg payload (stagedWritten s)
  have quiet := fun h => (offer_quiet .cfg payload (s := stagedWritten s) h).1
  rw [offered]
  generalize offer .cfg payload (stagedWritten s) = t at *
  refine ⟨?_, quiet, (Queues.before (s' := s) queues rfl rfl rfl rfl).after (t' := markSettingsChanged t) rfl, fun kind => ?_⟩
  · unfold markSettingsChanged
    rw [others, clock]
    rfl
  · unfold markSettingsChanged
    rw [others]
    cases kind <;> rfl

end Sys2Proof.Machine
end

section
/-! The general cells and an item (O22). -/

namespace Sys2Proof.Machine

/-! ## One cell and an item (R78 to R83) -/

/-- What an item leaves of a cell, of its source or not (R78). -/
def GeneralCell.taken (g : GeneralCell) (frozen : Bool) (item : Item) : GeneralCell :=
  if g.config.takes item then g.after frozen item else g

theorem GeneralCell.after_config (g : GeneralCell) (frozen : Bool) (item : Item) : (g.after frozen item).config = g.config := by
  unfold GeneralCell.after GeneralCell.increment
  dsimp only
  split
  · split
    · rfl
    · split <;> rfl
  · rfl

theorem GeneralCell.taken_config (g : GeneralCell) (frozen : Bool) (item : Item) : (g.taken frozen item).config = g.config := by
  unfold GeneralCell.taken
  split
  · exact g.after_config frozen item
  · rfl

/-- The notice that an item brings of a cell whose count it makes equal to the mark (R82). -/
def cellNotice (i : Nat) (g : GeneralCell) (frozen : Bool) (item : Item) (time : Time) : Option Notice :=
  let count := (g.taken frozen item).count
  if count ≠ g.count ∧ g.config.mark ≠ 0 ∧ count = g.config.mark then
    some ⟨.tkn, [num i, num count, num g.config.mark, g.config.source.text, optText cellKindText g.config.kind, timeText time]⟩
  else none

theorem cellAt_put {t : Tlb} {i : Nat} (inside : i < t.cells.length) (g : GeneralCell) (n : Nat) :
    cellAt { t with cells := t.cells.set i g } n = if n = i then g else cellAt t n := by
  unfold cellAt
  dsimp only
  rw [List.getElem?_set]
  by_cases same : n = i
  · rw [if_pos same.symm, if_pos inside, if_pos same]
    rfl
  · rw [if_neg (fun h => same h.symm), if_neg same]

/-- A cell outside the bank is disabled. -/
theorem inside_of_enabled {t : Tlb} {i : Nat} (enabled : (cellAt t i).config.enabled = true) : i < t.cells.length := by
  by_contra outside
  unfold cellAt at enabled
  rw [List.getElem?_eq_none (Nat.le_of_not_lt outside)] at enabled
  exact absurd enabled (by decide)

/-- What an item leaves of the bank's cells where it is handed to one of them. -/
theorem cellAt_cellTakes (item : Item) (s : State) (i n : Nat) : cellAt (cellTakes item s i).tlb n =
    if n = i then (cellAt s.tlb n).taken s.tlb.frozen item else cellAt s.tlb n := by
  by_cases takes : (cellAt s.tlb i).config.takes item = true
  · have enabled : (cellAt s.tlb i).config.enabled = true := (Bool.and_eq_true_iff.mp takes).1
    have put := cellAt_put (inside_of_enabled enabled) ((cellAt s.tlb i).after s.tlb.frozen item) n
    have cells : (cellTakes item s i).tlb = { s.tlb with cells := s.tlb.cells.set i ((cellAt s.tlb i).after s.tlb.frozen item) } := by
      unfold cellTakes
      dsimp only
      rw [if_pos takes]
      split
      · unfold postMark
        rw [postWithReading_others]
        rfl
      · rfl
    rw [cells, put]
    by_cases same : n = i
    · rw [if_pos same, if_pos same, same]
      exact (if_pos takes).symm
    · rw [if_neg same, if_neg same]
  · have still : cellTakes item s i = s := if_neg takes
    rw [still]
    split
    case isTrue same =>
      rw [same]
      exact (if_neg takes).symm
    case isFalse => rfl

theorem cellTakes_frozen (item : Item) (s : State) (i : Nat) : (cellTakes item s i).tlb.frozen = s.tlb.frozen := by
  unfold cellTakes
  dsimp only
  split
  · split
    · unfold postMark
      rw [postWithReading_others]
      rfl
    · rfl
  · rfl

theorem reading_postWithReading (kind : NoticeKind) (fields : Time → List Text) (s : State) :
    reading (postWithReading kind fields s) = reading s := by
  unfold reading
  rw [postWithReading_others]
  exact Tmb.handedOut_afterReading s.tmb

theorem cellTakes_reading (item : Item) (s : State) (i : Nat) : reading (cellTakes item s i) = reading s := by
  unfold cellTakes
  dsimp only
  split
  · split
    · exact reading_postWithReading _ _ _
    · rfl
  · rfl

theorem cellTakes_steady (item : Item) (s : State) (i : Nat) : LinkSteady s (cellTakes item s i) := by
  unfold cellTakes
  dsimp only
  split
  · split
    · exact (LinkSteady.of_eq (s := s) (t := putCell _ _ s) rfl).trans (postWithReading_steady _ _ _)
    · exact LinkSteady.of_eq rfl
  · exact LinkSteady.of_eq rfl

/-- A cell counts up exactly where it takes the item, the bank is COUNTING, it would count it and its count is below the
maximum (R81, R82). -/
theorem GeneralCell.taken_count (g : GeneralCell) (frozen : Bool) (item : Item) : (g.taken frozen item).count =
    if (g.config.takes item = true ∧ frozen = false ∧ g.wouldCount item = true) ∧ g.count < 16777215 then g.count + 1
    else g.count := by
  unfold GeneralCell.taken
  by_cases takes : g.config.takes item = true
  case neg => rw [if_neg takes, if_neg (fun h => takes h.1.1)]
  rw [if_pos takes]
  unfold GeneralCell.after
  dsimp only
  by_cases would : g.wouldCount item = true
  case neg => rw [if_neg would, if_neg (fun h => would h.1.2.2)]
  rw [if_pos would]
  cases frozen
  case true => rw [if_pos rfl, if_neg (by simp)]
  rw [if_neg (by simp)]
  unfold GeneralCell.increment
  by_cases room : g.count < 16777215
  · rw [if_pos room, if_pos ⟨⟨takes, rfl, would⟩, room⟩]
  · rw [if_neg room, if_neg (fun h => room h.2)]

/-- The notice of one cell is the one of the mark that its count reaches (R82). -/
theorem cellTakes_posts (item : Item) (s : State) (i : Nat) : Posts s (cellTakes item s i)
    (cellNotice i (cellAt s.tlb i) s.tlb.frozen item (reading s)).toList := by
  have count := (cellAt s.tlb i).taken_count s.tlb.frozen item
  have config := (cellAt s.tlb i).after_config s.tlb.frozen item
  unfold cellNotice cellTakes
  dsimp only
  by_cases takes : (cellAt s.tlb i).config.takes item = true
  case neg =>
    rw [if_neg (fun h => takes h.1.1)] at count
    rw [if_neg takes, if_neg (fun h => h.1 count)]
    exact Posts.refl s
  rw [if_pos takes]
  have after : (cellAt s.tlb i).taken s.tlb.frozen item = (cellAt s.tlb i).after s.tlb.frozen item := if_pos takes
  rw [after] at count ⊢
  generalize (cellAt s.tlb i).after s.tlb.frozen item = g at *
  generalize cellAt s.tlb i = b at *
  have marks : (!s.tlb.frozen && b.wouldCount item && b.reachesMark) = true ↔
      g.count ≠ b.count ∧ b.config.mark ≠ 0 ∧ g.count = b.config.mark := by
    rw [count]
    unfold GeneralCell.reachesMark cellMax
    by_cases counts : (b.config.takes item = true ∧ s.tlb.frozen = false ∧ b.wouldCount item = true) ∧ b.count < 16777215
    · rw [if_pos counts]
      obtain ⟨⟨_, counting, would⟩, room⟩ := counts
      simp [counting, would, room]
    · rw [if_neg counts]
      constructor
      · intro h
        simp only [Bool.and_eq_true, Bool.not_eq_true', decide_eq_true_eq] at h
        obtain ⟨⟨counting, would⟩, ⟨room, _⟩, _⟩ := h
        exact absurd ⟨⟨takes, counting, would⟩, room⟩ counts
      · exact fun h => absurd rfl h.1
  by_cases reaches : g.count ≠ b.count ∧ b.config.mark ≠ 0 ∧ g.count = b.config.mark
  · rw [if_pos (marks.mpr reaches), if_pos reaches]
    have posts := postWithReading_posts .tkn (fun t => [num i, num g.count, num g.config.mark, g.config.source.text,
      optText cellKindText g.config.kind, timeText t]) (putCell i g s)
    rw [config] at posts
    unfold postMark
    rw [config]
    exact posts.before (t := putCell i g s) rfl
  · rw [if_neg (fun h => reaches (marks.mp h)), if_neg reaches]
    exact (Posts.refl s).of_links rfl rfl

/-! ## The bank and an item (R77) -/

/-- The cells in their order take an item each by itself. -/
theorem cellsTake (item : Item) {cells : List Nat} (once : cells.Nodup) (s : State) :
    (∀ n, cellAt (cells.foldl (cellTakes item) s).tlb n =
      if n ∈ cells then (cellAt s.tlb n).taken s.tlb.frozen item else cellAt s.tlb n) ∧
    Posts s (cells.foldl (cellTakes item) s)
      (cells.filterMap (fun n => cellNotice n (cellAt s.tlb n) s.tlb.frozen item (reading s))) ∧
    LinkSteady s (cells.foldl (cellTakes item) s) := by
  induction cells generalizing s with
  | nil => exact ⟨fun n => (if_neg (by simp)).symm, Posts.refl s, LinkSteady.of_eq rfl⟩
  | cons i rest ih =>
    obtain ⟨new, once⟩ := List.nodup_cons.mp once
    obtain ⟨each, posts, steady⟩ := ih once (cellTakes item s i)
    rw [cellTakes_frozen, cellTakes_reading] at *
    have others : ∀ n ∈ rest, cellAt (cellTakes item s i).tlb n = cellAt s.tlb n := fun n h => by
      rw [cellAt_cellTakes, if_neg (show n ≠ i by rintro rfl; exact new h)]
    refine ⟨fun n => ?_, ?_, (cellTakes_steady item s i).trans steady⟩
    · show cellAt (rest.foldl (cellTakes item) (cellTakes item s i)).tlb n = _
      rw [each]
      by_cases later : n ∈ rest
      · rw [if_pos later, others n later, if_pos (List.mem_cons_of_mem i later)]
      · rw [if_neg later, cellAt_cellTakes]
        exact if_congr (by simp [later]) rfl rfl
    · have tail : rest.filterMap (fun n => cellNotice n (cellAt (cellTakes item s i).tlb n) s.tlb.frozen item (reading s)) =
          rest.filterMap (fun n => cellNotice n (cellAt s.tlb n) s.tlb.frozen item (reading s)) :=
        List.filterMap_congr fun n h => by rw [others n h]
      rw [tail] at posts
      have both := (cellTakes_posts item s i).andThen posts steady
      have list : (i :: rest).filterMap (fun n => cellNotice n (cellAt s.tlb n) s.tlb.frozen item (reading s)) =
          (cellNotice i (cellAt s.tlb i) s.tlb.frozen item (reading s)).toList ++
            rest.filterMap (fun n => cellNotice n (cellAt s.tlb n) s.tlb.frozen item (reading s)) := by
        rw [List.filterMap_cons]
        cases cellNotice i (cellAt s.tlb i) s.tlb.frozen item (reading s) <;> rfl
      rw [list]
      exact both

theorem Tlb.takeChain_cells (b : Tlb) (c : ChainClassification) : (b.takeChain c).cells = b.cells := by
  unfold Tlb.takeChain
  split
  · split <;> rfl
  all_goals rfl

theorem handItem_cellsLink (item : Item) (s : State) :
    (handItem item s).tlb.cells = ((List.range 12).foldl (cellTakes item) s).tlb.cells ∧
    (handItem item s).hlk = ((List.range 12).foldl (cellTakes item) s).hlk := by
  have survey : ∀ u : State, (surveyTakes item u).tlb.cells = u.tlb.cells ∧ (surveyTakes item u).hlk = u.hlk := by
    intro u
    unfold surveyTakes
    split <;> exact ⟨rfl, rfl⟩
  have matrices : ∀ u : State, (matricesTake item u).tlb.cells = u.tlb.cells ∧ (matricesTake item u).hlk = u.hlk := by
    intro u
    unfold matricesTake
    split
    · exact ⟨Tlb.takeChain_cells _ _, rfl⟩
    all_goals exact ⟨rfl, rfl⟩
  exact ⟨(matrices _).1.trans (survey _).1, (matrices _).2.trans (survey _).2⟩

/-- What an item leaves of a cell of the bank (R77). -/
theorem cellAt_handItem (item : Item) (s : State) {n : Nat} (inside : n < 12) :
    cellAt (handItem item s).tlb n = (cellAt s.tlb n).taken s.tlb.frozen item := by
  have each := (cellsTake item (List.nodup_range (n := 12)) s).1 n
  rw [if_pos (List.mem_range.mpr inside)] at each
  rw [← each]
  unfold cellAt
  rw [(handItem_cellsLink item s).1]

/-! ## The test and the exclusion by the source (R79, R80) -/

theorem Comparison.met_iff (c : Comparison) (threshold value : Nat) : c.met threshold value = true ↔
    match c with
    | .above => threshold < value
    | .below => value < threshold := by
  cases c <;> exact decide_eq_true_iff

/-- A selector names phases whose values pass a test (R79). -/
theorem selector_met_iff (selector : Option Selector) (values : PerPhase (Option Nat)) (test : Nat → Bool) :
    selector.any (fun sel => sel.met values test) = true ↔
      match selector with
      | none => False
      | some (.one p) => ∃ v, values.get p = some v ∧ test v = true
      | some .any => ∃ p v, values.get p = some v ∧ test v = true
      | some .all => (∃ p v, values.get p = some v) ∧ ∀ p v, values.get p = some v → test v = true := by
  match selector with
  | none => simp
  | some (.one p) => simp [Selector.met, Option.any_eq_true]
  | some .any =>
    simp only [Option.any_some, Selector.met, List.any_eq_true, mem_presentValues]
    exact ⟨fun ⟨v, ⟨p, h⟩, t⟩ => ⟨p, v, h, t⟩, fun ⟨p, v, h, t⟩ => ⟨v, ⟨p, h⟩, t⟩⟩
  | some .all =>
    simp only [Option.any_some, Selector.met, Bool.and_eq_true, bne_iff_ne, ne_eq, List.all_eq_true, mem_presentValues]
    refine and_congr ⟨fun some' => ?_, fun ⟨p, v, h⟩ none => ?_⟩ ⟨fun all p v h => all v ⟨p, h⟩, fun all v ⟨p, h⟩ => all p v h⟩
    · obtain ⟨v, mem⟩ := List.exists_mem_of_ne_nil _ some'
      obtain ⟨p, h⟩ := mem_presentValues.mp mem
      exact ⟨p, v, h⟩
    · have mem : v ∈ presentValues values := mem_presentValues.mpr ⟨p, h⟩
      rw [none] at mem
      exact absurd mem (by simp)

theorem GeneralCell.after_predecessor (g : GeneralCell) (frozen : Bool) (item : Item) :
    (g.after frozen item).predecessor = g.config.met item := rfl

/-- What an item met by a cell is, by its source (R79). -/
theorem CellConfig.met_iff (c : CellConfig) (item : Item) :
    let passes (v : Nat) : Prop := match c.comparison with
      | .above => c.threshold < v
      | .below => v < c.threshold
    let selected (values : Phase → Option Nat) : Prop := match c.selector with
      | none => False
      | some (.one p) => ∃ v, values p = some v ∧ passes v
      | some .any => ∃ p v, values p = some v ∧ passes v
      | some .all => (∃ p v, values p = some v) ∧ ∀ p v, values p = some v → passes v
    c.met item = true ↔ match item with
      | .half r => selected (fun p => (r.values.get p).map PhaseValue.value)
      | .win values _ _ => selected values.get
      | .int values _ _ _ => selected values.get
      | .frq _ value _ _ => ∃ v, value = some v ∧ passes v
      | .evt chain => c.kind = some chain.kind ∧ passes chain.extreme.value := by
  intro passes selected
  have meets : ∀ v, c.comparison.met c.threshold v = true ↔ passes v := c.comparison.met_iff c.threshold
  have selects : ∀ values : PerPhase (Option Nat),
      c.selector.any (fun sel => sel.met values (c.comparison.met c.threshold)) = true ↔ selected values.get := by
    intro values
    rw [selector_met_iff]
    simp only [meets]
    rfl
  cases item with
  | half r =>
    refine (selects _).trans (iff_of_eq (congrArg selected (funext fun p => ?_)))
    exact PerPhase.build_get (fun q => (r.values.get q).map PhaseValue.value) p
  | win values _ _ => exact selects values
  | int values _ _ _ => exact selects values
  | frq _ value _ _ =>
    show value.any _ = true ↔ _
    rw [Option.any_eq_true]
    simp only [meets]
  | evt chain =>
    show (c.kind == some chain.kind && _) = true ↔ _
    rw [Bool.and_eq_true, beq_iff_eq, meets]

theorem Item.excluded_iff (item : Item) : item.excluded = true ↔ match item with
      | .half r => r.synthetic = true ∨ r.osc = true ∨ ∃ p v, r.values.get p = some v ∧ v.clipped = true
      | .win _ flagged _ => flagged = true
      | .int _ valid _ _ => valid = false
      | .frq _ _ valid _ => valid = false
      | .evt _ => False := by
  cases item with
  | half r =>
    show (r.synthetic || r.osc || (presentValues r.values).any PhaseValue.clipped) = true ↔ _
    simp only [Bool.or_eq_true, List.any_eq_true, mem_presentValues, or_assoc]
    refine or_congr_right (or_congr_right ⟨fun ⟨v, ⟨p, h⟩, t⟩ => ⟨p, v, h, t⟩, fun ⟨p, v, h, t⟩ => ⟨v, ⟨p, h⟩, t⟩⟩)
  | win => rfl
  | int _ valid _ _ => exact iff_of_eq (Bool.not_eq_true' valid)
  | frq _ _ valid _ => exact iff_of_eq (Bool.not_eq_true' valid)
  | evt => exact ⟨Bool.false_ne_true, False.elim⟩

/-- A cell would count an item that meets its test, is eligible and, in EDGE mode, follows one not met (R80, R81). -/
theorem GeneralCell.wouldCount_iff (g : GeneralCell) (item : Item) : g.wouldCount item = true ↔
    g.config.met item = true ∧ (g.config.policy = .all ∨ ¬ item.excluded = true) ∧
      (g.config.mode = .level ∨ g.predecessor = false) := by
  unfold GeneralCell.wouldCount CellConfig.eligible
  simp only [Bool.and_eq_true, Bool.or_eq_true, beq_iff_eq, Bool.not_eq_true', Bool.not_eq_true, and_assoc]

/-- Settles O22. -/
theorem generalCellTakesAnItem : Obligations.GeneralCellTakesAnItem := by
  refine ⟨fun s item => ?_, fun s item n _ inside => ?_⟩
  · have posts := (cellsTake item (List.nodup_range (n := 12)) s).2.1
    have same : (List.range 12).filterMap (fun n => cellNotice n (cellAt s.tlb n) s.tlb.frozen item (reading s)) =
        (List.range 12).filterMap (fun n =>
          let g := cellAt s.tlb n
          let count := (cellAt (handItem item s).tlb n).count
          if count ≠ g.count ∧ g.config.mark ≠ 0 ∧ count = g.config.mark then
            some ⟨.tkn, [num n, num count, num g.config.mark, g.config.source.text, optText cellKindText g.config.kind,
              timeText (reading s)]⟩
          else none) := List.filterMap_congr fun n h => by
      rw [cellAt_handItem item s (List.mem_range.mp h)]
      rfl
    rw [same] at posts
    exact posts.of_links rfl (handItem_cellsLink item s).2
  · intro g h passes selected met excluded counts
    have whole : h = g.taken s.tlb.frozen item := cellAt_handItem item s inside
    have isMet : g.config.met item = true ↔ met := g.config.met_iff item
    have isExcluded : item.excluded = true ↔ excluded := item.excluded_iff
    have would : g.wouldCount item = true ↔ counts := by rw [g.wouldCount_iff, isMet, isExcluded]
    have takes : g.config.takes item = true ↔ g.config.enabled = true ∧ g.config.source = item.source := by
      unfold CellConfig.takes
      rw [Bool.and_eq_true, beq_iff_eq]
    clear_value h g
    refine ⟨?_, fun other => ?_, fun own => ?_⟩
    · rw [whole, g.taken_config]
    · rw [whole]
      exact if_neg (fun t => other (takes.mp t))
    · have after : h = g.after s.tlb.frozen item := whole.trans (if_pos (takes.mpr own))
      unfold GeneralCell.after at after
      dsimp only at after
      refine ⟨?_, fun no => ?_, fun yes frozen => ?_, fun yes counting room => ?_, fun yes counting full => ?_⟩
      · rw [after]
        exact isMet
      · rw [if_neg (fun w => no (would.mp w))] at after
        rw [after]
      · rw [if_pos (would.mpr yes), if_pos frozen] at after
        rw [after]
      · rw [if_pos (would.mpr yes), if_neg (by simp [counting])] at after
        unfold GeneralCell.increment at after
        rw [if_pos room] at after
        rw [after]
        exact ⟨rfl, rfl, rfl, by simp⟩
      · rw [if_pos (would.mpr yes), if_neg (by simp [counting])] at after
        unfold GeneralCell.increment at after
        rw [if_neg (not_lt.mpr full)] at after
        rw [after]
        exact ⟨rfl, rfl⟩

end Sys2Proof.Machine
end

section
/-! What the fields of a request spell. -/

namespace Sys2Proof.Machine

/-- A text is a decimal number with this value: digits alone, one or more (R190). -/
def Decimal (f : Text) (n : Nat) : Prop :=
  f ≠ [] ∧ (∀ c ∈ f, c ∈ "0123456789".toList) ∧ f.foldl (fun v c => 10 * v + (c.toNat - 48)) 0 = n

theorem isDigit_iff (c : Char) : isDigit c = true ↔ c ∈ "0123456789".toList := by
  constructor
  · intro h
    obtain ⟨low, high⟩ : 48 ≤ c.toNat ∧ c.toNat ≤ 57 := by simpa [isDigit] using h
    rw [← Char.ofNat_toNat c]
    generalize c.toNat = n at *
    interval_cases n <;> decide
  · intro h
    have all : "0123456789".toList.all isDigit = true := by rfl
    exact List.all_eq_true.mp all c h

theorem readNat_iff (f : Text) (n : Nat) : readNat f = some n ↔ Decimal f n := by
  have digits : f.all isDigit = true ↔ ∀ c ∈ f, c ∈ "0123456789".toList := by
    rw [List.all_eq_true]
    exact forall₂_congr fun c _ => isDigit_iff c
  have value : digitsValue f = f.foldl (fun v c => 10 * v + (c.toNat - 48)) 0 := by
    unfold digitsValue
    simp only [Nat.mul_comm]
  unfold readNat Decimal
  rw [value, ← digits]
  by_cases form : f ≠ [] ∧ f.all isDigit = true
  · rw [if_pos form, Option.some_inj]
    exact ⟨fun h => ⟨form.1, form.2, h⟩, fun h => h.2.2⟩
  · rw [if_neg form]
    exact ⟨fun h => (by cases h), fun h => absurd ⟨h.1, h.2.1⟩ form⟩

/-- A keyword found in a whole list of different ones is the one that stands there. -/
theorem find_text_iff {α : Type} {words : List α} {text : α → Text} (whole : ∀ x, x ∈ words) (differ : Function.Injective text)
    (t : Text) (x : α) : words.find? (fun y => text y == t) = some x ↔ t = text x := by
  constructor
  · intro h
    exact (by simpa using List.find?_some h : text x = t).symm
  · rintro rfl
    cases found : words.find? (fun y => text y == text x) with
    | none => exact absurd (List.find?_eq_none.mp found x (whole x)) (by simp)
    | some y => rw [differ (show text y = text x by simpa using List.find?_some found)]

end Sys2Proof.Machine
end

section
/-! TLC, TLR and TLX (O25). -/

namespace Sys2Proof.Machine

/-! ## The fields of TLC (R85) -/

theorem readEnabled_iff (t : Text) (e : Bool) : readEnabled t = some e ↔ t = if e then "ON".toList else "OFF".toList := by
  unfold readEnabled
  by_cases on : t = "ON".toList
  · subst on
    cases e <;> decide
  · rw [if_neg on]
    by_cases off : t = "OFF".toList
    · subst off
      cases e <;> decide
    · rw [if_neg off]
      cases e
      · exact iff_of_false (by simp) off
      · exact iff_of_false (by simp) on

theorem readSource_iff (t : Text) (x : CellSource) : readSource t = some x ↔ t = x.text :=
  find_text_iff (fun x => by cases x <;> simp) (fun x y => by cases x <;> cases y <;> decide) t x

theorem readComparison_iff (t : Text) (x : Comparison) :
    [Comparison.above, .below].find? (fun x => x.text == t) = some x ↔ t = x.text :=
  find_text_iff (fun x => by cases x <;> simp) (fun x y => by cases x <;> cases y <;> decide) t x

theorem readMode_iff (t : Text) (x : CellMode) : [CellMode.level, .edge].find? (fun x => x.text == t) = some x ↔ t = x.text :=
  find_text_iff (fun x => by cases x <;> simp) (fun x y => by cases x <;> cases y <;> decide) t x

theorem readPolicy_iff (t : Text) (x : FlagPolicy) : [FlagPolicy.all, .validOnly].find? (fun x => x.text == t) = some x ↔ t = x.text :=
  find_text_iff (fun x => by cases x <;> simp) (fun x y => by cases x <;> cases y <;> decide) t x

theorem findKind_iff (t : Text) (x : EventKind) :
    [EventKind.dip, .swell, .interruption].find? (fun k => cellKindText k == t) = some x ↔ t = cellKindText x :=
  find_text_iff (fun x => by cases x <;> simp) (fun x y => by cases x <;> cases y <;> decide) t x

theorem findSelector_iff (t : Text) (x : Selector) :
    [Selector.one .l1, .one .l2, .one .l3, .any, .all].find? (fun x => x.text == t) = some x ↔ t = x.text := by
  have texts : Function.Injective Selector.text := by
    have all : ∀ x ∈ [Selector.one .l1, .one .l2, .one .l3, .any, .all], ∀ y ∈ [Selector.one .l1, .one .l2, .one .l3, .any, .all],
        x.text = y.text → x = y := by decide
    have whole : ∀ x, x ∈ [Selector.one .l1, .one .l2, .one .l3, .any, .all] := fun x => by
      rcases x with (p | _ | _)
      · cases p <;> simp
      all_goals simp
    exact fun x y => all x (whole x) y (whole y)
  refine find_text_iff (fun x => ?_) texts t x
  rcases x with (p | _ | _)
  · cases p <;> simp
  all_goals simp

theorem map_some_iff {α : Type} (o : Option α) (x : α) : o.map some = some (some x) ↔ o = some x := by
  cases o <;> simp

/-- The kind stands for EVT alone, and there alone it is given (R85). -/
theorem readKind_iff (source : CellSource) (t : Text) (k : Option EventKind) :
    readKind source t = some k ↔ (k.isSome ↔ source = .evt) ∧ t = optText cellKindText k := by
  unfold readKind
  by_cases chain : source = .evt
  · rw [if_pos chain]
    cases k with
    | none => simp [chain]
    | some x =>
      rw [map_some_iff, findKind_iff]
      simp [chain, optText]
  · rw [if_neg chain]
    cases k with
    | none => simp [chain, optText, absentText]
    | some x => simp [chain]

theorem CellSource.phases_iff (x : CellSource) : (x = .half ∨ x = .win ∨ x = .int) ↔ ¬ (x = .frq ∨ x = .evt) := by
  cases x <;> decide

/-- The selector stands for HALF, WIN and INT alone, and there alone it is given (R85). -/
theorem readSelector_iff (source : CellSource) (t : Text) (x : Option Selector) :
    readSelector source t = some x ↔
      (x.isSome ↔ source = .half ∨ source = .win ∨ source = .int) ∧ t = optText Selector.text x := by
  rw [source.phases_iff]
  unfold readSelector
  by_cases whole : source = .frq ∨ source = .evt
  · rw [if_pos whole]
    cases x with
    | none => simp [whole, optText, absentText]
    | some x => simp [whole]
  · rw [if_neg whole]
    cases x with
    | none => simp [whole]
    | some x =>
      rw [map_some_iff, findSelector_iff]
      simp [whole, optText]

/-- The fields of TLC for a cell and a configuration (R85). -/
def tlcFields (cell threshold mark : Text) (g : CellConfig) : List Text :=
  [cell, if g.enabled then "ON".toList else "OFF".toList, g.source.text, optText cellKindText g.kind,
    optText Selector.text g.selector, g.comparison.text, threshold, g.mode.text, g.policy.text, mark]

/-- The ten fields of TLC spell a cell and a configuration exactly where each has its form (R85). -/
theorem readTlcFields_iff (fields : List Text) (n : Nat) (g : CellConfig) : readTlcFields fields = some (n, g) ↔
    ∃ cell threshold mark, Decimal cell n ∧ Decimal threshold g.threshold ∧ Decimal mark g.mark ∧
      (g.kind.isSome ↔ g.source = .evt) ∧ (g.selector.isSome ↔ g.source = .half ∨ g.source = .win ∨ g.source = .int) ∧
      fields = tlcFields cell threshold mark g := by
  obtain ⟨enabled, source, kind, selector, comparison, threshold, mode, policy, mark⟩ := g
  constructor
  · intro reads
    unfold readTlcFields at reads
    split at reads
    case h_2 => cases reads
    simp only [Option.bind_eq_bind, Option.pure_def, Option.bind_eq_some_iff, Option.some_inj, Prod.mk.injEq,
      CellConfig.mk.injEq] at reads
    obtain ⟨i, hi, e, he, src, hsrc, k, hk, sel, hsel, c, hc, th, hth, m, hm, p, hp, mk, hmk, rfl, rfl, rfl, rfl, rfl, rfl, rfl,
      rfl, rfl, rfl⟩ := reads
    obtain ⟨kinds, rfl⟩ := (readKind_iff _ _ _).mp hk
    obtain ⟨selectors, rfl⟩ := (readSelector_iff _ _ _).mp hsel
    rw [readEnabled_iff] at he
    rw [readSource_iff] at hsrc
    rw [readComparison_iff] at hc
    rw [readMode_iff] at hm
    rw [readPolicy_iff] at hp
    subst he hsrc hc hm hp
    exact ⟨_, _, _, (readNat_iff _ _).mp hi, (readNat_iff _ _).mp hth, (readNat_iff _ _).mp hmk, kinds, selectors, rfl⟩
  · rintro ⟨cell, th, mk, cells, thresholds, marks, kinds, selectors, rfl⟩
    unfold readTlcFields tlcFields
    dsimp only
    rw [(readNat_iff _ _).mpr cells, (readNat_iff _ _).mpr thresholds, (readNat_iff _ _).mpr marks,
      (readEnabled_iff _ _).mpr rfl, (readSource_iff _ _).mpr rfl]
    simp only [Option.bind_eq_bind, Option.bind_some]
    rw [(readKind_iff _ _ _).mpr ⟨kinds, rfl⟩, (readSelector_iff _ _ _).mpr ⟨selectors, rfl⟩, (readComparison_iff _ _).mpr rfl,
      (readMode_iff _ _).mpr rfl, (readPolicy_iff _ _).mpr rfl]
    rfl

/-! ## The name of a cell (R86, R87) -/

theorem readCellName_general {f : Text} {n : Nat} (number : readNat f = some n) : readCellName f = some (.general n) := by
  unfold readCellName
  rw [number]

theorem readCellName_survey {digits : Text} {n : Nat} (number : readNat digits = some n) :
    readCellName ('S' :: digits) = some (.survey n) := by
  have letter : readNat ('S' :: digits) = none := if_neg fun h => absurd (List.all_eq_true.mp h.2 'S' List.mem_cons_self) (by decide)
  have reads : readSurveyCell ('S' :: digits) = some n := number
  unfold readCellName
  rw [letter]
  dsimp only
  rw [reads]
  rfl

theorem readCellName_other {f : Text} (number : readNat f = none) (letter : ∀ digits, f = 'S' :: digits → readNat digits = none) :
    readCellName f = none := by
  unfold readCellName readSurveyCell
  rw [number]
  dsimp only
  split
  case h_1 digits => rw [letter digits rfl]; rfl
  case h_2 => rfl

/-- A configuration is out of range where its threshold, its mark or the phase of its selector is (R78, R85). -/
theorem CellConfig.inRange_iff (c : CellConfig) (w : Wiring) : c.inRange w = true ↔
    ¬ ((if c.source = .frq then 70000 else 20000) < c.threshold ∨ 16777215 < c.mark ∨
      ∃ p, c.selector = some (.one p) ∧ wired w p = false) := by
  unfold CellConfig.inRange
  rw [Bool.and_eq_true, Bool.and_eq_true, decide_eq_true_eq, decide_eq_true_eq, not_or, not_or, not_lt, not_lt, and_assoc]
  refine and_congr_right fun _ => and_congr_right fun _ => ?_
  split
  case h_1 p one => simp [one]
  case h_2 other =>
    refine iff_of_true rfl fun ⟨p, one, _⟩ => other p one

theorem runTlr_name {f : Text} (s : State) : runCommand .tlr [f] s = match readCellName f with
    | some (.general i) => if i ≤ 11 then answer .ok ((cellAt s.tlb i).fields s.tlb.frozen) s else answer .rng [] s
    | some (.survey i) =>
      if i ≤ 5 then answer .ok [s.svc.survey.state.text, num ((s.tlb.survey.list[i]?).getD 0)] s else answer .rng [] s
    | none => answer .syn [] s := rfl

theorem runTlx_name {f : Text} (s : State) (name : f ≠ "ALL".toList) : runCommand .tlx [f] s = match readCellName f with
    | some (.general i) => if i ≤ 11 then answer .ok [] (putCell i (cellAt s.tlb i).cleared s) else answer .rng [] s
    | some (.survey _) => answer .rng [] s
    | none => answer .syn [] s := if_neg name

theorem number_ne_all {f : Text} {n : Nat} (number : readNat f = some n) : f ≠ "ALL".toList := by
  rintro rfl
  have letters : readNat "ALL".toList = none := by decide
  rw [letters] at number
  cases number

/-! ## The commands -/

/-- TLC's configuration taken (R85). -/
theorem tlc_taken {s : State} {n : Nat} {g : CellConfig} (free : s.LinkFree) (small : n ≤ 11)
    (range : g.inRange s.svc.active.wiring = true) (kinds : g.kind.isSome ↔ g.source = .evt)
    (selectors : g.selector.isSome ↔ g.source ≠ .frq ∧ g.source ≠ .evt) (wf : wellFormedFields (tlcFields (num n) (num g.threshold)
      (num g.mark) g) = true) :
    ∃ t, exec (.tlc (tlcFields (num n) (num g.threshold) (num g.mark) g)) s = .next t ∧ Answered t .tlc .ok [] ∧ LinkKept s t ∧
      t = { s with tlb := { s.tlb with cells := s.tlb.cells.set n ⟨g, 0, false, false, false, false⟩ }, hlk := t.hlk } := by
  have reads : readTlcFields (tlcFields (num n) (num g.threshold) (num g.mark) g) = some (n, g) :=
    (readTlcFields_iff _ n g).mpr ⟨_, _, _, (readNat_iff _ _).mp (readNat_num n), (readNat_iff _ _).mp (readNat_num _),
      (readNat_iff _ _).mp (readNat_num _), kinds, selectors.trans (by rw [g.source.phases_iff, not_or]), rfl⟩
  have runs : runCommand .tlc (tlcFields (num n) (num g.threshold) (num g.mark) g) (taken .tlc s) =
      answer .ok [] (putCell n (GeneralCell.configured g) (taken .tlc s)) := by
    show runTlc _ _ = _
    unfold runTlc
    rw [reads]
    exact if_pos ⟨small, range⟩
  obtain ⟨answered, kept, same⟩ := answer_after (u := putCell n (GeneralCell.configured g) (taken .tlc s)) free rfl .ok []
  refine ⟨_, exec_taken (i := .tlc _) rfl free wf, ?_⟩
  rw [runs]
  exact ⟨answered, kept, same⟩

theorem small_wellFormed : ∀ n ≤ 11, wellFormedFields [num n] = true ∧ wellFormedFields ['S' :: num n] = true := by decide

/-- TLR and TLX on the cells there are, and TLX on ALL (R86, R87). -/
theorem tlr_tlx_taken {s : State} (free : s.LinkFree) :
    (∀ n, n ≤ 11 → ∃ t, exec (.tlr [num n]) s = .next t ∧
       AnsweredOnly s t .tlr .ok ((cellAt s.tlb n).fields s.tlb.frozen)) ∧
    (∀ n, n ≤ 5 → ∃ t, exec (.tlr ['S' :: num n]) s = .next t ∧
       AnsweredOnly s t .tlr .ok [s.svc.survey.state.text, num ((s.tlb.survey.list[n]?).getD 0)]) ∧
    (∀ n, n ≤ 11 → ∃ t, exec (.tlx [num n]) s = .next t ∧ Answered t .tlx .ok [] ∧ LinkKept s t ∧
       t = { s with tlb := { s.tlb with cells := s.tlb.cells.set n (cellAt s.tlb n).cleared }, hlk := t.hlk }) ∧
    (∃ t, exec (.tlx ["ALL".toList]) s = .next t ∧ Answered t .tlx .ok [] ∧ LinkKept s t ∧
       t = { s with tlb := { s.tlb with cells := s.tlb.cells.map GeneralCell.cleared }, hlk := t.hlk }) := by
  refine ⟨fun n small => ?_, fun n small => ?_, fun n small => ?_, ?_⟩
  · refine exec_answers (i := .tlr _) rfl free (small_wellFormed n small).1 ?_
    rw [runTlr_name, readCellName_general (readNat_num n)]
    exact if_pos small
  · refine exec_answers (i := .tlr _) rfl free (small_wellFormed n (by omega)).2 ?_
    rw [runTlr_name, readCellName_survey (readNat_num n)]
    exact if_pos small
  · have runs : runCommand .tlx [num n] (taken .tlx s) = answer .ok [] (putCell n (cellAt s.tlb n).cleared (taken .tlx s)) := by
      rw [runTlx_name _ (number_ne_all (readNat_num n)), readCellName_general (readNat_num n)]
      exact if_pos small
    obtain ⟨answered, kept, same⟩ := answer_after (u := putCell n (cellAt s.tlb n).cleared (taken .tlx s)) free rfl .ok []
    refine ⟨_, exec_taken (i := .tlx _) rfl free (small_wellFormed n small).1, ?_⟩
    rw [runs]
    exact ⟨answered, kept, same⟩
  · have runs : runCommand .tlx ["ALL".toList] (taken .tlx s) =
        answer .ok [] { taken .tlx s with tlb := { s.tlb with cells := s.tlb.cells.map GeneralCell.cleared } } := rfl
    obtain ⟨answered, kept, same⟩ := answer_after (c := .tlx)
      (u := { taken .tlx s with tlb := { s.tlb with cells := s.tlb.cells.map GeneralCell.cleared } }) free rfl .ok []
    refine ⟨_, exec_taken (i := .tlx _) rfl free (by decide), ?_⟩
    rw [runs]
    exact ⟨answered, kept, same⟩

/-- TLC refused: SYN where its fields spell no configuration, RNG where one is out of range (R85). -/
theorem tlc_refused {s : State} {fields : List Text} (free : s.LinkFree) (wf : wellFormedFields fields = true) :
    (readTlcFields fields = none → ∃ t, exec (.tlc fields) s = .next t ∧ AnsweredOnly s t .tlc .syn []) ∧
    ∀ n g, readTlcFields fields = some (n, g) → ¬ (n ≤ 11 ∧ g.inRange s.svc.active.wiring = true) →
      ∃ t, exec (.tlc fields) s = .next t ∧ AnsweredOnly s t .tlc .rng [] := by
  refine ⟨fun reads => ?_, fun n g reads out => ?_⟩
  · refine exec_answers (i := .tlc _) rfl free wf ?_
    show runTlc _ _ = _
    unfold runTlc
    rw [reads]
  · refine exec_answers (i := .tlc _) rfl free wf ?_
    show runTlc _ _ = _
    unfold runTlc
    rw [reads]
    exact if_neg out

/-- TLR and TLX with fields that name no cell (R86, R87). -/
theorem tlr_tlx_unread {s : State} {fields : List Text} (free : s.LinkFree) (wf : wellFormedFields fields = true)
    (other : ∀ f, fields = [f] → readNat f = none ∧ ∀ digits, f = 'S' :: digits → readNat digits = none) :
    (∃ t, exec (.tlr fields) s = .next t ∧ AnsweredOnly s t .tlr .syn []) ∧
    (fields ≠ ["ALL".toList] → ∃ t, exec (.tlx fields) s = .next t ∧ AnsweredOnly s t .tlx .syn []) := by
  match fields with
  | [] => exact ⟨exec_answers (i := .tlr _) rfl free wf rfl, fun _ => exec_answers (i := .tlx _) rfl free wf rfl⟩
  | [f] =>
    have name := readCellName_other (other f rfl).1 (other f rfl).2
    refine ⟨exec_answers (i := .tlr _) rfl free wf ?_, fun some' => exec_answers (i := .tlx _) rfl free wf ?_⟩
    · rw [runTlr_name, name]
    · rw [runTlx_name _ (fun e => some' (congrArg (fun x => [x]) e)), name]
  | _ :: _ :: _ => exact ⟨exec_answers (i := .tlr _) rfl free wf rfl, fun _ => exec_answers (i := .tlx _) rfl free wf rfl⟩

/-- TLR and TLX on a cell there is none of, and TLX on a survey cell (R86, R87). -/
theorem tlr_tlx_outside {s : State} {f : Text} {n : Nat} (free : s.LinkFree) (wf : wellFormedFields [f] = true) :
    (readNat f = some n → 11 < n → (∃ t, exec (.tlr [f]) s = .next t ∧ AnsweredOnly s t .tlr .rng []) ∧
      ∃ t, exec (.tlx [f]) s = .next t ∧ AnsweredOnly s t .tlx .rng []) ∧
    ∀ digits, f = 'S' :: digits → readNat digits = some n →
      (5 < n → ∃ t, exec (.tlr [f]) s = .next t ∧ AnsweredOnly s t .tlr .rng []) ∧
      ∃ t, exec (.tlx [f]) s = .next t ∧ AnsweredOnly s t .tlx .rng [] := by
  refine ⟨fun number large => ?_, fun digits letter number => ?_⟩
  · refine ⟨exec_answers (i := .tlr _) rfl free wf ?_, exec_answers (i := .tlx _) rfl free wf ?_⟩
    · rw [runTlr_name, readCellName_general number]
      exact if_neg (by omega)
    · rw [runTlx_name _ (number_ne_all number), readCellName_general number]
      exact if_neg (by omega)
  · subst letter
    refine ⟨fun large => exec_answers (i := .tlr _) rfl free wf ?_, exec_answers (i := .tlx _) rfl free wf ?_⟩
    · rw [runTlr_name, readCellName_survey number]
      exact if_neg (by omega)
    · rw [runTlx_name _ (by rintro ⟨⟩), readCellName_survey number]

/-- The words that TLC's fields are (R78, R85). -/
theorem tlcFields_spelled (cell threshold mark : Text) (g : CellConfig) : tlcFields cell threshold mark g =
    [cell, if g.enabled then "ON".toList else "OFF".toList,
      (match g.source with
        | .half => "HALF".toList
        | .win => "WIN".toList
        | .int => "INT".toList
        | .frq => "FRQ".toList
        | .evt => "EVT".toList),
      (match g.kind with
        | none => []
        | some .dip => "DIP".toList
        | some .swell => "SWELL".toList
        | some .interruption => "INT".toList),
      (match g.selector with
        | none => []
        | some (.one .l1) => ['1']
        | some (.one .l2) => ['2']
        | some (.one .l3) => ['3']
        | some .any => "ANY".toList
        | some .all => "ALL".toList),
      (match g.comparison with
        | .above => "ABOVE".toList
        | .below => "BELOW".toList),
      threshold,
      (match g.mode with
        | .level => "LEVEL".toList
        | .edge => "EDGE".toList),
      (match g.policy with
        | .all => "ALL".toList
        | .validOnly => "VALID_ONLY".toList),
      mark] := by
  obtain ⟨enabled, source, kind, selector, comparison, th, mode, policy, mk⟩ := g
  have kinds : optText cellKindText kind = (match kind with
      | none => []
      | some .dip => "DIP".toList
      | some .swell => "SWELL".toList
      | some .interruption => "INT".toList) := by
    rcases kind with (_ | kind)
    · rfl
    · cases kind <;> rfl
  have selectors : optText Selector.text selector = (match selector with
      | none => []
      | some (.one .l1) => ['1']
      | some (.one .l2) => ['2']
      | some (.one .l3) => ['3']
      | some .any => "ANY".toList
      | some .all => "ALL".toList) := by
    rcases selector with (_ | (p | _ | _))
    · rfl
    · cases p <;> rfl
    all_goals rfl
  unfold tlcFields
  dsimp only
  rw [kinds, selectors]
  rfl

/-- Settles O25. -/
theorem tlcTlrAndTlxServeTheCells : Obligations.TlcTlrAndTlxServeTheCells := by
  refine ⟨fun s n g free small range kinds selectors wf => tlc_taken free small range kinds selectors wf,
    fun s free => tlr_tlx_taken free, fun s fields free wf => ?_⟩
  refine ⟨(tlc_refused free wf).1, fun n g => ?_, fun n g reads out => ?_, tlr_tlx_unread free wf, fun f n name => ?_,
    fun digits n name => ?_⟩
  · simp only [readTlcFields_iff, tlcFields_spelled]
    rfl
  · refine (tlc_refused free wf).2 n g reads fun inside => ?_
    rcases out with large | out
    · omega
    · exact (g.inRange_iff _).mp inside.2 out
  · subst name
    exact (tlr_tlx_outside free wf).1
  · subst name
    exact (tlr_tlx_outside free wf).2 digits rfl

end Sys2Proof.Machine
end

section
/-! Texts cut at a separator and joined again. -/

namespace Sys2Proof.Machine

theorem joinText_eq_intercalate (sep : Char) (parts : List Text) : joinText sep parts = List.intercalate [sep] parts := by
  induction parts with
  | nil => rfl
  | cons t rest ih =>
    cases rest with
    | nil => simp [joinText, List.intercalate]
    | cons u more =>
      rw [joinText, ih]
      · simp [List.intercalate, List.intersperse]
      · simp

theorem splitText_ne_nil (sep : Char) (t : Text) : splitText sep t ≠ [] := by
  cases t with
  | nil => simp [splitText]
  | cons c rest =>
    unfold splitText
    split
    · simp
    · split <;> simp

/-- Joining what a text was cut into gives the text. -/
theorem joinText_splitText (sep : Char) (t : Text) : joinText sep (splitText sep t) = t := by
  induction t with
  | nil => rfl
  | cons c rest ih =>
    unfold splitText
    split
    case isTrue same =>
      rw [joinText, ih, same]
      · rfl
      · exact splitText_ne_nil sep rest
    case isFalse =>
      split
      case h_1 none => exact absurd none (splitText_ne_nil sep rest)
      case h_2 u more cut =>
        rw [cut] at ih
        rw [← ih]
        cases more <;> rfl

theorem splitText_cons {sep c : Char} (other : c ≠ sep) {rest u : Text} {more : List Text} (cut : splitText sep rest = u :: more) :
    splitText sep (c :: rest) = (c :: u) :: more := by
  rw [splitText, if_neg other, cut]

/-- A text without the separator before it, and what it is cut into after it. -/
theorem splitText_append {sep : Char} {t : Text} (whole : sep ∉ t) (rest : Text) :
    splitText sep (t ++ sep :: rest) = t :: splitText sep rest := by
  induction t with
  | nil => simp [splitText]
  | cons c more ih =>
    obtain ⟨other, whole⟩ := not_or.mp (fun h => whole (List.mem_cons.mpr h))
    exact splitText_cons (fun e => other e.symm) (ih whole)

theorem splitText_whole {sep : Char} {t : Text} (whole : sep ∉ t) : splitText sep t = [t] := by
  induction t with
  | nil => rfl
  | cons c more ih =>
    obtain ⟨other, whole⟩ := not_or.mp (fun h => whole (List.mem_cons.mpr h))
    exact splitText_cons (fun e => other e.symm) (ih whole)

/-- Texts without the separator, joined and cut, are the same texts. -/
theorem splitText_joinText {sep : Char} {parts : List Text} (some' : parts ≠ []) (whole : ∀ t ∈ parts, sep ∉ t) :
    splitText sep (joinText sep parts) = parts := by
  induction parts with
  | nil => exact absurd rfl some'
  | cons t rest ih =>
    cases rest with
    | nil => exact splitText_whole (whole t List.mem_cons_self)
    | cons u more =>
      rw [joinText]
      · rw [splitText_append (whole t List.mem_cons_self), ih (by simp) (fun v h => whole v (List.mem_cons_of_mem t h))]
      · simp

end Sys2Proof.Machine
end

section
/-! IDN, LNK and STA (O54). -/

namespace Sys2Proof.Machine

/-! ## The notice mask (R185, R197) -/

theorem noticeKindOf_iff (t : Text) (k : NoticeKind) : noticeKindOf t = some k ↔ t = k.text :=
  find_text_iff (fun k => by cases k <;> simp [allNoticeKinds])
    (by
      have all : ∀ k ∈ allNoticeKinds, ∀ l ∈ allNoticeKinds, k.text = l.text → k = l := by decide
      have whole : ∀ k, k ∈ allNoticeKinds := fun k => by cases k <;> simp [allNoticeKinds]
      exact fun k l => all k (whole k) l (whole l)) t k

theorem mem_allNoticeKinds (k : NoticeKind) : k ∈ allNoticeKinds := by cases k <;> simp [allNoticeKinds]

theorem NoticeMask.has_ofPred (f : NoticeKind → Bool) (k : NoticeKind) : (NoticeMask.ofPred f).has k = f k := by
  cases k <;> rfl

/-- A mask is the kinds that it has. -/
theorem NoticeMask.eq_ofPred_iff (m : NoticeMask) (f : NoticeKind → Bool) : m = NoticeMask.ofPred f ↔ ∀ k, m.has k = f k := by
  constructor
  · rintro rfl
    exact NoticeMask.has_ofPred f
  · intro same
    obtain ⟨evo, evc, ivc, svn, phn, tqn, stn, tkn, pwn⟩ := m
    simp only [NoticeMask.ofPred, ← same, NoticeMask.has]

theorem mapM_noticeKindOf (parts : List Text) (kinds : List NoticeKind) :
    parts.mapM noticeKindOf = some kinds ↔ parts = kinds.map NoticeKind.text := by
  induction parts generalizing kinds with
  | nil => cases kinds <;> simp
  | cons t rest ih =>
    rw [List.mapM_cons]
    cases kinds with
    | nil => simp [Option.bind_eq_some_iff]
    | cons k more => simp [Option.bind_eq_some_iff, noticeKindOf_iff, ih]

/-- No mnemonic holds the separator of a mask. -/
theorem kinds_whole (kinds : List NoticeKind) : ∀ t ∈ kinds.map NoticeKind.text, '/' ∉ t := by
  intro t h
  obtain ⟨k, _, rfl⟩ := List.mem_map.mp h
  cases k <;> decide

/-- The mask field is NONE, ALL or some mnemonics, none given twice (R197). -/
theorem readMask_iff (t : Text) (m : NoticeMask) : readMask t = some m ↔
    t = "NONE".toList ∧ (∀ k, m.has k = false) ∨ t = "ALL".toList ∧ (∀ k, m.has k = true) ∨
      ∃ kinds : List NoticeKind, kinds ≠ [] ∧ kinds.Nodup ∧ t = List.intercalate ['/'] (kinds.map NoticeKind.text) ∧
        ∀ k, m.has k = true ↔ k ∈ kinds := by
  have lists : ∀ kinds : List NoticeKind, kinds ≠ [] →
      (splitText '/' t).mapM noticeKindOf = some kinds → t = List.intercalate ['/'] (kinds.map NoticeKind.text) := by
    intro kinds _ reads
    rw [← joinText_eq_intercalate, ← (mapM_noticeKindOf _ _).mp reads, joinText_splitText]
  have reads : ∀ kinds : List NoticeKind, kinds ≠ [] → t = List.intercalate ['/'] (kinds.map NoticeKind.text) →
      (splitText '/' t).mapM noticeKindOf = some kinds := by
    rintro kinds some' rfl
    rw [mapM_noticeKindOf, ← joinText_eq_intercalate]
    exact splitText_joinText (by simpa using some') (kinds_whole kinds)
  have has : ∀ kinds : List NoticeKind, m = NoticeMask.ofPred (fun k => kinds.contains k) ↔ ∀ k, m.has k = true ↔ k ∈ kinds := by
    intro kinds
    rw [NoticeMask.eq_ofPred_iff]
    exact forall_congr' fun k => by rw [Bool.eq_iff_iff, List.contains_iff_mem]
  have whole : ∀ word kinds, (splitText '/' word).mapM noticeKindOf = none → kinds ≠ [] →
      t = List.intercalate ['/'] (kinds.map NoticeKind.text) → t ≠ word := by
    rintro word kinds none some' form rfl
    rw [reads kinds some' form] at none
    cases none
  unfold readMask
  by_cases nothing : t = "NONE".toList
  · rw [if_pos nothing, Option.some_inj, eq_comm, NoticeMask.eq_ofPred_iff]
    refine ⟨fun h => .inl ⟨nothing, h⟩, ?_⟩
    rintro (⟨_, h⟩ | ⟨all, _⟩ | ⟨kinds, some', _, form, _⟩)
    · exact h
    · exact absurd (nothing.symm.trans all) (by decide)
    · exact absurd nothing (whole _ kinds (by decide) some' form)
  rw [if_neg nothing]
  by_cases all : t = "ALL".toList
  · rw [if_pos all, Option.some_inj, eq_comm, NoticeMask.eq_ofPred_iff]
    refine ⟨fun h => .inr (.inl ⟨all, h⟩), ?_⟩
    rintro (⟨none, _⟩ | ⟨_, h⟩ | ⟨kinds, some', _, form, _⟩)
    · exact absurd none nothing
    · exact h
    · exact absurd all (whole _ kinds (by decide) some' form)
  rw [if_neg all]
  constructor
  · intro h
    obtain ⟨kinds, found, h⟩ := Option.bind_eq_some_iff.mp h
    split at h
    case isFalse => cases h
    case isTrue once =>
      have some' : kinds ≠ [] := by
        rintro rfl
        have none := (mapM_noticeKindOf _ _).mp found
        exact splitText_ne_nil '/' t (by simpa using none)
      exact .inr (.inr ⟨kinds, some', once, lists kinds some' found, (has kinds).mp (Option.some_inj.mp h).symm⟩)
  · rintro (⟨none, _⟩ | ⟨every, _⟩ | ⟨kinds, some', once, form, h⟩)
    · exact absurd none nothing
    · exact absurd every all
    · rw [reads kinds some' form, (has kinds).mpr h]
      exact if_pos once

/-- A mask written is read back (R197). -/
theorem readMask_text (m : NoticeMask) : readMask m.text = some m := by
  have listed : ∀ k, k ∈ allNoticeKinds.filter m.has ↔ m.has k = true := fun k => by simp [mem_allNoticeKinds]
  rw [readMask_iff]
  unfold NoticeMask.text
  split
  case h_1 none =>
    refine .inl ⟨rfl, fun k => ?_⟩
    rw [← Bool.not_eq_true, ← listed, none]
    exact List.not_mem_nil
  case h_2 kinds some' =>
    by_cases all : (allNoticeKinds.filter m.has).length = 9
    · rw [if_pos all]
      have every : allNoticeKinds.filter m.has = allNoticeKinds := List.filter_eq_self.mpr (List.length_filter_eq_length_iff.mp all)
      refine .inr (.inl ⟨rfl, fun k => ?_⟩)
      rw [← listed, every]
      exact mem_allNoticeKinds k
    · rw [if_neg all, joinText_eq_intercalate]
      exact .inr (.inr ⟨_, fun none => some' none, List.Nodup.filter _ (by decide), rfl, fun k => (listed k).symm⟩)

/-! ## The link settings (R197) -/

theorem readLink_iff (fields : List Text) (l : LinkSettings) : readLink fields = some l ↔ ∃ rate station delay mask,
    fields = [rate, station, delay, mask] ∧ Decimal rate l.rate ∧ Decimal station l.station ∧ Decimal delay l.delay ∧
      readMask mask = some l.mask := by
  constructor
  · intro reads
    unfold readLink at reads
    split at reads
    case h_2 => cases reads
    case h_1 rate station delay mask =>
      split at reads
      case h_2 => cases reads
      case h_1 r st d m hr hst hd hm =>
        cases reads
        exact ⟨_, _, _, _, rfl, (readNat_iff _ _).mp hr, (readNat_iff _ _).mp hst, (readNat_iff _ _).mp hd, hm⟩
  · rintro ⟨rate, station, delay, mask, rfl, hr, hst, hd, hm⟩
    unfold readLink
    dsimp only
    rw [(readNat_iff _ _).mpr hr, (readNat_iff _ _).mpr hst, (readNat_iff _ _).mpr hd, hm]

theorem readLink_fields (l : LinkSettings) : readLink l.fields = some l :=
  (readLink_iff _ l).mpr ⟨_, _, _, _, rfl, (readNat_iff _ _).mp (readNat_num _), (readNat_iff _ _).mp (readNat_num _),
    (readNat_iff _ _).mp (readNat_num _), readMask_text l.mask⟩

/-- An LNK accepted: its reply, with the settings that are to take effect (R191, R197). -/
theorem placeReply_link {s : State} (c : Command) (free : s.hlk.inProgress = none) (fields : List Text) (l : LinkSettings) :
    let t := placeReply c.text .ok fields (some l) (taken c s)
    (∃ eligible, t.hlk.reply = some ⟨c.text, .ok, fields, s.tmb.tick, (s.hlk.settings.delay * 32768 + 999) / 1000, eligible, some l⟩) ∧
      t.hlk.inProgress = none ∧ LinkKept s t ∧ t = { s with hlk := t.hlk } := by
  intro t
  let placed : State := { s with hlk := { s.hlk with
    reception := none
    inProgress := none
    reply := some ⟨c.text, .ok, fields, s.tmb.tick, delayTicks s.hlk.settings.delay, false, some l⟩ } }
  have whole : t = transmit placed := rfl
  obtain ⟨eligible, reply⟩ := transmit_reply (s := placed) rfl
  obtain ⟨settings, mark, adoption, buffer, reception, inProgress, notices, _⟩ := transmit_link placed
  have others := transmit_others placed
  have busy : s.hlk.transmitter ≠ .idle → transmit placed = placed := fun h => transmit_busy h
  rw [whole]
  refine ⟨⟨eligible, reply⟩, inProgress, ⟨settings, mark, adoption, buffer, reception, notices, fun h => ?_⟩, others⟩
  rw [busy h]
  show ({ s.hlk with reception := none, inProgress := none, reply := _ } : Hlk) = _
  rw [← free]

/-- STA wherever the link is on (R198). -/
theorem exec_sta {s : State} {fields : List Text} (on : linkOn s = true) (free : s.hlk.inProgress = none)
    (slot : s.hlk.reply = none) (buffer : s.hlk.buffer = []) (wf : wellFormedFields fields = true) :
    exec (.sta fields) s = .next (runSta fields (taken .sta s)) := by
  have once : takenAtOnce fields s = true := by simp [takenAtOnce, canTake, free, slot, buffer, wf]
  rw [exec_request (i := .sta fields) rfl]
  unfold request
  rw [if_neg (by simp [on]), if_pos once]
  exact congrArg Host.Outcome.next (if_neg fun h => h.2 rfl)

/-- Settles O54. -/
theorem idnLnkAndStaAnswerForTheLink : Obligations.IdnLnkAndStaAnswerForTheLink := by
  refine ⟨fun s fields free wf => ?_, fun s free => ?_, fun s l free range wf => ?_, fun s fields free wf some' => ?_,
    fun s fields on free slot buffer wf => ?_⟩
  · by_cases empty : fields = []
    · subst empty
      obtain ⟨t, done, only⟩ := exec_answers (i := .idn []) (status := .ok) (reply := idnFields) rfl free wf rfl
      exact ⟨t, done, by rw [if_neg (by simp)]; exact only⟩
    · obtain ⟨t, done, only⟩ := exec_answers (i := .idn fields) (status := .syn) (reply := []) rfl free wf (if_pos empty)
      exact ⟨t, done, by rw [if_pos empty]; exact only⟩
  · exact exec_answers (i := .lnk []) rfl free (by decide) rfl
  · have runs : runCommand .lnk l.fields (taken .lnk s) = placeReply Command.lnk.text .ok l.fields (some l) (taken .lnk s) := by
      show runLnk _ _ = _
      unfold runLnk
      rw [if_neg (by simp [LinkSettings.fields]), readLink_fields]
      exact if_pos range
    obtain ⟨⟨eligible, reply⟩, rest⟩ := placeReply_link .lnk free.inProgress l.fields l
    rw [← runs] at reply rest
    exact ⟨_, eligible, exec_taken (i := .lnk _) rfl free wf, reply, rest⟩
  · refine ⟨fun l => ?_, by decide, fun reads => ?_, fun l reads out => ?_⟩
    · simp only [readLink_iff, readMask_iff]
      rfl
    · refine exec_answers (i := .lnk _) rfl free wf ?_
      show runLnk _ _ = _
      unfold runLnk
      rw [if_neg some', reads]
    · refine exec_answers (i := .lnk _) rfl free wf ?_
      show runLnk _ _ = _
      unfold runLnk
      rw [if_neg some', reads]
      exact if_neg (by simp [out])
  · refine ⟨_, exec_sta on free slot buffer wf, ?_⟩
    unfold runSta
    by_cases empty : fields = []
    · rw [if_neg (not_not.mpr empty), if_neg (not_not.mpr empty)]
      exact answer_only .ok _ free
    · rw [if_pos empty, if_pos empty]
      exact answer_only .syn [] free

end Sys2Proof.Machine
end

section
/-! A request frame read back (O55). -/

namespace Sys2Proof.Machine

theorem mem_allCommands (c : Command) : c ∈ allCommands := by cases c <;> simp [allCommands]

/-- A command's name: three letters, read as the command. -/
theorem command_text (c : Command) : c.text.length = 3 ∧ c.text.all isUpper = true ∧ c.text.all isPrintable = true ∧
    commandOf c.text = some c := by
  have all : ∀ c ∈ allCommands, c.text.length = 3 ∧ c.text.all isUpper = true ∧ c.text.all isPrintable = true ∧
      commandOf c.text = some c := by decide
  exact all c (mem_allCommands c)

theorem hexDigit_isHex {n : Nat} (small : n < 16) : isHex (hexDigit n) = true ∧ isPrintable (hexDigit n) = true := by
  have all : ∀ n < 16, isHex (hexDigit n) = true ∧ isPrintable (hexDigit n) = true := by decide
  exact all n small

/-- A check is two printable hexadecimal digits (R187). -/
theorem frameCheck_form (checked : Text) : (frameCheck checked).length = 2 ∧ (frameCheck checked).all isHex = true ∧
    (frameCheck checked).all isPrintable = true := by
  unfold frameCheck hexByte
  generalize (checked.map Char.toNat).sum % 256 = b
  obtain ⟨high, highPrints⟩ := hexDigit_isHex (n := b / 16 % 16) (by omega)
  obtain ⟨low, lowPrints⟩ := hexDigit_isHex (n := b % 16) (by omega)
  simp [high, low, highPrints, lowPrints]

theorem isPrintable_of_fieldChar {c : Char} (h : fieldChar c = true) : isPrintable c = true := by
  simp only [Bool.and_eq_true] at h
  obtain ⟨⟨range, _⟩, _⟩ := h
  unfold isPrintable
  rw [Bool.and_eq_true]
  exact range

theorem joinText_mem {sep c : Char} {parts : List Text} (h : c ∈ joinText sep parts) : c = sep ∨ ∃ t ∈ parts, c ∈ t := by
  induction parts with
  | nil => exact absurd h List.not_mem_nil
  | cons t rest ih =>
    cases rest with
    | nil => exact .inr ⟨t, List.mem_cons_self, h⟩
    | cons u more =>
      have cut : joinText sep (t :: u :: more) = t ++ sep :: joinText sep (u :: more) := rfl
      rw [cut] at h
      rcases List.mem_append.mp h with here | h
      · exact .inr ⟨t, List.mem_cons_self, here⟩
      rcases List.mem_cons.mp h with here | h
      · exact .inl here
      rcases ih h with here | ⟨v, mem, here⟩
      · exact .inl here
      · exact .inr ⟨v, List.mem_cons_of_mem t mem, here⟩

/-- Fields that a request can carry: no separator in any, and not one empty field alone (R190). -/
theorem wellFormed_fields {fields : List Text} (wf : wellFormedFields fields = true) :
    (∀ f ∈ fields, ',' ∉ f) ∧ fields ≠ [[]] ∧ ∀ f ∈ fields, ∀ c ∈ f, isPrintable c = true := by
  simp only [Bool.and_eq_true] at wf
  obtain ⟨⟨chars, lone⟩, _⟩ := wf
  have each : ∀ f ∈ fields, ∀ c ∈ f, fieldChar c = true := fun f h c hc =>
    List.all_eq_true.mp (List.all_eq_true.mp chars f h) c hc
  refine ⟨fun f h mem => ?_, by simpa using lone, fun f h c hc => isPrintable_of_fieldChar (each f h c hc)⟩
  exact absurd (each f h ',' mem) (by decide)

/-- What follows the command is read as the fields (R190, R201). -/
theorem readFields_written {fields : List Text} (wf : wellFormedFields fields = true) :
    readFields (if fields = [] then [] else ' ' :: joinText ',' fields) = some fields := by
  obtain ⟨whole, lone, _⟩ := wellFormed_fields wf
  by_cases empty : fields = []
  · rw [if_pos empty, empty]
    rfl
  rw [if_neg empty]
  have cut := splitText_joinText empty whole
  unfold readFields
  split
  case h_1 none => cases none
  case h_2 none =>
    obtain nothing : joinText ',' fields = [] := by simpa using none
    rw [nothing] at cut
    exact absurd cut.symm lone
  case h_3 t _ written =>
    obtain rfl : joinText ',' fields = t := by simpa using written
    rw [cut]
  case h_4 _ _ other => exact absurd rfl (other _)

/-- A frame in its form is read by its command and its fields (R190). -/
theorem readFrame_form {f : Frame} {content : Text} {c : Command} {fields : List Text}
    (body : f.body = content ++ '|' :: frameCheck (twoDigits f.station ++ content ++ ['|'])) (short : f.overLong = false)
    (prints : content.all isPrintable = true) (command : content.take 3 = c.text)
    (reads : readFields (content.drop 3) = some fields) : readFrame f = .request c fields := by
  obtain ⟨length, hex, checkPrints⟩ := frameCheck_form (twoDigits f.station ++ content ++ ['|'])
  obtain ⟨letters, upper, _, known⟩ := command_text c
  have size : f.body.length - 3 = content.length := by
    rw [body, List.length_append, List.length_cons, length]
    omega
  have front : f.body.take (f.body.length - 3) = content := by
    rw [size, body]
    exact List.take_left' rfl
  have back : f.body.drop (f.body.length - 3) = '|' :: frameCheck (twoDigits f.station ++ content ++ ['|']) := by
    rw [size, body]
    exact List.drop_left' rfl
  have bodyPrints : f.body.all isPrintable = true := by
    rw [body, List.all_append, List.all_cons, prints, checkPrints]
    decide
  unfold readFrame
  dsimp only
  rw [front, back, if_neg (by simp [short]), if_neg, if_neg, if_neg, reads, command, known]
  · simp only [not_not, command]
    exact ⟨letters, upper⟩
  · simp
  · simp only [not_not, List.length_cons, length, List.head?_cons, List.drop_succ_cons, List.drop_zero]
    exact ⟨trivial, trivial, hex, bodyPrints⟩

/-- Settles O55. -/
theorem requestFrameReadsBack : Obligations.RequestFrameReadsBack := by
  intro station c fields wf
  obtain ⟨length, upper, prints, known⟩ := command_text c
  obtain ⟨_, _, printable⟩ := wellFormed_fields wf
  refine readFrame_form (content := requestContent c fields) ?_ rfl ?_ (List.take_left' length) ?_
  · show requestContent c fields ++ ['|'] ++ frameCheck (twoDigits station ++ (requestContent c fields ++ ['|'])) = _
    rw [List.append_assoc, List.append_assoc]
    rfl
  · unfold requestContent
    rw [List.all_append, prints, Bool.true_and]
    split
    · rfl
    · rw [List.all_cons, List.all_eq_true.mpr]
      · decide
      · intro x h
        rcases joinText_mem h with rfl | ⟨f, mem, here⟩
        · decide
        · exact printable f mem x here
  · show readFields (List.drop 3 (c.text ++ _)) = _
    rw [List.drop_left' length]
    exact readFields_written wf

end Sys2Proof.Machine
end

section
/-! SET (O27). -/

namespace Sys2Proof.Machine

/-! ## The fields of SET (R97, R98) -/

/-- A signed decimal number (R98). -/
def SignedDecimal (f : Text) (v : Int) : Prop :=
  (∃ n : Nat, Decimal f n ∧ v = n) ∨ ∃ (more : Text) (n : Nat), f = '-' :: more ∧ Decimal more n ∧ v = -(n : Int)

theorem map_cast_iff (f : Text) (v : Int) : (readNat f).map (fun n => (n : Int)) = some v ↔ ∃ n : Nat, Decimal f n ∧ v = n := by
  simp only [← readNat_iff]
  cases readNat f with
  | none => simp
  | some n => simp [eq_comm]

theorem readInt_iff (f : Text) (v : Int) : readInt f = some v ↔ SignedDecimal f v := by
  unfold SignedDecimal readInt
  split
  case h_1 more =>
    have unsigned : ¬ ∃ n : Nat, Decimal ('-' :: more) n ∧ v = n := fun ⟨n, ⟨_, digits, _⟩, _⟩ =>
      absurd ((isDigit_iff '-').mpr (digits '-' List.mem_cons_self)) (by decide)
    rw [or_iff_right unsigned]
    simp only [← readNat_iff, List.cons.injEq, true_and, exists_and_left, exists_eq_left']
    cases readNat more with
    | none => simp
    | some n => simp [eq_comm]
  case h_2 other =>
    have signed : ¬ ∃ (more : Text) (n : Nat), f = '-' :: more ∧ Decimal more n ∧ v = -(n : Int) :=
      fun ⟨more, _, same, _⟩ => other more same
    rw [or_iff_left signed]
    exact map_cast_iff f v

/-- The form of a setting's value (R98). -/
def Setting.Form (n : Setting) (f : Text) (v : Int) : Prop :=
  match n with
  | .wiring => v = if f = "W3".toList then 3 else if f = "W1".toList then 1 else 0
  | .o1 => SignedDecimal f v
  | .o2 => SignedDecimal f v
  | .o3 => SignedDecimal f v
  | _ => ∃ k : Nat, Decimal f k ∧ v = k

theorem Setting.readValue_iff (n : Setting) (f : Text) (v : Int) : n.readValue f = some v ↔ n.Form f v := by
  cases n
  case wiring => exact Option.some_inj.trans eq_comm
  case o1 => exact readInt_iff f v
  case o2 => exact readInt_iff f v
  case o3 => exact readInt_iff f v
  all_goals exact map_cast_iff f v

theorem splitAssignment_parts {t name value : Text} (cut : splitAssignment t = some (name, value)) : t = name ++ '=' :: value := by
  induction t generalizing name with
  | nil => cases cut
  | cons c rest ih =>
    unfold splitAssignment at cut
    split at cut
    case isTrue same =>
      cases cut
      rw [same]
      rfl
    case isFalse =>
      obtain ⟨p, found, pair⟩ := Option.map_eq_some_iff.mp cut
      cases pair
      rw [ih found]
      rfl

theorem setting_plain (n : Setting) : n.text.all (fun c => c != '=') = true := by cases n <;> decide

/-- One field of SET: a name, '=' and a value of its form (R98). -/
theorem readAssignment_iff (t : Text) (nv : Setting × Int) : readAssignment t = some nv ↔
    ∃ value, t = nv.1.text ++ '=' :: value ∧ nv.1.Form value nv.2 := by
  obtain ⟨n, v⟩ := nv
  constructor
  · intro reads
    obtain ⟨⟨name, value⟩, cut, rest⟩ := Option.bind_eq_some_iff.mp reads
    obtain ⟨m, named, rest⟩ := Option.bind_eq_some_iff.mp rest
    obtain ⟨w, valued, rest⟩ := Option.bind_eq_some_iff.mp rest
    cases rest
    refine ⟨value, ?_, (Setting.readValue_iff _ _ _).mp valued⟩
    rw [text_of_settingOf named]
    exact splitAssignment_parts cut
  · rintro ⟨value, rfl, form⟩
    refine Option.bind_eq_some_iff.mpr ⟨_, splitAssignment_of_name (setting_plain n), ?_⟩
    refine Option.bind_eq_some_iff.mpr ⟨n, settingOf_text n, ?_⟩
    exact Option.bind_eq_some_iff.mpr ⟨v, (Setting.readValue_iff _ _ _).mpr form, rfl⟩

theorem mapM_some_iff {α β : Type} (f : α → Option β) (xs : List α) (ys : List β) :
    xs.mapM f = some ys ↔ List.Forall₂ (fun x y => f x = some y) xs ys := by
  induction xs generalizing ys with
  | nil => cases ys <;> simp
  | cons x rest ih =>
    rw [List.mapM_cons]
    cases ys with
    | nil => simp [Option.bind_eq_some_iff]
    | cons y more => simp [Option.bind_eq_some_iff, ih]

/-- The fields of SET: one or more, each an assignment, no name twice (R98). -/
theorem readAssignments_iff (fields : List Text) (values : List (Setting × Int)) : readAssignments fields = some values ↔
    fields ≠ [] ∧ (values.map Prod.fst).Nodup ∧
      List.Forall₂ (fun field nv => ∃ value, field = nv.1.text ++ '=' :: value ∧ nv.1.Form value nv.2) fields values := by
  have each : List.Forall₂ (fun field nv => readAssignment field = some nv) fields values ↔
      List.Forall₂ (fun field nv => ∃ value, field = nv.1.text ++ '=' :: value ∧ nv.1.Form value nv.2) fields values := by
    simp only [readAssignment_iff]
  rw [← each, ← mapM_some_iff]
  constructor
  · intro reads
    obtain ⟨found, mapped, rest⟩ := Option.bind_eq_some_iff.mp reads
    split at rest
    case isTrue both =>
      cases rest
      exact ⟨both.1, both.2, mapped⟩
    case isFalse => cases rest
  · rintro ⟨some', once, mapped⟩
    exact Option.bind_eq_some_iff.mpr ⟨values, mapped, if_pos ⟨some', once⟩⟩

/-! ## The staged set (R100) -/

/-- The value of a name in a list with one entry at most for each of some names. -/
theorem valueGiven_filterMap (f : Setting → Option Int) {names : List Setting} (n : Setting) (mem : n ∈ names) (once : names.Nodup) :
    valueGiven (names.filterMap (fun m => (f m).map (fun v => (m, v)))) n = f n := by
  induction names with
  | nil => exact absurd mem List.not_mem_nil
  | cons m rest ih =>
    obtain ⟨new, once⟩ := List.nodup_cons.mp once
    have absent : n ∉ rest → valueGiven (rest.filterMap (fun m => (f m).map (fun v => (m, v)))) n = none := by
      intro out
      refine congrArg (Option.map Prod.snd) (List.find?_eq_none.mpr fun nv h => ?_)
      obtain ⟨k, inside, entry⟩ := List.mem_filterMap.mp h
      obtain ⟨v, _, rfl⟩ := Option.map_eq_some_iff.mp entry
      simp only [beq_iff_eq]
      rintro rfl
      exact out inside
    rw [List.filterMap_cons]
    by_cases same : n = m
    · subst same
      cases given : f n with
      | none => exact absent new
      | some v => simp [valueGiven]
    · have later := ih (List.mem_of_ne_of_mem same mem) once
      cases f m with
      | none => exact later
      | some v =>
        rw [← later]
        exact congrArg (Option.map Prod.snd) (List.find?_cons_of_neg (by simpa using fun e => same e.symm))

theorem mem_allSettings (n : Setting) : n ∈ allSettings := by cases n <;> simp [allSettings]

/-- The staged set with a SET's values entered (R100). -/
theorem stageValues_eq (staged values : List (Setting × Int)) : stageValues staged values =
    allSettings.filterMap (fun n => ((valueGiven values n).or (valueGiven staged n)).map (fun v => (n, v))) := by
  unfold stageValues
  congr 1
  funext n
  cases valueGiven values n <;> rfl

theorem surveyLocks_iff (s : State) : surveyLocks s = true ↔ s.svc.survey.state = .armed ∨ s.svc.survey.state = .running := by
  unfold surveyLocks
  rw [Bool.or_eq_true, beq_iff_eq, beq_iff_eq]

/-- A SET is locked where a survey holds the settings and a locked name is given (R98). -/
theorem locks_iff (s : State) (values : List (Setting × Int)) : (surveyLocks s && values.any (fun nv => nv.1.locked)) = true ↔
    (s.svc.survey.state = .armed ∨ s.svc.survey.state = .running) ∧ ∃ nv ∈ values, nv.1.locked = true := by
  rw [Bool.and_eq_true, surveyLocks_iff, List.any_eq_true]

theorem accepts_iff (values : List (Setting × Int)) (set : Settings) :
    (!(values.all (fun nv => nv.1.inRange nv.2) && hardBandContains set)) = true ↔
      ¬ ((∀ nv ∈ values, nv.1.inRange nv.2 = true) ∧ set.hardlo ≤ set.bandlo ∧ set.bandhi ≤ set.hardhi) := by
  unfold hardBandContains
  rw [Bool.not_eq_true', ← Bool.not_eq_true, Bool.and_eq_true, List.all_eq_true, Bool.and_eq_true, decide_eq_true_eq,
    decide_eq_true_eq]

/-- A SET that applies at once (R99). -/
theorem applyAtOnce_taken {s : State} (values : List (Setting × Int)) (free : s.LinkFree) (one : s.OneRequest) :
    let t := applyAtOnce values (taken .set s)
    let set := s.svc.active.write values
    Answered t .set .ok [num (s.svc.generation + 1).toNat, "APPLIED".toList] ∧ LinkKept s t ∧
      Queues s t .cfg (settingsPayload .appliedAtOnce set s.hlk.settings s.tmb.enabled s.tmb.polarity) (s.svc.generation + 1) ∧
      t = { s with
        svc := { s.svc with active := set, generation := s.svc.generation + 1 }
        cyt := { s.cyt with fnChanged := s.cyt.fnChanged || set.fn != s.svc.active.fn }
        tmb := t.tmb
        evs := t.evs
        hlk := t.hlk } ∧ t.tmb.seconds = s.tmb.seconds ∧ t.tmb.quality = s.tmb.quality := by
  intro t set
  let payload := settingsPayload .appliedAtOnce set s.hlk.settings s.tmb.enabled s.tmb.polarity
  have quiet : (activate values (taken .set s)).evs.waitingRead = none := one.no_read free.inProgress
  have link := (offer_quiet .cfg payload quiet).1
  have queues := offer_queues .cfg payload (activate values (taken .set s))
  have others := offer_others .cfg payload (activate values (taken .set s))
  have clock := offer_clock .cfg payload (activate values (taken .set s))
  have whole : t = answer .ok [num (s.svc.generation + 1).toNat, "APPLIED".toList]
    (offer .cfg payload (activate values (taken .set s))) := rfl
  generalize offer .cfg payload (activate values (taken .set s)) = u at *
  obtain ⟨answered, kept, same⟩ := answer_after free link .ok [num (s.svc.generation + 1).toNat, "APPLIED".toList]
  rw [← whole] at answered kept same
  have later : t.tmb = u.tmb := by rw [same]
  refine ⟨answered, kept, (Queues.before (s' := s) queues rfl rfl rfl rfl).after (by rw [same]), ?_, ?_, ?_⟩
  · rw [same, others]
    rfl
  · rw [later, clock]
    rfl
  · rw [later, clock]
    rfl

/-- A SET that is staged (R100). -/
theorem stage_taken {s : State} (values : List (Setting × Int)) (free : s.LinkFree) :
    let t := stage values (taken .set s)
    Answered t .set .ok [num s.svc.generation.toNat, "STAGED".toList] ∧ LinkKept s t ∧
      t = { s with svc := { s.svc with staged := t.svc.staged }, hlk := t.hlk } ∧
      t.svc.staged = stageValues s.svc.staged values := by
  intro t
  obtain ⟨answered, kept, same⟩ := answer_after (c := .set)
    (u := { taken .set s with svc := { s.svc with staged := stageValues s.svc.staged values } }) free rfl .ok
    [num s.svc.generation.toNat, "STAGED".toList]
  have staged : t.svc.staged = stageValues s.svc.staged values := congrArg (fun x : State => x.svc.staged) same
  refine ⟨answered, kept, ?_, staged⟩
  rw [staged]
  exact same

/-- Settles O27. -/
theorem setIsCheckedAndThenAppliedOrStaged : Obligations.SetIsCheckedAndThenAppliedOrStaged := by
  refine ⟨fun fields values => ⟨by decide, ?_⟩, fun s fields free one wf => ?_⟩
  · rw [readAssignments_iff]
    refine and_congr_right fun _ => and_congr_right fun _ => ?_
    refine iff_of_eq (congrArg (fun r => List.Forall₂ r fields values) ?_)
    funext field nv
    obtain ⟨n, v⟩ := nv
    cases n <;> rfl
  · have done := exec_taken (i := .set fields) rfl free wf
    have runs : runCommand .set fields (taken .set s) = runSet fields (taken .set s) := rfl
    unfold runSet at runs
    cases reads : readAssignments fields with
    | none =>
      rw [reads] at runs
      exact exec_answers (i := .set fields) rfl free wf runs
    | some values =>
      rw [reads] at runs
      dsimp only at runs
      refine ⟨_, done, ?_⟩
      dsimp only
      have under : resultingSet s.svc values =
          (if s.svc.measuring then s.svc.active.write s.svc.staged else s.svc.active).write values := by
        unfold resultingSet
        split <;> rfl
      by_cases locked : (s.svc.survey.state = .armed ∨ s.svc.survey.state = .running) ∧ ∃ nv ∈ values, nv.1.locked = true
      · rw [if_pos locked, runs, if_pos ((locks_iff (taken .set s) _).mpr locked)]
        exact answer_only .lck [] free.inProgress
      have unlocked : ¬ (surveyLocks (taken .set s) && values.any (fun nv => nv.1.locked)) = true :=
        fun h => locked ((locks_iff (taken .set s) values).mp h)
      rw [if_neg locked, ← under]
      rw [if_neg unlocked] at runs
      by_cases out : ¬ ((∀ nv ∈ values, nv.1.inRange nv.2 = true) ∧
          (resultingSet s.svc values).hardlo ≤ (resultingSet s.svc values).bandlo ∧
          (resultingSet s.svc values).bandhi ≤ (resultingSet s.svc values).hardhi)
      · rw [if_pos out, runs, if_pos (by exact (accepts_iff values (resultingSet s.svc values)).mpr out)]
        exact answer_only .rng [] free.inProgress
      rw [if_neg out]
      rw [if_neg (by exact fun h => out ((accepts_iff values (resultingSet s.svc values)).mp h))] at runs
      by_cases measuring : s.svc.measuring = true
      · rw [if_pos measuring, runs, if_pos (by exact measuring)]
        obtain ⟨answered, kept, same, staged⟩ := stage_taken values free
        refine ⟨answered, kept, same, staged.trans (stageValues_eq _ _), fun n => ?_⟩
        rw [staged, stageValues_eq]
        exact valueGiven_filterMap _ n (mem_allSettings n) (by decide)
      · rw [if_neg measuring, runs, if_neg (by exact measuring)]
        have set : resultingSet s.svc values = s.svc.active.write values := if_neg measuring
        rw [set]
        exact applyAtOnce_taken values free one

end Sys2Proof.Machine
end

section
/-! The survey advanced by closures, and what an item adds to its cells (O32). -/

namespace Sys2Proof.Machine

/-! ## The start of an armed survey (R108) -/

theorem advanceSurvey_armed {s : State} {k : Closure} {mark armed days : Nat} (state : s.svc.survey.state = .armed)
    (opens : k.opened = some mark) (at' : s.svc.survey.armedMark = some armed) (length : s.svc.survey.days = some days) :
    advanceSurvey k s = if armed ≤ mark ∧ mark + days * 86400 ≤ 4294966800 then startSurvey mark s else s := by
  have starts : startsAt s.svc.survey mark = true ↔ armed ≤ mark ∧ mark + days * 86400 ≤ 4294966800 := by
    unfold startsAt
    rw [at', length]
    dsimp only
    rw [Bool.and_eq_true, decide_eq_true_eq, decide_eq_true_eq]
  unfold advanceSurvey
  rw [state, opens]
  exact if_congr starts rfl rfl

/-- The drops that an offer leaves counted for the survey (R145). -/
theorem offer_surveyDrops (kind : RecordKind) (payload : List Byte) (s : State) : (offer kind payload s).evs.surveyDrops =
    if recordTaken s then s.evs.surveyDrops else min 4294967295 (s.evs.surveyDrops + 1) := by
  unfold offer
  split
  · unfold takeRecord
    rw [(mediumChoice_chooses _).store]
    rfl
  · exact Nat.min_comm _ _

/-! ## The end of a running survey (R109, R110) -/

theorem completesAt_iff {c : SurveyContext} {stop : Nat} (ends : c.endMark = some stop) (time : Time) :
    completesAt c time = true ↔ stop ≤ time.seconds := by
  unfold completesAt
  rw [ends]
  exact decide_eq_true_iff

theorem advanceSurvey_running {s : State} {k : Closure} {stop : Nat} (state : s.svc.survey.state = .running)
    (ends : s.svc.survey.endMark = some stop) : advanceSurvey k s =
      let counted := { s with tlb := { s.tlb with survey := { s.tlb.survey with
        s0 := raise s.tlb.survey.s0 (skippedInSurvey s.svc.survey k) } } }
      if stop ≤ k.time.seconds then concludeSurvey .complete .complete counted else counted := by
  have counted : countSkipped (skippedInSurvey s.svc.survey k) s = { s with tlb := { s.tlb with survey :=
      { s.tlb.survey with s0 := raise s.tlb.survey.s0 (skippedInSurvey s.svc.survey k) } } } := if_pos state
  unfold advanceSurvey
  rw [state]
  dsimp only
  rw [counted]
  exact if_congr (completesAt_iff ends k.time) rfl rfl

/-- A survey concluded posts its SVN, and no other notice. -/
theorem concludeSurvey_posts (cause : VerdictCause) (after : SurveyState) (s : State) :
    Posts s (concludeSurvey cause after s) [verdictNotice (formVerdict cause s)] := by
  have link : (verdictRecorded cause after s).hlk = (offer .vdt (formVerdict cause s).payload s).hlk := rfl
  have offered := (offer_posts .vdt (formVerdict cause s).payload s).1.of_links rfl link
  rw [concludeSurvey_eq]
  exact offered.andThen (postNotice_posts _ _ _) (postNotice_steady _ _ _)

/-! ## The survey cells (R88 to R90) -/

theorem allWithin_iff (lo hi : Nat) (values : PerPhase (Option Nat)) :
    allWithin lo hi values = true ↔ ∀ p v, values.get p = some v → lo ≤ v ∧ v ≤ hi := by
  unfold allWithin
  rw [List.all_eq_true]
  simp only [mem_presentValues, Bool.and_eq_true, decide_eq_true_eq]
  exact ⟨fun h p v here => h v ⟨p, here⟩, fun h v ⟨p, here⟩ => h p v here⟩

/-- A survey cell raised by a condition. -/
theorem raise_one {b : Bool} {P : Prop} (holds : b = true ↔ P) (n : Nat) :
    (P → raise n (one b) = min 16777215 (n + 1)) ∧ (¬ P → raise n (one b) = min 16777215 n) := by
  unfold raise saturate one
  rw [Nat.min_comm]
  refine ⟨fun h => ?_, fun h => ?_⟩
  · rw [if_pos (holds.mpr h)]
  · rw [if_neg (fun t => h (holds.mp t)), Nat.add_zero]

/-- What an interval adds to the survey cells (R88, R89). -/
theorem SurveyCells.take_int (c : SurveyCells) (set : Settings) (survey : SurveyContext) (values : PerPhase (Option Nat))
    (valid member : Bool) (startMark : Nat) :
    let d := c.take set survey (.int values valid member startMark)
    let within (low high : Nat) : Prop := ∀ p v, values.get p = some v → low ≤ v ∧ v ≤ high
    let counted := member = true ∧ valid = true
    d.s0 = min 16777215 (c.s0 + if member then 1 else 0) ∧
      (counted → d.s1 = min 16777215 (c.s1 + 1)) ∧ (¬ counted → d.s1 = min 16777215 c.s1) ∧
      (counted ∧ within set.bandlo set.bandhi → d.s2 = min 16777215 (c.s2 + 1)) ∧
      (¬ (counted ∧ within set.bandlo set.bandhi) → d.s2 = min 16777215 c.s2) ∧
      (counted ∧ within set.hardlo set.hardhi → d.s3 = min 16777215 (c.s3 + 1)) ∧
      (¬ (counted ∧ within set.hardlo set.hardhi) → d.s3 = min 16777215 c.s3) ∧ d.s4 = c.s4 ∧ d.s5 = c.s5 := by
  intro d within counted
  have counts : (valid && member) = true ↔ counted := by rw [Bool.and_eq_true, and_comm]
  have bands : ∀ low high, (valid && member && allWithin low high values) = true ↔ counted ∧ within low high := fun low high => by
    rw [Bool.and_eq_true, counts, allWithin_iff]
  obtain ⟨s1, s1'⟩ := raise_one counts c.s1
  obtain ⟨s2, s2'⟩ := raise_one (bands set.bandlo set.bandhi) c.s2
  obtain ⟨s3, s3'⟩ := raise_one (bands set.hardlo set.hardhi) c.s3
  exact ⟨Nat.min_comm _ _, s1, s1', s2, s2', s3, s3', rfl, rfl⟩

theorem inFrequencyBand_iff (set : Settings) (f : Nat) : inFrequencyBand set.fn set.fband f = true ↔ match set.fn with
    | .hz50 => 50000 - 5 * set.fband ≤ f ∧ f ≤ 50000 + 5 * set.fband
    | .hz60 => 60000 - 6 * set.fband ≤ f ∧ f ≤ 60000 + 6 * set.fband := by
  unfold inFrequencyBand
  rw [Bool.and_eq_true, decide_eq_true_eq, decide_eq_true_eq]
  cases set.fn with
  | hz50 =>
    have band : nominalHz .hz50 * set.fband / 10 = 5 * set.fband := by
      show 50 * set.fband / 10 = _
      omega
    rw [band]
    rfl
  | hz60 =>
    have band : nominalHz .hz60 * set.fband / 10 = 6 * set.fband := by
      show 60 * set.fband / 10 = _
      omega
    rw [band]
    rfl

theorem SurveyContext.contains_iff (c : SurveyContext) (mark : Nat) : c.contains mark = true ↔
    ∃ start stop, c.startMark = some start ∧ c.endMark = some stop ∧ start ≤ mark ∧ mark < stop := by
  unfold SurveyContext.contains
  split
  case h_1 start stop starts ends => simp [starts, ends]
  case h_2 none => exact iff_of_false (by simp) fun ⟨start, stop, starts, ends, _⟩ => none start stop starts ends

/-- What a frequency adds to the survey cells (R90). -/
theorem SurveyCells.take_frq (c : SurveyCells) (set : Settings) (survey : SurveyContext) (mark : Nat) (value : Option Nat)
    (valid outOfRange : Bool) :
    let d := c.take set survey (.frq mark value valid outOfRange)
    let counted : Prop := valid = true ∧ ∃ start stop, survey.startMark = some start ∧
      survey.endMark = some stop ∧ start ≤ mark ∧ mark < stop
    let inBand : Prop := ∃ f, value = some f ∧ (match set.fn with
      | .hz50 => 50000 - 5 * set.fband ≤ f ∧ f ≤ 50000 + 5 * set.fband
      | .hz60 => 60000 - 6 * set.fband ≤ f ∧ f ≤ 60000 + 6 * set.fband)
    d.s0 = c.s0 ∧ d.s1 = c.s1 ∧ d.s2 = c.s2 ∧ d.s3 = c.s3 ∧
      (counted → d.s4 = min 16777215 (c.s4 + 1)) ∧ (¬ counted → d.s4 = min 16777215 c.s4) ∧
      (counted ∧ inBand → d.s5 = min 16777215 (c.s5 + 1)) ∧ (¬ (counted ∧ inBand) → d.s5 = min 16777215 c.s5) := by
  intro d counted inBand
  have counts : (valid && survey.contains mark) = true ↔ counted := by rw [Bool.and_eq_true, SurveyContext.contains_iff]
  have bands : (valid && survey.contains mark && value.any (inFrequencyBand set.fn set.fband)) = true ↔ counted ∧ inBand := by
    rw [Bool.and_eq_true, counts, Option.any_eq_true]
    exact and_congr_right fun _ => exists_congr fun f => and_congr_right fun _ => inFrequencyBand_iff set f
  obtain ⟨s4, s4'⟩ := raise_one counts c.s4
  obtain ⟨s5, s5'⟩ := raise_one bands c.s5
  exact ⟨rfl, rfl, rfl, rfl, s4, s4', s5, s5'⟩

/-- The start of a survey (R95, R108). -/
theorem startSurvey_starts {s : State} {mark armed days : Nat} (at' : s.svc.survey.armedMark = some armed)
    (length : s.svc.survey.days = some days) :
    let t := startSurvey mark s
    t.svc.survey.state = .running ∧ t.svc.survey.startMark = some mark ∧
      t.svc.survey.endMark = some (mark + days * 86400) ∧ t.svc.survey.generationsApplied = some 0 ∧
      t.svc.survey.id = some (nextSequence s.evs) ∧ t.svc.survey.protectionStart = some (nextSequence s.evs) ∧
      t.evs.protectionStart = some (nextSequence s.evs) ∧ t.svc.survey.startDropped = some (!recordTaken s) ∧
      t.evs.surveyDrops = (if recordTaken s then 0 else 1) ∧ t.tlb.survey = SurveyCells.zero ∧
      t.tlb.dip = Sys2Proof.Machine.Matrix.zero 24 ∧ t.tlb.swell = Sys2Proof.Machine.Matrix.zero 18 ∧
        t.tlb.pair = Sys2Proof.Machine.Matrix.zero 2 ∧ t.tlb.frozen = false ∧
      t.tlb.cells = s.tlb.cells ∧
      Queues s t .svy (surveyStartPayload (s.svc.survey.requestedStart.getD 0) armed days mark (mark + days * 86400))
        s.svc.generation := by
  let counted : State := { clearSurveyCounts s with evs := { s.evs with surveyDrops := 0 } }
  let payload := surveyStartPayload (s.svc.survey.requestedStart.getD 0) armed days mark (mark + days * 86400)
  have whole : startSurvey mark s = { offer .svy payload counted with
      svc := { (offer .svy payload counted).svc with survey := { s.svc.survey with
        state := .running
        startMark := some mark
        endMark := some (mark + days * 86400)
        id := some (nextSequence s.evs)
        protectionStart := some (nextSequence s.evs)
        startDropped := some (!recordTaken s)
        generationsApplied := some 0 } }
      evs := { (offer .svy payload counted).evs with protectionStart := some (nextSequence s.evs) } } := by
    unfold startSurvey
    dsimp only
    rw [at', length]
    rfl
  have drops := offer_surveyDrops .svy payload counted
  have others := offer_others .svy payload counted
  obtain ⟨medium, takes, dropped⟩ := offer_queues .svy payload counted
  intro t
  have is : t = _ := whole
  clear_value t
  generalize offer .svy payload counted = u at *
  have bank : t.tlb = counted.tlb := by rw [is, others]
  rw [bank, is]
  exact ⟨rfl, rfl, rfl, rfl, rfl, rfl, rfl, rfl, drops, rfl, rfl, rfl, rfl, rfl, rfl, ⟨medium, takes, dropped⟩⟩

/-- Settles O32. -/
theorem closuresAdvanceTheSurvey : Obligations.ClosuresAdvanceTheSurvey := by
  refine ⟨fun s k mark armed days state opens at' length => ?_, fun s k stop state ends => ?_, fun s item => ?_⟩
  · dsimp only
    rw [advanceSurvey_armed state opens at' length]
    by_cases starts : armed ≤ mark ∧ mark + days * 86400 ≤ 4294966800
    · rw [if_pos starts, if_pos starts]
      exact startSurvey_starts at' length
    · rw [if_neg starts, if_neg starts]
  · have whole := advanceSurvey_running (k := k) state ends
    have sum : raise s.tlb.survey.s0 (skippedInSurvey s.svc.survey k) = min 16777215 (s.tlb.survey.s0 +
        ((List.range k.skipped).filter (fun i => s.svc.survey.contains (k.firstSkipped + 600 * i))).length) := Nat.min_comm _ _
    dsimp only at whole ⊢
    rw [sum] at whole
    generalize min 16777215 _ = raised at *
    let counted : State := { s with tlb := { s.tlb with survey := { s.tlb.survey with s0 := raised } } }
    by_cases late : stop ≤ k.time.seconds
    · rw [if_pos late] at whole
      have others := concludeSurvey_others .complete .complete counted
      have queues := concludeSurvey_queues .complete .complete counted
      have posts := concludeSurvey_posts .complete .complete counted
      rw [whole]
      generalize concludeSurvey .complete .complete counted = t at *
      have bank : t.tlb = counted.tlb := by rw [others]
      have unit : t.svc = s.svc.concluded (formVerdict .complete counted) .complete := by rw [others]
      refine ⟨by rw [bank], by rw [bank], fun early => absurd late (by omega), fun _ => ⟨by rw [unit]; rfl, ?_⟩⟩
      refine ⟨formVerdict .complete counted, by rw [unit]; rfl, ?_, ?_, ?_, ?_⟩
      · rw [bank]
        unfold formVerdict
        dsimp only
        rw [ends]
        rfl
      · exact Queues.before (s' := s) queues rfl rfl rfl rfl
      · rw [others]
        rfl
      · rw [bank]
        exact Posts.before (t := counted) rfl posts
    · rw [if_neg late] at whole
      rw [whole]
      exact ⟨rfl, rfl, fun _ => rfl, fun h => absurd h late⟩
  · have cells := handItem_survey item s
    refine ⟨fun idle => cells.trans (if_neg idle), fun running => ?_⟩
    rw [if_pos running] at cells
    dsimp only
    rw [cells]
    cases item with
    | int values valid member startMark => exact SurveyCells.take_int _ _ _ values valid member startMark
    | frq mark value valid outOfRange => exact SurveyCells.take_frq _ _ _ mark value valid outOfRange
    | half => rfl
    | win => rfl
    | evt => rfl

end Sys2Proof.Machine
end

section
/-! The next operation of the medium, and the records offered (O41). -/

namespace Sys2Proof.Machine

/-! ## What the choice of R148 asks -/

theorem eraseHeld_iff (e : Evs) (n : Nat) : eraseHeld e n = true ↔ ∃ p f, e.protectionStart = some p ∧
    (sectorAt e n).first = some f ∧ 0 < (sectorAt e n).valid ∧ p ≤ f + (sectorAt e n).valid - 1 := by
  unfold eraseHeld
  split
  case h_1 p f protection first => simp [protection, first]
  case h_2 none => exact iff_of_false (by simp) fun ⟨p, f, protection, first, _⟩ => none p f protection first

/-- A record waits and the sector of the write position is not CLOSED (R148). -/
theorem headProgrammable_iff (e : Evs) :
    headProgrammable e = true ↔ e.pwq ≠ [] ∧ (sectorAt e (e.writePosition / 32)).condition ≠ .closed := by
  unfold headProgrammable sectorOf
  rw [Bool.and_eq_true, bne_iff_ne, bne_iff_ne]

theorem canProgram_iff (e : Evs) : canProgram e = true ↔
    e.state ≠ .fault ∧ e.pwq ≠ [] ∧ (sectorAt e (e.writePosition / 32)).condition ≠ .closed := by
  unfold canProgram
  rw [Bool.and_eq_true, bne_iff_ne, headProgrammable_iff]

/-- The medium may be given an operation (R148, R178, R180). -/
theorem mediumUsable_iff (s : State) : mediumUsable s = true ↔ s.evs.activity = .idle ∧ s.spm.abortPending = false ∧
    (s.spm.power = .run ∨ s.spm.power = .rideThrough ∨
      s.spm.power = .starting ∧ s.spm.startKind = some .cold ∧ s.evs.state ≠ .scanning) := by
  unfold mediumUsable sampling
  simp only [Bool.and_eq_true, Bool.or_eq_true, beq_iff_eq, bne_iff_ne, Bool.not_eq_true', ne_eq, and_assoc, or_assoc]

theorem startableRead_iff (s : State) (q : ReadRequest) :
    startableRead s = some q ↔ s.evs.waitingRead = some q ∧ s.spm.committed = false := by
  unfold startableRead
  cases s.spm.committed <;> simp

theorem freeErase_iff (e : Evs) (n : Nat) : freeErase e = some n ↔ e.due = some n ∧ eraseHeld e n = false ∧ e.state ≠ .fault := by
  unfold freeErase
  split
  case h_1 sector due =>
    rw [due, Option.some_inj]
    split
    case isTrue stays =>
      refine iff_of_false (by simp) ?_
      rintro ⟨rfl, free, running⟩
      rcases stays with fault | held
      · exact running fault
      · rw [held] at free
        cases free
    case isFalse goes =>
      obtain ⟨running, free⟩ := not_or.mp goes
      rw [Option.some_inj]
      refine ⟨?_, fun h => h.1⟩
      rintro rfl
      exact ⟨rfl, by simpa using free, running⟩
  case h_2 due => simp [due]

/-! ## The start of a program (R149) -/

/-- What the start of the program of the head leaves (R144, R149). -/
structure Begins (u v : State) (r : Record) : Prop where
  whole : v = { u with evs := { u.evs with
    activity := .program u.evs.writePosition (r.body ++ bigEndian 4 (crc32 u.evs.lastCheck r.body).toNat)
      (crc32 u.evs.lastCheck r.body)
    sectors := v.evs.sectors
    due := if (sectorAt u.evs (u.evs.writePosition / 32)).condition = .erased ∧ u.evs.state ≠ .erasingAll then
      some ((u.evs.writePosition / 32 + 1) % 1024) else u.evs.due } }
  still : ¬ (sectorAt u.evs (u.evs.writePosition / 32)).condition = .erased → v.evs.sectors = u.evs.sectors
  opens : (sectorAt u.evs (u.evs.writePosition / 32)).condition = .erased → ∀ n, n < u.evs.sectors.length →
    sectorAt v.evs n = { sectorAt u.evs n with condition :=
      if n = u.evs.writePosition / 32 then .writing
      else if (sectorAt u.evs n).condition = .writing then .closed
      else (sectorAt u.evs n).condition }

theorem openSector_at (e : Evs) (sector n : Nat) (inside : n < e.sectors.length) :
    ((openSector e.sectors sector)[n]?).getD Sector.empty = { sectorAt e n with condition :=
      if n = sector then .writing
      else if (sectorAt e n).condition = .writing then .closed
      else (sectorAt e n).condition } := by
  have here : sectorAt e n = e.sectors[n] := by
    unfold sectorAt
    rw [List.getElem?_eq_getElem inside]
    rfl
  unfold openSector
  rw [List.getElem?_mapIdx, List.getElem?_eq_getElem inside, here]
  simp only [Option.map_some, Option.getD_some]
  split
  · rfl
  · split <;> rfl

theorem startProgram_begins {u : State} {r : Record} {rest : List Record} (queue : u.evs.pwq = r :: rest) :
    Begins u (startProgram u) r := by
  have whole : startProgram u = if (sectorAt u.evs (u.evs.writePosition / 32)).condition = .erased then
      { u with evs := { u.evs with
        activity := .program u.evs.writePosition (r.body ++ bigEndian 4 (crc32 u.evs.lastCheck r.body).toNat)
          (crc32 u.evs.lastCheck r.body)
        sectors := openSector u.evs.sectors (u.evs.writePosition / 32)
        due := if u.evs.state = .erasingAll then u.evs.due else some ((u.evs.writePosition / 32 + 1) % 1024) } }
      else { u with evs := { u.evs with
        activity := .program u.evs.writePosition (r.body ++ bigEndian 4 (crc32 u.evs.lastCheck r.body).toNat)
          (crc32 u.evs.lastCheck r.body) } } := by
    unfold startProgram
    rw [queue]
    rfl
  rw [whole]
  by_cases opens : (sectorAt u.evs (u.evs.writePosition / 32)).condition = .erased
  · rw [if_pos opens]
    refine ⟨?_, fun h => absurd opens h, fun _ n inside => openSector_at u.evs _ n inside⟩
    by_cases all : u.evs.state = .erasingAll <;> simp [opens, all]
  · rw [if_neg opens]
    exact ⟨by simp [opens], fun _ => rfl, fun h => absurd h opens⟩

/-! ## The start of the waiting read (R156) -/

/-- What the start of the waiting read leaves: the read in flight, or its answer with the program of the head. -/
structure Served (s t : State) (q : ReadRequest) : Prop where
  slot : ∀ n, locate s.evs q.sequence = .slot n →
    t = { s with evs := { s.evs with activity := .read n q, waitingRead := none } }
  answered : (∀ n, locate s.evs q.sequence ≠ .slot n) → ∃ u, u = { s with evs := u.evs, hlk := u.hlk } ∧
    (locate s.evs q.sequence = .unavailable → u.evs = { s.evs with waitingRead := none } ∧
      ∀ c, s.hlk.inProgress = some c → Answered u c .nrc [optText num s.evs.oldestSequence,
        optText num (if s.evs.pwq = [] then s.evs.lastStored else s.evs.lastIssued)]) ∧
    (∀ image, locate s.evs q.sequence = .pending image →
      u.evs = { s.evs with waitingRead := none, lastRead := some q.sequence } ∧
      ∀ c, s.hlk.inProgress = some c → Answered u c .ok (match q.form with
        | .raw => [hexBytes image, "PENDING".toList]
        | .decoded => decodedSlot image ++ ["PENDING".toList])) ∧
    t = if canProgram s.evs then startProgram u else u

/-- What changes the store and the link alone, by its own store and link. -/
theorem storeAndLink {s t : State} {e : Evs} (h : t = { s with evs := e, hlk := t.hlk }) :
    t = { s with evs := t.evs, hlk := t.hlk } := by
  have store : t.evs = e := congrArg State.evs h
  rw [store]
  exact h

/-- The fields of an answer from the queue (R157, R158). -/
theorem readFieldsOf_pending (form : ReadForm) (image : List Byte) : readFieldsOf form image "PENDING".toList false =
    match form with
    | .raw => [hexBytes image, "PENDING".toList]
    | .decoded => decodedSlot image ++ ["PENDING".toList] := by
  cases form <;> rfl

theorem startRead_served (q : ReadRequest) (s : State) : Served s (startRead q s) q := by
  unfold startRead
  dsimp only
  cases found : locate s.evs q.sequence with
  | slot n =>
    refine ⟨?_, fun none => absurd found (none n)⟩
    rintro m same
    cases found.symm.trans same
    rfl
  | unavailable =>
    let refused : State := answerUnavailable { s with evs := { s.evs with waitingRead := none } }
    have others : refused = _ := answer_others _ _ _
    refine ⟨fun n same => (by cases found.symm.trans same), fun _ => ⟨refused, storeAndLink others, fun _ => ⟨congrArg State.evs others,
      fun c serves => answer_answered (by exact serves) _ _⟩, fun image same => (by cases found.symm.trans same), ?_⟩⟩
    have still : refused.evs = { s.evs with waitingRead := none } := congrArg State.evs others
    show (if canProgram refused.evs then _ else _) = _
    rw [still]
    rfl
  | pending image =>
    let read : State := answerRead q image "PENDING".toList false { s with evs := { s.evs with waitingRead := none } }
    have others : read = _ := answer_others _ _ _
    refine ⟨fun n same => (by cases found.symm.trans same), fun _ => ⟨read, storeAndLink others, fun same => (by cases found.symm.trans same),
      fun other same => ?_, ?_⟩⟩
    · cases found.symm.trans same
      refine ⟨congrArg State.evs others, fun c serves => ?_⟩
      rw [← readFieldsOf_pending]
      exact answer_answered (by exact serves) _ _
    · have still : read.evs = { s.evs with waitingRead := none, lastRead := some q.sequence } := congrArg State.evs others
      show (if canProgram read.evs then _ else _) = _
      rw [still]
      rfl

/-! ## The choice whole (R148, R162) -/

theorem mediumChoice_ordinary {s : State} (usable : mediumUsable s = true)
    (state : s.evs.state = .ready ∨ s.evs.state = .full ∨ s.evs.state = .fault) : mediumChoice s = ordinaryChoice s := by
  unfold mediumChoice
  rw [if_neg (by simp [usable])]
  rcases state with h | h | h <;> rw [h]

theorem ordinaryChoice_erases {s : State} {n : Nat} (free : freeErase s.evs = some n) : ordinaryChoice s = startErase n s := by
  unfold ordinaryChoice
  rw [free]

theorem ordinaryChoice_programs {s : State} (free : freeErase s.evs = none) (programs : canProgram s.evs = true)
    (before : s.evs.mode = .drain ∨ startableRead s = none) : ordinaryChoice s = startProgram s := by
  unfold ordinaryChoice
  rw [free]
  rcases before with drain | quiet
  · rw [drain]
    cases startableRead s <;> exact if_pos programs
  · rw [quiet]
    cases s.evs.mode <;> exact if_pos programs

theorem ordinaryChoice_reads {s : State} {q : ReadRequest} (free : freeErase s.evs = none) (reads : startableRead s = some q)
    (before : s.evs.mode = .normal ∨ ¬ canProgram s.evs = true) : ordinaryChoice s = startRead q s := by
  unfold ordinaryChoice
  rw [free, reads]
  cases mode : s.evs.mode with
  | normal => rfl
  | drain => exact if_neg (before.resolve_left (by rw [mode]; decide))

theorem ordinaryChoice_rests {s : State} (free : freeErase s.evs = none) (full : ¬ canProgram s.evs = true)
    (quiet : startableRead s = none) : ordinaryChoice s = s := by
  unfold ordinaryChoice
  rw [free, quiet]
  cases s.evs.mode <;> exact if_neg full

theorem mediumChoice_eraseAll {s : State} (usable : mediumUsable s = true) (state : s.evs.state = .erasingAll) :
    mediumChoice s = if headProgrammable s.evs then startProgram s
      else if s.evs.erasedCount < 1024 then startErase s.evs.front s else s := by
  unfold mediumChoice
  rw [if_neg (by simp [usable]), state]
  rfl

/-! ## A record offered (R142 to R145) -/

theorem recordTaken_iff (s : State) : recordTaken s = true ↔ s.evs.state ≠ .scanning ∧ s.evs.pwq.length < 32 := by
  unfold recordTaken
  rw [Bool.and_eq_true, bne_iff_ne, decide_eq_true_eq]

theorem offer_dropped {s : State} (drops : recordTaken s = false) (kind : RecordKind) (payload : List Byte) :
    offer kind payload s = { s with evs := { s.evs with
      gapCount := min 65535 (s.evs.gapCount + 1)
      surveyDrops := min 4294967295 (s.evs.surveyDrops + 1)
      coldDrops := min 4294967295 (s.evs.coldDrops + 1) } } := by
  unfold offer
  rw [if_neg (by simp [drops])]
  unfold dropRecord saturate
  rw [Nat.min_comm, Nat.min_comm (s.evs.surveyDrops + 1), Nat.min_comm (s.evs.coldDrops + 1)]

/-- The store with a record at the end of its queue (R143, R145, R147). -/
def Evs.queued (e : Evs) (x : Record) : Evs :=
  { e with
    pwq := e.pwq ++ [x]
    lastIssued := some x.sequence
    gapCount := 0
    mode := if 24 ≤ e.pwq.length + 1 then .drain else e.mode }

theorem offer_taken {s : State} (takes : recordTaken s = true) (kind : RecordKind) (payload : List Byte) :
    offer kind payload s = mediumChoice { s with
      tmb := s.tmb.afterReading
      evs := s.evs.queued (completeRecord kind payload (reading s) s.tmb.quality s) } := by
  unfold offer
  rw [if_pos takes]
  rfl

/-- Settles O41. -/
theorem recordsOfferedAreNumberedOrCounted : Obligations.RecordsOfferedAreNumberedOrCounted := by
  refine ⟨fun s idle going power => ?_, fun s kind payload => ?_⟩
  · have usable : mediumUsable s = true := (mediumUsable_iff s).mpr ⟨idle, going, power⟩
    intro t held ready begins reads served
    have isHeld : ∀ n, eraseHeld s.evs n = true ↔ held n := eraseHeld_iff s.evs
    have isReads : ∀ q, startableRead s = some q ↔ reads q := startableRead_iff s
    have isReady : ∀ u : State, headProgrammable u.evs = true ↔ ready u := fun u => headProgrammable_iff u.evs
    have isProgram : ∀ u : State, canProgram u.evs = true ↔ u.evs.state ≠ .fault ∧ ready u := fun u => canProgram_iff u.evs
    have program : ∀ u, begins u (startProgram u) := fun u r rest queue => by
      obtain ⟨whole, still, opens⟩ := startProgram_begins queue
      exact ⟨whole, still, opens⟩
    have serves : ∀ q, t = startRead q s → served q := by
      intro q whole
      obtain ⟨slot, answered⟩ := startRead_served q s
      rw [← whole] at slot answered
      refine ⟨slot, fun other => ?_⟩
      obtain ⟨u, frame, unavailable, pending, next⟩ := answered other
      refine ⟨u, frame, unavailable, pending, fun programs => ?_, fun rests => ?_⟩
      · rw [next, if_pos ((isProgram s).mpr programs)]
        exact program u
      · rw [next, if_neg (fun h => rests ((isProgram s).mp h))]
    refine ⟨fun state => ?_, fun state => ?_⟩
    · have choice : t = ordinaryChoice s := mediumChoice_ordinary usable state
      clear_value t
      refine ⟨fun n due free running => ?_, fun stays => ?_⟩
      · have erase : freeErase s.evs = some n :=
          (freeErase_iff _ _).mpr ⟨due, Bool.eq_false_iff.mpr fun h => free ((isHeld n).mp h), running⟩
        rw [choice, ordinaryChoice_erases erase]
        rfl
      · have free : freeErase s.evs = none := by
          by_contra erases
          obtain ⟨n, erase⟩ := Option.ne_none_iff_exists'.mp erases
          obtain ⟨due, free, running⟩ := (freeErase_iff _ _).mp erase
          rcases stays n due with h | fault
          · rw [(isHeld n).mpr h] at free
            cases free
          · exact running fault
        have quiet : (∀ q, ¬ reads q) → startableRead s = none := fun none => Option.eq_none_iff_forall_not_mem.mpr
          fun q h => none q ((isReads q).mp h)
        refine ⟨fun programs first => ?_, fun q wants first => ?_, fun full none => ?_⟩
        · rw [choice, ordinaryChoice_programs free ((isProgram s).mpr programs) (first.imp_right quiet)]
          exact program s
        · exact serves q (choice.trans (ordinaryChoice_reads free ((isReads q).mpr wants)
            (first.imp_right fun full h => full ((isProgram s).mp h))))
        · rw [choice, ordinaryChoice_rests free (fun h => full ((isProgram s).mp h)) (quiet none)]
    · have choice : t = _ := mediumChoice_eraseAll usable state
      clear_value t
      refine ⟨fun programs => ?_, fun full more => ?_, fun full done => ?_⟩
      · rw [choice, if_pos ((isReady s).mpr programs)]
        exact program s
      · rw [choice, if_neg (fun h => full ((isReady s).mp h)), if_pos more]
        rfl
      · rw [choice, if_neg (fun h => full ((isReady s).mp h)), if_neg (not_lt.mpr done)]
  · have store := offer_store kind payload s
    have others := offer_others kind payload s
    have clock := offer_tmb kind payload s
    have queues := offer_queues kind payload s
    have taken := fun takes => offer_taken (s := s) takes kind payload
    intro t
    have last : recordTaken s = true → t.tmb = s.tmb.afterReading := fun takes => clock.trans (if_pos takes)
    refine ⟨queues, recordTaken_iff s, fun takes => ?_, fun drops => offer_dropped drops kind payload, others, by rw [store],
      by rw [store], by rw [store], by rw [store], fun takes => ⟨completeRecord kind payload (reading s) s.tmb.quality s, ?_⟩⟩
    · have chosen := (mediumChoice_chooses { s with
        tmb := s.tmb.afterReading
        evs := s.evs.queued (completeRecord kind payload (reading s) s.tmb.quality s) }).store
      rw [← taken takes] at chosen
      rw [last takes]
      have queue : t.evs.pwq = s.evs.pwq ++ [completeRecord kind payload (reading s) s.tmb.quality s] := by rw [chosen]; rfl
      rw [queue, List.length_append, List.length_singleton, chosen]
      exact ⟨rfl, rfl, rfl, Tmb.afterReading_lastReading s.tmb⟩
    · rw [last takes]
      exact taken takes

end Sys2Proof.Machine
end

section
/-! Where a sequence stands, and the reads RDR, RDX and RDN (O46). -/

namespace Sys2Proof.Machine

/-! ## A sequence in the queue (R142, R144, R157) -/

theorem pendingImage_hit (preset : BitVec 32) {before after : List Record} {x : Record}
    (first : ∀ y ∈ before, y.sequence ≠ x.sequence) : pendingImage preset (before ++ x :: after) x.sequence =
      some (x.body ++ bigEndian 4 (crc32 (before.foldl (fun check y => crc32 check y.body) preset) x.body).toNat) := by
  induction before generalizing preset with
  | nil => exact if_pos rfl
  | cons y rest ih =>
    have later := ih (y.check preset) fun z h => first z (List.mem_cons_of_mem y h)
    exact (if_neg (first y List.mem_cons_self)).trans later

theorem pendingImage_none_iff (preset : BitVec 32) (queue : List Record) (q : Nat) :
    pendingImage preset queue q = none ↔ ∀ x ∈ queue, x.sequence ≠ q := by
  induction queue generalizing preset with
  | nil => simp [pendingImage]
  | cons y rest ih =>
    unfold pendingImage
    rw [List.forall_mem_cons]
    by_cases same : y.sequence = q
    · simp [same]
    · rw [if_neg same, ih]
      simp [same]

theorem locate_pending_iff (e : Evs) (q : Nat) : (∃ image, locate e q = .pending image) ↔ ∃ x ∈ e.pwq, x.sequence = q := by
  have slots : ∀ image, locateSlot e q ≠ .pending image := by
    intro image
    unfold locateSlot
    repeat' split
    all_goals simp
  have held : (∃ x ∈ e.pwq, x.sequence = q) ↔ ¬ pendingImage e.lastCheck e.pwq q = none := by
    rw [pendingImage_none_iff]
    push Not
    rfl
  rw [held]
  unfold locate
  cases found : pendingImage e.lastCheck e.pwq q with
  | some image => simp
  | none =>
    refine iff_of_false (fun ⟨image, here⟩ => ?_) (by simp)
    dsimp only at here
    split at here
    · split at here
      · exact slots image here
      · cases here
    · cases here

/-! ## A sequence on the medium (R156) -/

/-- A sector that is a better choice for a sequence than the one held: its first sequence is greater, and not above it. -/
def betterSector (q : Nat) (best : Option (Nat × Nat)) (entry : Sector × Nat) : Option (Nat × Nat) :=
  match entry.1.first with
  | some f => if f ≤ q ∧ (best.all (fun b => b.1 < f)) then some (f, entry.2) else best
  | none => best

theorem sectorHolding_eq (e : Evs) (q : Nat) :
    sectorHolding e q = (e.sectors.zipIdx.foldl (betterSector q) none).map Prod.snd := rfl

/-- The best sector stays, where the others begin lower. -/
theorem foldl_betterSector_stays {q f n : Nat} {entries : List (Sector × Nat)}
    (lower : ∀ entry ∈ entries, ∀ g, entry.1.first = some g → g ≤ q → g < f) :
    entries.foldl (betterSector q) (some (f, n)) = some (f, n) := by
  induction entries with
  | nil => rfl
  | cons entry rest ih =>
    have stays : betterSector q (some (f, n)) entry = some (f, n) := by
      unfold betterSector
      split
      case h_1 g first =>
        refine if_neg fun ⟨below, above⟩ => ?_
        have less := lower entry List.mem_cons_self g first below
        have more : f < g := by simpa using above
        omega
      case h_2 => rfl
    rw [List.foldl_cons, stays]
    exact ih fun entry h => lower entry (List.mem_cons_of_mem _ h)

theorem foldl_betterSector_finds {q f n : Nat} {x : Sector} {before after : List (Sector × Nat)} (first : x.first = some f)
    (low : f ≤ q) (lower : ∀ entry ∈ before ++ after, ∀ g, entry.1.first = some g → g ≤ q → g < f) :
    (before ++ (x, n) :: after).foldl (betterSector q) none = some (f, n) := by
  have behind : ∀ (entries : List (Sector × Nat)) (best : Option (Nat × Nat)), (∀ b ∈ best, b.1 < f) →
      (∀ entry ∈ entries, ∀ g, entry.1.first = some g → g ≤ q → g < f) →
      ∀ b ∈ entries.foldl (betterSector q) best, b.1 < f := by
    intro entries
    induction entries with
    | nil => exact fun best h _ => h
    | cons entry rest ih =>
      intro best below each
      refine ih _ (fun b h => ?_) fun entry h => each entry (List.mem_cons_of_mem _ h)
      unfold betterSector at h
      split at h
      case h_1 g first =>
        split at h
        case isTrue better =>
          cases h
          exact each entry List.mem_cons_self g first better.1
        case isFalse => exact below b h
      case h_2 => exact below b h
  have held := behind before none (by simp) fun entry h => lower entry (List.mem_append_left _ h)
  rw [List.foldl_append, List.foldl_cons]
  generalize before.foldl (betterSector q) none = best at held ⊢
  have chosen : betterSector q best (x, n) = some (f, n) := by
    unfold betterSector
    dsimp only
    rw [first]
    refine if_pos ⟨low, ?_⟩
    cases best with
    | none => rfl
    | some b => exact decide_eq_true (held b rfl)
  rw [chosen]
  exact foldl_betterSector_stays fun entry h => lower entry (List.mem_append_right _ h)

/-- The sector with the greatest first sequence at or below a sequence (R156). -/
theorem sectorHolding_of {e : Evs} {q n f : Nat} (first : (sectorAt e n).first = some f) (low : f ≤ q)
    (greatest : ∀ m g, m ≠ n → (sectorAt e m).first = some g → g ≤ q → g < f) : sectorHolding e q = some n := by
  have inside : n < e.sectors.length := by
    by_contra out
    unfold sectorAt at first
    rw [List.getElem?_eq_none (Nat.le_of_not_lt out)] at first
    cases first
  have here : sectorAt e n = e.sectors[n] := by
    unfold sectorAt
    rw [List.getElem?_eq_getElem inside]
    rfl
  have parts : e.sectors.zipIdx = e.sectors.zipIdx.take n ++ (e.sectors[n], n) :: e.sectors.zipIdx.drop (n + 1) := by
    have size : n < e.sectors.zipIdx.length := by simpa using inside
    have entry : e.sectors.zipIdx[n] = (e.sectors[n], n) := by simp
    rw [← entry, List.getElem_cons_drop, List.take_append_drop]
  have others : ∀ entry ∈ e.sectors.zipIdx.take n ++ e.sectors.zipIdx.drop (n + 1), entry.2 ≠ n ∧
      sectorAt e entry.2 = entry.1 := by
    rintro ⟨x, m⟩ mem
    have place : e.sectors[m]? = some x ∧ m ≠ n := by
      rcases List.mem_append.mp mem with h | h
      · obtain ⟨i, small, at'⟩ := List.mem_iff_getElem.mp h
        simp only [List.getElem_take, List.getElem_zipIdx, Nat.zero_add, Prod.mk.injEq] at at'
        obtain ⟨rfl, rfl⟩ := at'
        rw [List.length_take] at small
        exact ⟨List.getElem?_eq_getElem (by omega), by omega⟩
      · obtain ⟨i, small, at'⟩ := List.mem_iff_getElem.mp h
        simp only [List.getElem_drop, List.getElem_zipIdx, Nat.zero_add, Prod.mk.injEq] at at'
        obtain ⟨rfl, rfl⟩ := at'
        rw [List.length_drop, List.length_zipIdx] at small
        exact ⟨List.getElem?_eq_getElem (by omega), by omega⟩
    refine ⟨place.2, ?_⟩
    unfold sectorAt
    rw [place.1]
    rfl
  rw [sectorHolding_eq, parts, foldl_betterSector_finds (here ▸ first) low]
  · rfl
  · intro entry mem g starts below
    obtain ⟨other, at'⟩ := others entry mem
    exact greatest entry.2 g other (at' ▸ starts) below

/-- A sequence of no queued record is unavailable outside the stored ones and where the scan missed it (R156). -/
theorem locate_unavailable {e : Evs} {q : Nat} (unqueued : ∀ x ∈ e.pwq, x.sequence ≠ q)
    (away : e.oldestSequence = none ∨ e.lastStored = none ∨ (∃ o, e.oldestSequence = some o ∧ q < o) ∨
      (∃ l, e.lastStored = some l ∧ l < q) ∨ (∃ run ∈ e.missing, run.1 ≤ q ∧ q ≤ run.2)) : locate e q = .unavailable := by
  unfold locate
  rw [(pendingImage_none_iff _ _ _).mpr unqueued]
  dsimp only
  split
  case h_1 o l oldest last =>
    split
    case isTrue between =>
      have missing : isMissing e q = true := by
        unfold isMissing
        rw [List.any_eq_true]
        rcases away with h | h | ⟨o', h, low⟩ | ⟨l', h, high⟩ | ⟨run, mem, h⟩
        · rw [oldest] at h; cases h
        · rw [last] at h; cases h
        · rw [oldest] at h; cases h; omega
        · rw [last] at h; cases h; omega
        · exact ⟨run, mem, by simpa using h⟩
      unfold locateSlot
      exact if_pos missing
    case isFalse => rfl
  case h_2 => rfl

/-- A stored sequence stands in the slot that its sector's first sequence gives (R156, log entry 15). -/
theorem locate_stored {e : Evs} {q o l n f : Nat} (unqueued : ∀ x ∈ e.pwq, x.sequence ≠ q) (oldest : e.oldestSequence = some o)
    (last : e.lastStored = some l) (low : o ≤ q) (high : q ≤ l) (found : ∀ run ∈ e.missing, ¬ (run.1 ≤ q ∧ q ≤ run.2))
    (holds : sectorHolding e q = some n) (first : (sectorAt e n).first = some f) :
    locate e q = match (recordSlots e n)[q - f]? with
      | some slot => .slot slot
      | none => .unavailable := by
  have missing : ¬ isMissing e q = true := by
    unfold isMissing
    rw [List.any_eq_true]
    rintro ⟨run, mem, h⟩
    exact found run mem (by simpa using h)
  unfold locate
  rw [(pendingImage_none_iff _ _ _).mpr unqueued, oldest, last]
  dsimp only
  rw [if_pos ⟨low, high⟩]
  unfold locateSlot
  rw [if_neg missing, holds]
  dsimp only
  rw [first] <;> rfl

theorem recordSlots_eq (e : Evs) (n : Nat) : recordSlots e n = ((List.range 32).filter (fun i =>
    !(sectorAt e n).voids.contains i && !e.medium.slotErased (32 * n + i))).map (fun i => 32 * n + i) := by
  unfold recordSlots
  congr 2
  funext i
  rw [Bool.eq_iff_iff]
  simp

/-! ## A read taken (R148, R156 to R159, R162) -/

/-- What the read of a sequence in a slot leaves: it waits, and the choice of the medium falls (R148, R162, R173). -/
structure ReadWaits (s t w : State) (n q : Nat) (form : ReadForm) : Prop where
  whole : t = mediumChoice w
  others : t = { w with evs := t.evs }
  ordinary : s.evs.activity = .idle → s.spm.abortPending = false →
    s.evs.state = .ready ∨ s.evs.state = .full ∨ s.evs.state = .fault →
    let free := (∃ d, s.evs.due = some d ∧ eraseHeld s.evs d = false) ∧ s.evs.state ≠ .fault
    let writes := s.evs.pwq ≠ [] ∧ (sectorAt s.evs (s.evs.writePosition / 32)).condition ≠ .closed ∧ s.evs.state ≠ .fault
    let programs (t : State) : Prop := ∃ image check, t.evs.activity = .program s.evs.writePosition image check ∧
      t.evs.waitingRead = some ⟨form, q⟩ ∧ t.evs.pwq = s.evs.pwq
    (∀ d, s.evs.due = some d → free → t.evs = { w.evs with activity := .erase d }) ∧
    (¬ free → s.spm.committed = false → s.evs.mode = .normal ∨ ¬ writes →
      t.evs = { s.evs with activity := .read n ⟨form, q⟩, waitingRead := none }) ∧
    (¬ free → s.evs.mode = .drain ∨ s.spm.committed = true → writes → programs t) ∧
    (¬ free → s.spm.committed = true → ¬ writes → t = w)
  erasing : s.evs.activity = .idle → s.spm.abortPending = false → s.evs.state = .erasingAll →
    let writes := s.evs.pwq ≠ [] ∧ (sectorAt s.evs (s.evs.writePosition / 32)).condition ≠ .closed ∧ s.evs.state ≠ .fault
    let programs (t : State) : Prop := ∃ image check, t.evs.activity = .program s.evs.writePosition image check ∧
      t.evs.waitingRead = some ⟨form, q⟩ ∧ t.evs.pwq = s.evs.pwq
    (writes → programs t) ∧
    (¬ writes → t.evs = if s.evs.erasedCount < 1024 then { w.evs with activity := .erase s.evs.front } else w.evs)
  busy : s.evs.activity ≠ .idle → t = w

/-- The state in which a read of a sequence waits for the medium (R156). -/
def readWaiting (c : Command) (form : ReadForm) (q : Nat) (s : State) : State :=
  { s with
    evs := { s.evs with waitingRead := some ⟨form, q⟩ }
    hlk := { s.hlk with reception := none, inProgress := some c } }

theorem startProgram_waits {w : State} (some' : w.evs.pwq ≠ []) :
    ∃ image check, (startProgram w).evs.activity = .program w.evs.writePosition image check ∧
      (startProgram w).evs.waitingRead = w.evs.waitingRead ∧ (startProgram w).evs.pwq = w.evs.pwq := by
  obtain ⟨r, rest, queue⟩ := List.exists_cons_of_ne_nil some'
  have begins := (startProgram_begins queue).whole
  exact ⟨_, _, by rw [begins], by rw [begins], by rw [begins]⟩

theorem startRead_slot {w : State} {q : ReadRequest} {n : Nat} (place : locate w.evs q.sequence = .slot n) :
    startRead q w = { w with evs := { w.evs with activity := .read n q, waitingRead := none } } :=
  (startRead_served q w).slot n place

/-- The choice of the medium leaves the link as it was, where a waiting read is one of the medium. -/
theorem mediumChoice_slot_hlk {w : State} (place : ∀ q, w.evs.waitingRead = some q → ∃ n, locate w.evs q.sequence = .slot n) :
    (mediumChoice w).hlk = w.hlk := by
  by_cases usable : mediumUsable w = true
  case neg => rw [mediumChoice_busy (by simpa using usable)]
  have ordinary : (ordinaryChoice w).hlk = w.hlk := by
    cases free : freeErase w.evs with
    | some n =>
      rw [ordinaryChoice_erases free]
      rfl
    | none =>
      cases waits : startableRead w with
      | none =>
        by_cases programs : canProgram w.evs = true
        · rw [ordinaryChoice_programs free programs (.inr waits), startProgram_hlk]
        · rw [ordinaryChoice_rests free programs waits]
      | some q =>
        obtain ⟨n, here⟩ := place q ((startableRead_iff w q).mp waits).1
        by_cases first : w.evs.mode = .normal ∨ ¬ canProgram w.evs = true
        · rw [ordinaryChoice_reads free waits first, startRead_slot here]
        · obtain ⟨drain, programs⟩ := not_or.mp first
          have mode : w.evs.mode = .drain := by
            cases mode : w.evs.mode with
            | normal => exact absurd mode drain
            | drain => rfl
          rw [ordinaryChoice_programs free (not_not.mp programs) (.inl mode), startProgram_hlk]
  cases state : w.evs.state
  case ready => rw [mediumChoice_ordinary usable (.inl state), ordinary]
  case full => rw [mediumChoice_ordinary usable (.inr (.inl state)), ordinary]
  case fault => rw [mediumChoice_ordinary usable (.inr (.inr state)), ordinary]
  case erasingAll =>
    rw [mediumChoice_eraseAll usable state]
    split
    · exact startProgram_hlk w
    · split <;> rfl
  case scanning =>
    unfold mediumChoice
    rw [if_neg (by simp [usable]), state]

theorem readWaiting_waits {s : State} {n q : Nat} (c : Command) (form : ReadForm) (free : s.LinkFree)
    (place : locate s.evs q = .slot n) :
    ReadWaits s (mediumChoice (readWaiting c form q s)) (readWaiting c form q s) n q form := by
  let w := readWaiting c form q s
  have here : locate w.evs q = .slot n := place
  have power : w.spm.power = .run ∨ w.spm.power = .rideThrough ∨
      w.spm.power = .starting ∧ w.spm.startKind = some .cold ∧ w.evs.state ≠ .scanning := free.power.imp_right .inl
  have usable : s.evs.activity = .idle → s.spm.abortPending = false → mediumUsable w = true :=
    fun idle going => (mediumUsable_iff w).mpr ⟨idle, going, power⟩
  have starts : startRead ⟨form, q⟩ w = { w with evs := { w.evs with activity := .read n ⟨form, q⟩, waitingRead := none } } :=
    startRead_slot (q := ⟨form, q⟩) here
  have wanted : s.spm.committed = false → startableRead w = some ⟨form, q⟩ := fun free => (startableRead_iff w _).mpr ⟨rfl, free⟩
  have gone : s.spm.committed = true → startableRead w = none := fun committed => if_pos committed
  have link : (mediumChoice w).hlk = w.hlk := mediumChoice_slot_hlk fun r waits => ⟨n, by cases waits; exact here⟩
  obtain ⟨t, is⟩ : ∃ t, mediumChoice w = t := ⟨_, rfl⟩
  show ReadWaits s (mediumChoice w) w n q form
  rw [is] at link ⊢
  refine ⟨is.symm, ?_, fun idle going state => ?_, fun idle going state => ?_, fun busy => ?_⟩
  · have others := (mediumChoice_chooses w).others
    rw [is, link] at others
    exact others
  · have choice := mediumChoice_ordinary (usable idle going) state
    intro free writes programs
    have whole : t = ordinaryChoice w := is.symm.trans choice
    have canWrite : canProgram w.evs = true ↔ writes := (canProgram_iff w.evs).trans
      ⟨fun ⟨a, b, c⟩ => ⟨b, c, a⟩, fun ⟨b, c, a⟩ => ⟨a, b, c⟩⟩
    have none : ¬ free → freeErase w.evs = .none := fun held => by
      by_contra erases
      obtain ⟨d, erase⟩ := Option.ne_none_iff_exists'.mp erases
      obtain ⟨due, lets, running⟩ := (freeErase_iff _ _).mp erase
      exact held ⟨⟨d, due, lets⟩, running⟩
    refine ⟨fun d due lets => ?_, fun held calm first => ?_, fun held first waits => ?_, fun held committed full => ?_⟩
    · obtain ⟨⟨d', due', unheld⟩, running⟩ := lets
      cases due.symm.trans due'
      rw [whole, ordinaryChoice_erases ((freeErase_iff w.evs d).mpr ⟨due, unheld, running⟩)]
      rfl
    · rw [whole, ordinaryChoice_reads (none held) (wanted calm) (first.imp_right fun h c => h (canWrite.mp c)), starts]
      rfl
    · obtain ⟨image, check, flight, still, queue⟩ := startProgram_waits (w := w) waits.1
      refine ⟨image, check, ?_⟩
      rw [whole, ordinaryChoice_programs (none held) (canWrite.mpr waits) (first.imp_right gone)]
      exact ⟨flight, still, queue⟩
    · rw [whole]
      exact ordinaryChoice_rests (none held) (fun c => full (canWrite.mp c)) (gone committed)
  · have choice := mediumChoice_eraseAll (usable idle going) state
    intro writes programs
    have canWrite : headProgrammable w.evs = true ↔ writes := (headProgrammable_iff w.evs).trans
      ⟨fun ⟨b, c⟩ => ⟨b, c, by rw [state]; decide⟩, fun ⟨b, c, _⟩ => ⟨b, c⟩⟩
    have whole : t = _ := is.symm.trans choice
    refine ⟨fun waits => ?_, fun full => ?_⟩
    · obtain ⟨image, check, flight, still, queue⟩ := startProgram_waits (w := w) waits.1
      refine ⟨image, check, ?_⟩
      rw [whole, if_pos (canWrite.mpr waits)]
      exact ⟨flight, still, queue⟩
    · rw [whole, if_neg (fun c => full (canWrite.mp c))]
      show (if s.evs.erasedCount < 1024 then _ else w).evs = _
      split <;> rfl
  · exact is.symm.trans (mediumChoice_busy (Bool.eq_false_iff.mpr fun h => busy ((mediumUsable_iff w).mp h).1))

/-- What a read of a sequence answers or leaves waiting, by where the sequence stands (R156). -/
def ReadServed (s : State) (t : State) (c : Command) (form : ReadForm) (q : Nat) : Prop :=
  match locate s.evs q with
  | .pending image =>
    Answered t c .ok (match form with
      | .raw => [hexBytes image, "PENDING".toList]
      | .decoded => decodedSlot image ++ ["PENDING".toList]) ∧ LinkKept s t ∧
    t = { s with evs := { s.evs with lastRead := some q }, hlk := t.hlk }
  | .unavailable => AnsweredOnly s t c .nrc [optText num s.evs.oldestSequence,
      optText num (if s.evs.pwq = [] then s.evs.lastStored else s.evs.lastIssued)]
  | .slot n => ReadWaits s t (readWaiting c form q s) n q form

theorem read_served {s : State} (c : Command) (form : ReadForm) (q : Nat) (free : s.LinkFree) :
    ReadServed s (read ⟨form, q⟩ (taken c s)) c form q := by
  have same : locate (taken c s).evs q = locate s.evs q := rfl
  unfold ReadServed read
  dsimp only
  rw [same]
  cases place : locate s.evs q with
  | pending image =>
    dsimp only
    obtain ⟨t, is⟩ : ∃ t, answerRead ⟨form, q⟩ image "PENDING".toList false (taken c s) = t := ⟨_, rfl⟩
    have whole : Answered t c .ok (readFieldsOf form image "PENDING".toList false) ∧ LinkKept s t ∧
        t = { s with evs := { s.evs with lastRead := some q }, hlk := t.hlk } := by
      rw [← is]
      exact answer_after (u := { taken c s with evs := { s.evs with lastRead := some q } }) free rfl .ok _
    rw [readFieldsOf_pending] at whole
    rw [is]
    exact whole
  | slot n => exact readWaiting_waits c form free place
  | unavailable => exact answer_only .nrc _ free.inProgress

theorem read_runs {i : Instr} {c : Command} {form : ReadForm} {q : Nat} {fields : List Text}
    (named : requestForm i = some (c, fields)) {s : State} (free : s.LinkFree) (wf : wellFormedFields fields = true)
    (runs : runCommand c fields (taken c s) = read ⟨form, q⟩ (taken c s)) : ∃ t, exec i s = .next t ∧ ReadServed s t c form q := by
  refine ⟨_, exec_taken named free wf, ?_⟩
  rw [runs]
  exact read_served c form q free

theorem runReadOf_number (form : ReadForm) {f : Text} {q : Nat} (number : readNat f = some q) (small : q ≤ 4294967295) (s : State) :
    runReadOf form [f] s = read ⟨form, q⟩ s := by
  unfold runReadOf
  dsimp only
  rw [number]
  exact if_pos small

theorem runReadOf_large (form : ReadForm) {f : Text} {q : Nat} (number : readNat f = some q) (large : 4294967295 < q) (s : State) :
    runReadOf form [f] s = answer .rng [] s := by
  unfold runReadOf
  dsimp only
  rw [number]
  exact if_neg (not_le.mpr large)

theorem runReadOf_other (form : ReadForm) {fields : List Text} (other : ∀ f, fields = [f] → readNat f = none) (s : State) :
    runReadOf form fields s = answer .syn [] s := by
  unfold runReadOf
  split
  case h_1 f =>
    rw [other f rfl]
  case h_2 => rfl

/-- RDN asks for the sequence after the last one read, or for the oldest, or for the first queued (R159). -/
theorem runRdn_asks {s : State} {q : Nat} (asks : nextAsked s.evs = some q) :
    runCommand .rdn [] (taken .rdn s) = read ⟨.decoded, q⟩ (taken .rdn s) := by
  show runRdn [] _ = _
  unfold runRdn
  rw [if_neg (by simp)]
  show (match nextAsked s.evs with | some q => _ | none => _) = _
  rw [asks]

/-- Settles O46. -/
theorem recordReadsAreLocated : Obligations.RecordReadsAreLocated := by
  refine ⟨fun e before after x queue first => ?_, fun e q unqueued => ⟨locate_unavailable unqueued,
    fun o l n f oldest last low high found first below greatest => ?_⟩, fun s free one => ?_⟩
  · unfold locate
    rw [queue, pendingImage_hit _ first]
  · rw [locate_stored unqueued oldest last low high found (sectorHolding_of first below greatest) first, recordSlots_eq] <;> rfl
  · intro served
    have serves : ∀ {i c form q}, (∃ t, exec i s = .next t ∧ ReadServed s t c form q) → served i c form q := by
      rintro i c form q ⟨t, done, h⟩
      refine ⟨t, done, ?_⟩
      unfold ReadServed at h
      cases place : locate s.evs q
      all_goals
        rw [place] at h
        dsimp only at h ⊢
      · exact h
      · exact ⟨h.whole, h.others, h.ordinary, h.erasing, h.busy⟩
      · exact h
    refine ⟨fun q => (locate_pending_iff s.evs q).symm, fun q small wf => ⟨serves (i := .rdr [num q]) (c := .rdr) (form := .decoded) (q := q) ?_,
        serves (i := .rdx [num q]) (c := .rdx) (form := .raw) (q := q) ?_⟩, fun q last => serves (i := .rdn []) (c := .rdn) (form := .decoded) (q := q + 1) ?_,
      fun q last oldest => serves (i := .rdn []) (c := .rdn) (form := .decoded) (q := q) ?_, fun x rest last oldest queue => serves (i := .rdn []) (c := .rdn) (form := .decoded) (q := x.sequence) ?_, fun last oldest queue => ?_, fun fields wf => ?_⟩
    · exact read_runs (i := .rdr _) rfl free wf (runReadOf_number .decoded (readNat_num q) small _)
    · exact read_runs (i := .rdx _) rfl free wf (runReadOf_number .raw (readNat_num q) small _)
    · exact read_runs (i := .rdn _) rfl free (by decide) (runRdn_asks (by unfold nextAsked; rw [last]))
    · exact read_runs (i := .rdn _) rfl free (by decide) (runRdn_asks (by unfold nextAsked; rw [last, oldest]))
    · exact read_runs (i := .rdn _) rfl free (by decide) (runRdn_asks (by unfold nextAsked; rw [last, oldest, queue]; rfl))
    · refine exec_answers (i := .rdn _) rfl free (by decide) ?_
      have asks : nextAsked s.evs = none := by
        unfold nextAsked
        rw [last, oldest, queue]
        rfl
      have fields : [optText num s.evs.oldestSequence, optText num (newestAvailable s.evs)] =
          [[], optText num s.evs.lastStored] := by
        unfold newestAvailable
        rw [oldest, if_pos queue]
        rfl
      rw [← fields]
      show runRdn [] _ = _
      unfold runRdn
      rw [if_neg (by simp)]
      show (match nextAsked s.evs with | some q => _ | none => _) = _
      rw [asks]
      rfl
    · refine ⟨fun other => ?_, fun f q name number large => ?_, fun some' => exec_answers (i := .rdn _) rfl free wf (if_pos some')⟩
      · exact ⟨exec_answers (i := .rdr _) rfl free wf (runReadOf_other .decoded other _),
          exec_answers (i := .rdx _) rfl free wf (runReadOf_other .raw other _)⟩
      · subst name
        exact ⟨exec_answers (i := .rdr _) rfl free wf (runReadOf_large .decoded number large _),
          exec_answers (i := .rdx _) rfl free wf (runReadOf_large .raw number large _)⟩

end Sys2Proof.Machine
end

section
/-! The supply and the backup cell by the power state: SUPPLY_FAIL, SUPPLY_GOOD, BACKUP_FAIL and BACKUP_GOOD (O49, O50). -/

namespace Sys2Proof.Machine

/-! ## PWN notices (R181) -/

theorem postPower_others (event : String) (further : List Text) (s : State) : postPower event further s =
    { s with tmb := s.tmb.afterReading, hlk := (postPower event further s).hlk } := postWithReading_others _ _ _

theorem postPower_posts (event : String) (further : List Text) (s : State) : Posts s (postPower event further s)
    [⟨.pwn, [event.toList, timeText (reading s), s.spm.backup.text, num s.evs.pwq.length] ++ further⟩] :=
  postWithReading_posts _ _ s

/-- Of the timebase a reading changes the last reading given and the held indication. -/
theorem Tmb.afterReading_twice (t : Tmb) : t.afterReading.afterReading =
    { t with lastReading := some t.handedOut, held := t.afterReading.afterReading.held } := by
  rw [Tmb.afterReading_eq t.afterReading, Tmb.handedOut_afterReading, Tmb.afterReading_eq t]

/-! ## What OFF and DORMANT leave (R174, R177) -/

theorem enterOff_wiped {s : State} (failed : s.spm.supply = .failed) : enterOff s = wiped s := if_neg (by rw [failed]; nofun)

/-- Whatever the supply, OFF or the cold start that follows it at once keeps the medium, the lines and the queue. -/
theorem enterOff_keepsMedium (s : State) : (enterOff s).evs.medium = s.evs.medium ∧ (enterOff s).pins = s.pins ∧
    (enterOff s).pending = s.pending := by
  unfold enterOff
  split <;> exact ⟨rfl, rfl, rfl⟩

/-- A link switched off sends, receives and answers nothing (R195). -/
theorem Hlk.switchedOff_silent (h : Hlk) : h.switchedOff.reception = none ∧ h.switchedOff.buffer = [] ∧
    h.switchedOff.reply = none ∧ h.switchedOff.inProgress = none ∧ h.switchedOff.transmitter = .idle := by
  unfold Hlk.switchedOff Hlk.adopt
  split <;> exact ⟨rfl, rfl, rfl, rfl, rfl⟩

/-- DORMANT again changes the timebase, the supply monitor and the link alone. -/
theorem returnDormant_others (s : State) : returnDormant s =
    { s with tmb := (returnDormant s).tmb, spm := (returnDormant s).spm, hlk := (returnDormant s).hlk } := by
  unfold returnDormant takeBackKept
  split
  · split <;> rfl
  · rfl

theorem returnDormant_warm {s : State} (warm : s.spm.startKind = some .warm) :
    returnDormant s = storeCheckWord (fallDormant (takeBackKept s)) := if_pos warm

theorem returnDormant_cold {s : State} (cold : s.spm.startKind ≠ some .warm) : returnDormant s =
    { s with
      tmb := s.tmb.afterReading
      hlk := s.hlk.switchedOff
      spm := { s.spm with
        power := .dormant
        startKind := none
        coldReason := none
        abortPending := false
        kept := none
        checkWord := none
        dormancyEntry := some ⟨extendedTick s, reading s⟩ } } := if_neg cold

/-- Whatever the start was, DORMANT again counts the aborted restarts on, waits for nothing and has the link off. -/
theorem returnDormant_waits (s : State) : (returnDormant s).spm.power = .dormant ∧
    (returnDormant s).spm.supply = s.spm.supply ∧ (returnDormant s).spm.qualification = s.spm.qualification ∧
    (returnDormant s).spm.startKind = none ∧ (returnDormant s).spm.abortedRestarts = s.spm.abortedRestarts ∧
    ∃ h : Hlk, (returnDormant s).hlk = h.switchedOff := by
  by_cases warm : s.spm.startKind = some .warm
  · have same := takeBackKept_spm s
    rw [returnDormant_warm warm]
    refine ⟨rfl, ?_, ?_, rfl, ?_, _, rfl⟩ <;> simp only [storeCheckWord, fallDormant, same]
  · rw [returnDormant_cold warm]
    exact ⟨rfl, rfl, rfl, rfl, rfl, _, rfl⟩

/-! ## SUPPLY_FAIL (R170, R178, R180) -/

/-- A supply-fail in RUN (R170). -/
theorem beginRideThrough_begins (s : State) : ∃ t, beginRideThrough s = t ∧
    t.spm = { s.spm with
      power := .rideThrough
      supply := .failed
      rideTimer := some (s.tmb.tick + 65536#32)
      committed := false
      failTime := reading s } ∧
    t.evs = { s.evs with mode := .drain } ∧
    t.tmb = { s.tmb with lastReading := some (reading s), held := t.tmb.held } ∧
    t = { s with tmb := t.tmb, evs := t.evs, spm := t.spm, hlk := t.hlk } ∧
    Posts s t [⟨.pwn, ["FAIL".toList, timeText (reading s), s.spm.backup.text, num s.evs.pwq.length]⟩] := by
  obtain ⟨begun, same⟩ : ∃ begun : State, begun = { s with
      tmb := s.tmb.afterReading
      evs := { s.evs with mode := .drain }
      spm := { s.spm with
        power := .rideThrough
        supply := .failed
        rideTimer := some (s.tmb.tick + rideTicks)
        committed := false
        failTime := reading s } } := ⟨_, rfl⟩
  have form : beginRideThrough s = postPower "FAIL" [] begun := by rw [same]; rfl
  have posts := postPower_posts "FAIL" [] begun
  have read : reading begun = reading s := by
    rw [same]
    exact Tmb.handedOut_afterReading s.tmb
  rw [read] at posts
  refine ⟨_, form, ?_⟩
  have others := postPower_others "FAIL" [] begun
  obtain ⟨t, whole⟩ : ∃ t, postPower "FAIL" [] begun = t := ⟨_, rfl⟩
  rw [whole] at posts others ⊢
  have clock : t.tmb = s.tmb.afterReading.afterReading := by rw [others, same]
  refine ⟨by rw [others, same], by rw [others, same], ?_, by rw [others, same], ?_⟩
  · rw [clock]
    exact Tmb.afterReading_twice s.tmb
  · subst same
    exact posts.of_links rfl rfl

/-- A start given up with the supply failed (R178, R180): OFF with a failing cell, else DORMANT again. -/
theorem giveUpStart_failed {s : State} (supply : s.spm.supply = .failed) :
    giveUpStart s = if s.spm.backup = .failed then wiped s else returnDormant s := by
  unfold giveUpStart
  rw [enterOff_wiped supply]
  exact if_congr Iff.rfl rfl (if_neg (by rw [supply]; nofun))

/-- The state in which a start is given up: one more aborted restart, and no operation in flight. -/
def startAborted (s : State) : State := { s with spm := s.spm.abort, evs := { s.evs with activity := .idle } }

theorem abortStart_waits {s : State} (busy : (∃ slot image check, s.evs.activity = .program slot image check) ∨
    ∃ sector, s.evs.activity = .erase sector) :
    abortStart s = { s with spm := { s.spm.abort with abortPending := true } } := by
  unfold abortStart
  rcases busy with ⟨slot, image, check, h⟩ | ⟨sector, h⟩ <;> rw [h]

theorem abortStart_givesUp {s : State} (free : s.evs.activity = .idle ∨ s.evs.activity = .scan) :
    abortStart s = giveUpStart (startAborted s) := by
  unfold abortStart startAborted
  rcases free with h | h
  · rw [h]
    dsimp only
    congr 2
    rw [← h]
  · rw [h]

theorem giveUpStart_keepsMedium {s : State} (supply : s.spm.supply = .failed) :
    (giveUpStart s).evs.medium = s.evs.medium ∧ (giveUpStart s).pins = s.pins ∧ (giveUpStart s).pending = s.pending := by
  rw [giveUpStart_failed supply]
  split
  · exact ⟨rfl, rfl, rfl⟩
  · rw [returnDormant_others]
    exact ⟨rfl, rfl, rfl⟩

/-- A supply-fail keeps the medium, the lines and the queue, whatever the power state. -/
theorem supplyFails_keepsMedium (s : State) : (supplyFails s).evs.medium = s.evs.medium ∧ (supplyFails s).pins = s.pins ∧
    (supplyFails s).pending = s.pending := by
  unfold supplyFails
  split
  case h_1 =>
    obtain ⟨t, done, _, evs, _, whole, _⟩ := beginRideThrough_begins s
    rw [done]
    exact ⟨by rw [evs], by rw [whole], by rw [whole]⟩
  case h_2 => exact ⟨rfl, rfl, rfl⟩
  case h_3 =>
    split
    case isTrue => exact ⟨rfl, rfl, rfl⟩
    case isFalse =>
      unfold abortStart
      dsimp only
      split
      case h_1 => exact ⟨rfl, rfl, rfl⟩
      case h_2 => exact ⟨rfl, rfl, rfl⟩
      all_goals exact giveUpStart_keepsMedium rfl
  case h_4 => exact ⟨rfl, rfl, rfl⟩
  case h_5 => exact ⟨rfl, rfl, rfl⟩

theorem supplyFails_starting {s : State} (starting : s.spm.power = .starting) (first : s.spm.abortPending = false) :
    supplyFails s = abortStart s := by
  unfold supplyFails
  rw [starting]
  exact if_neg (by rw [first]; nofun)

/-- DORMANT again after a warm start (R178, R195): the retained context as the backup cell kept it, with its check word computed
again. -/
theorem returnDormant_keepsContext {s : State} (warm : s.spm.startKind = some .warm) (first : s.spm.abortPending = false) :
    (returnDormant s).spm = { s.spm with
      power := .dormant
      startKind := none
      coldReason := none
      kept := none
      checkWord := some (crc32 0xFFFFFFFF#32 (Config.contextImage (returnDormant s).retained)) } ∧
    (s.spm.kept = none → (returnDormant s).tmb = s.tmb) ∧
    ∀ k, s.spm.kept = some k →
      (returnDormant s).tmb = { k.tmb with seconds := s.tmb.seconds, sub := s.tmb.sub, tick := s.tmb.tick } ∧
      (returnDormant s).hlk = k.hlk.switchedOff := by
  rw [returnDormant_warm warm]
  refine ⟨?_, fun none' => ?_, fun k some' => ?_⟩
  · rw [storeCheckWord_retained]
    simp only [storeCheckWord, fallDormant, takeBackKept_spm, first]
    rfl
  · rw [storeCheckWord_tmb, fallDormant_tmb, takeBackKept_none none']
  · rw [storeCheckWord_tmb, storeCheckWord_hlk, fallDormant_tmb, fallDormant_hlk, takeBackKept_some some']
    exact ⟨rfl, rfl⟩

/-! ## BACKUP_FAIL and BACKUP_GOOD (R169, R177) -/

/-- BACKUP_FAIL (R169, R177): OFF in DORMANT, else the indication alone. -/
theorem backupFails (s : State) : ∃ t, exec .backupFail s = .next t ∧ t.evs.medium = s.evs.medium ∧ t.pending = s.pending ∧
    t.pins = { s.pins with backup := .failed } ∧
    (s.spm.power = .dormant → s.spm.supply = .failed → t.spm.power = .off ∧ t.tmb = Tmb.cold ∧ t.svc = Svc.cold ∧
      t.evs = Evs.cold s.evs.medium) ∧
    (s.spm.power ≠ .dormant → t = { s with
      pins := t.pins
      spm := { s.spm with backup := if s.spm.power = .off then s.spm.backup else .failed } }) := by
  refine ⟨_, rfl, ?_⟩
  by_cases dormant : s.spm.power = .dormant
  · obtain ⟨medium, pins, pending⟩ := enterOff_keepsMedium (noteBackup .failed s)
    rw [if_pos dormant]
    refine ⟨medium, pending, pins, fun _ failed => ?_, fun other => absurd dormant other⟩
    rw [enterOff_wiped (by exact failed)]
    exact ⟨rfl, rfl, rfl, rfl⟩
  · rw [if_neg dormant]
    exact ⟨rfl, rfl, rfl, fun h => absurd h dormant, fun _ => rfl⟩

/-- Settles O49. -/
theorem supplyFailAndBackupEventsActByThePowerState : Obligations.SupplyFailAndBackupEventsActByThePowerState := by
  refine ⟨fun s => ?_, fun s => ⟨backupFails s, rfl⟩⟩
  obtain ⟨medium, pins, pending⟩ := supplyFails_keepsMedium s
  refine ⟨supplyFails s, rfl, medium, pins, pending, ?_⟩
  cases power : s.spm.power
  case run =>
    have form : supplyFails s = beginRideThrough s := by unfold supplyFails; rw [power]
    obtain ⟨t, done, begun⟩ := beginRideThrough_begins s
    rw [form, done]
    exact begun
  case rideThrough => unfold supplyFails; rw [power]; rfl
  case dormant => unfold supplyFails; rw [power]
  case off => unfold supplyFails; rw [power]
  case starting =>
    refine ⟨fun again => ?_, fun busy first => ?_, fun free first failing => ?_, fun free first good => ?_⟩
    · unfold supplyFails
      rw [power]
      exact if_pos again
    · rw [supplyFails_starting power first, abortStart_waits busy]
      unfold Spm.abort saturate
      rw [Nat.min_comm]
    · rw [supplyFails_starting power first, abortStart_givesUp free, giveUpStart_failed rfl, if_pos (by exact failing)]
      exact ⟨rfl, rfl, rfl⟩
    · rw [supplyFails_starting power first, abortStart_givesUp free, giveUpStart_failed rfl,
        if_neg (by show s.spm.backup ≠ _; rw [good]; nofun)]
      obtain ⟨dormant, supply, qualification, kind, aborted, h, off⟩ := returnDormant_waits (startAborted s)
      obtain ⟨reception, buffer, reply, inProgress, transmitter⟩ := h.switchedOff_silent
      refine ⟨dormant, supply, qualification, kind, aborted.trans (Nat.min_comm _ _), by rw [off, reception], by rw [off, buffer],
        by rw [off, reply], by rw [off, inProgress], by rw [off, transmitter], ?_, fun warm => ?_, fun cold => ?_⟩
      · conv_lhs => rw [returnDormant_others]
        rfl
      · obtain ⟨spm, clock, kept⟩ := returnDormant_keepsContext (s := startAborted s) warm first
        refine ⟨?_, clock, fun k some' => ⟨(kept k some').1, fun empty silent idle none' free' settled => ?_⟩⟩
        · rw [spm]
          unfold startAborted Spm.abort saturate
          rw [Nat.min_comm]
        · rw [(kept k some').2, Hlk.switchedOff_off empty silent idle none' free' settled]
      · rw [returnDormant_cold (by exact cold)]
        exact ⟨rfl, rfl, rfl, Tmb.afterReading_eq s.tmb⟩

/-! ## SUPPLY_GOOD (R171, R176 to R178, R180) -/

/-- The clocks of a DORMANT part stand outside the retained context (R176). -/
theorem crystalTick_dormant {s : State} (dormant : s.spm.power = .dormant) :
    ∃ seconds sub, crystalTick s = tickCounted seconds sub s := by
  have on : s.spm.power ≠ .off := by rw [dormant]; nofun
  by_cases room : s.tmb.sub < 32767
  · exact ⟨_, _, crystalTick_sub on room⟩
  · by_cases later : s.tmb.seconds < 4294967295
    · exact ⟨_, _, crystalTick_second on (not_lt.mp room) later⟩
    · exact ⟨_, _, (crystalTick_wrap on (not_lt.mp room) (not_lt.mp later)).trans (if_pos dormant)⟩

/-- A supply-good before the window ends (R171). -/
theorem recover_recovers (s : State) : ∃ t, recover s = t ∧
    t.spm = { s.spm with power := .run, supply := .good, rideTimer := none } ∧
    t.evs = { s.evs with mode := if s.evs.pwq.length ≤ 8 then .normal else s.evs.mode } ∧
    t = { s with tmb := t.tmb, evs := t.evs, spm := t.spm, hlk := t.hlk } ∧
    (∀ timer, s.spm.rideTimer = some timer → s.hlk.settings.mask.pwn = true → s.hlk.transmitter ≠ .idle →
      s.hlk.notices.length < 16 → t.hlk.notices = s.hlk.notices ++ [⟨.pwn, ["RECOVERED".toList, timeText (reading s),
        s.spm.backup.text, num s.evs.pwq.length, num (tickSpan (timer - 65536#32) s.tmb.tick * 1000 / 32768)]⟩]) := by
  obtain ⟨back, same⟩ : ∃ back : State, back = { s with
      evs := { s.evs with mode := modeAtRun s.evs }
      spm := { s.spm with power := .run, supply := .good, rideTimer := none } } := ⟨_, rfl⟩
  have form : recover s = postPower "RECOVERED" [num (ticksToMs (rideSpan s))] back := by rw [same]; rfl
  have others := postPower_others "RECOVERED" [num (ticksToMs (rideSpan s))] back
  have queued : s.hlk.settings.mask.pwn = true → s.hlk.transmitter ≠ .idle → s.hlk.notices.length < 16 →
      (postPower "RECOVERED" [num (ticksToMs (rideSpan s))] back).hlk.notices = s.hlk.notices ++
        [⟨.pwn, ["RECOVERED".toList, timeText (reading s), s.spm.backup.text, num s.evs.pwq.length,
          num (ticksToMs (rideSpan s))]⟩] := by
    intro admitted busy room
    subst same
    show (postNotice _ _ _).hlk.notices = _
    rw [postNotice_queued (by exact admitted) (by exact room) (by exact busy)]
    rfl
  refine ⟨_, form, ?_⟩
  obtain ⟨t, whole⟩ : ∃ t, postPower "RECOVERED" [num (ticksToMs (rideSpan s))] back = t := ⟨_, rfl⟩
  rw [whole] at others queued ⊢
  refine ⟨by rw [others, same], by rw [others, same]; rfl, by rw [others, same], fun timer ride admitted busy room => ?_⟩
  rw [queued admitted busy room]
  unfold rideSpan
  rw [ride]
  rfl

/-- Settles O50. -/
theorem supplyGoodActsByThePowerState : Obligations.SupplyGoodActsByThePowerState := by
  refine ⟨fun s dormant => ?_, fun s found strap => ⟨supplyReturns found strap s, rfl, ?_⟩⟩
  · obtain ⟨seconds, sub, counts⟩ := crystalTick_dormant dormant
    rw [counts]
    exact ⟨rfl, rfl⟩
  · obtain ⟨delivered, same⟩ : ∃ delivered : State, delivered = { s with pins := { s.pins with defcomLow := strap } } := ⟨_, rfl⟩
    unfold supplyReturns
    rw [← same]
    dsimp only
    rw [show delivered.spm.power = s.spm.power by rw [same]]
    cases power : s.spm.power
    case run => subst same; dsimp only; exact ⟨rfl, rfl, rfl, by rw [← power]; rfl, rfl⟩
    case starting => subst same; dsimp only; exact ⟨rfl, rfl, rfl, by rw [← power]; rfl, rfl⟩
    case off => subst same; dsimp only; exact ⟨rfl, rfl, rfl, ⟨rfl, rfl, rfl, rfl, rfl, rfl, rfl, rfl, rfl, rfl, rfl, rfl, rfl, rfl, rfl, rfl,
      rfl, rfl, rfl⟩, rfl, rfl⟩
    case rideThrough =>
      dsimp only
      by_cases committed : s.spm.committed = true
      · rw [if_pos (by rw [same]; exact committed), if_pos committed]
        subst same
        exact ⟨rfl, rfl, rfl, by rw [← power]; rfl, rfl⟩
      · rw [if_neg (by rw [same]; exact committed), if_neg committed]
        obtain ⟨t, done, spm, evs, others, notices⟩ := recover_recovers delivered
        rw [done]
        subst same
        exact ⟨by rw [evs], by rw [others], by rw [others], spm, evs, by rw [others], notices⟩
    case dormant =>
      dsimp only
      have agrees : contextAgrees found delivered = true ↔
          s.spm.checkWord = some (crc32 0xFFFFFFFF#32 (found.getD (Config.contextImage s.retained))) := by
        rw [same]
        exact beq_iff_eq
      unfold wake
      by_cases word : contextAgrees found delivered = true
      · rw [if_pos word, if_pos (agrees.mp word)]
        have others : warmStart delivered = { delivered with hlk := (warmStart delivered).hlk, spm := { delivered.spm with
            power := .starting
            supply := .good
            startKind := some .warm
            kept := some ⟨delivered.tmb, delivered.hlk⟩
            qualification := some (delivered.tmb.tick + qualificationTicks) } } := by
          unfold warmStart
          rw [transmit_others]
        have settings : (warmStart delivered).hlk.settings = delivered.hlk.settings := (transmit_link _).1
        obtain ⟨t, whole⟩ : ∃ t, warmStart delivered = t := ⟨_, rfl⟩
        rw [whole] at others settings ⊢
        subst same
        exact ⟨by rw [others], by rw [others], by rw [others], by rw [others], by rw [others], settings⟩
      · rw [if_neg word, if_neg (fun h => word (agrees.mpr h))]
        subst same
        exact ⟨rfl, rfl, rfl, ⟨rfl, rfl, rfl, rfl, rfl, rfl, rfl, rfl, rfl, rfl, rfl, rfl, rfl, rfl, rfl, rfl, rfl, rfl, rfl⟩,
          rfl, rfl⟩

end Sys2Proof.Machine
end

section
/-! The commitment to dormancy, and the end of the qualification (O51). -/

namespace Sys2Proof.Machine

/-! ## Readings given one after another (R123) -/

/-- A second reading in the same state gives the first one again. -/
theorem Tmb.afterReading_again (t : Tmb) : t.afterReading.afterReading = t.afterReading := by
  have form : t.afterReading.formed = t.formed := by rw [Tmb.afterReading_eq]; rfl
  rw [Tmb.afterReading_eq t.afterReading, Tmb.handedOut_afterReading, form]
  rw [Tmb.afterReading_eq t, Bool.and_assoc, Bool.and_self]

theorem reading_of_afterReading {s t : State} (given : t.tmb = s.tmb.afterReading) : reading t = reading s := by
  unfold reading
  rw [given, Tmb.handedOut_afterReading]

/-! ## The commitment told (R172) -/

/-- The state with its commitment no longer waiting. -/
def commitMade (s : State) : State := { s with spm := { s.spm with commitWaiting := false } }

/-- Steps 2 and 3 of the commitment: the DORMANT record offered and the PWN notice posted (R172). -/
def commitTold (s : State) : State :=
  postPower "COMMIT" [optText num (offeredSequence s)] (offer .pwr (dormantRecord s) (commitMade s))

theorem commit_eq (s : State) : commit s = endDrain (commitTold s) := rfl

theorem commitTold_others (s : State) : commitTold s = { s with
    tmb := (commitTold s).tmb
    evs := (commitTold s).evs
    spm := { s.spm with commitWaiting := false }
    hlk := (commitTold s).hlk } := by
  unfold commitTold
  rw [postPower_others, offer_others]
  rfl

theorem commitTold_evs (s : State) : (commitTold s).evs = (offer .pwr (dormantRecord s) (commitMade s)).evs := by
  unfold commitTold
  rw [postPower_others]

theorem commitTold_tmb (s : State) : (commitTold s).tmb = s.tmb.afterReading := by
  have clock : (commitTold s).tmb = (offer .pwr (dormantRecord s) (commitMade s)).tmb.afterReading := by
    unfold commitTold
    rw [postPower_others]
  rw [clock, offer_tmb]
  split
  · exact Tmb.afterReading_again s.tmb
  · rfl

/-- The commitment's record is queued, or dropped and counted (R172, R183). -/
theorem commitTold_queues (s : State) : Queues s (commitTold s) .pwr (dormantRecord s) s.svc.generation :=
  ((offer_queues .pwr (dormantRecord s) (commitMade s)).before (s' := s) rfl rfl rfl rfl).after (commitTold_evs s)

theorem commitTold_state (s : State) : (commitTold s).evs.state = s.evs.state := by
  rw [commitTold_evs, offer_state]
  rfl

/-! ## The end of the drain (R173 to R177) -/

/-- The store cannot go on: it is in FAULT, or FULL with the sector of the write position CLOSED and any due erase held. -/
def Evs.Stuck (e : Evs) : Prop := e.state = .fault ∨ e.state = .full ∧
  (sectorAt e (e.writePosition / 32)).condition = .closed ∧ ∀ d, e.due = some d → eraseHeld e d = true

/-- A committed part gives a store that cannot go on no operation (R148). -/
theorem mediumChoice_stuck {s : State} (committed : s.spm.committed = true) (stuck : s.evs.Stuck) : mediumChoice s = s := by
  by_cases usable : mediumUsable s = true
  · have free : freeErase s.evs = none := by
      by_contra erases
      obtain ⟨n, erase⟩ := Option.ne_none_iff_exists'.mp erases
      obtain ⟨due, free, running⟩ := (freeErase_iff _ _).mp erase
      rcases stuck with fault | ⟨_, _, held⟩
      · exact running fault
      · rw [held n due] at free
        cases free
    have still : ¬ canProgram s.evs = true := by
      rw [canProgram_iff]
      rintro ⟨running, _, open'⟩
      rcases stuck with fault | ⟨_, closed, _⟩
      · exact running fault
      · exact open' closed
    have quiet : startableRead s = none := Option.eq_none_iff_forall_not_mem.mpr fun q h => by
      have := ((startableRead_iff s q).mp h).2
      rw [committed] at this
      cases this
    rw [mediumChoice_ordinary usable (stuck.elim (fun h => .inr (.inr h)) fun h => .inr (.inl h.1)),
      ordinaryChoice_rests free still quiet]
  · exact mediumChoice_busy (Bool.eq_false_iff.mpr usable)

/-- An offer to a committed part whose store cannot go on starts nothing. -/
theorem offer_stuck {s : State} (committed : s.spm.committed = true) (stuck : s.evs.Stuck) (kind : RecordKind)
    (payload : List Byte) : (offer kind payload s).evs.activity = s.evs.activity := by
  cases takes : recordTaken s
  · rw [offer_dropped takes]
  · rw [offer_taken takes, mediumChoice_stuck (by exact committed) (by exact stuck)]
    rfl

theorem commitTold_stuck {s : State} (committed : s.spm.committed = true) (stuck : s.evs.Stuck) :
    (commitTold s).evs.activity = s.evs.activity := by
  rw [commitTold_evs, offer_stuck (by exact committed) (by exact stuck)]
  rfl

theorem drained_iff (e : Evs) : drained e = true ↔ e.pwq = [] ∨ e.state = .full ∨ e.state = .fault := by
  unfold drained
  simp [or_assoc]

theorem endDrain_drained {s : State} (idle : s.evs.activity = .idle) (done : drained s.evs = true) :
    endDrain s = enterDormant s := if_pos ⟨idle, done⟩

theorem endDrain_drains {s : State} (more : ¬ drained s.evs = true) : endDrain s = s := if_neg fun h => more h.2

/-- A commitment of a store that cannot go on is followed at once by the dormancy (R172, R173). -/
theorem commit_stuck {s : State} (committed : s.spm.committed = true) (idle : s.evs.activity = .idle) (stuck : s.evs.Stuck) :
    commit s = enterDormant (commitTold s) := by
  rw [commit_eq, endDrain_drained ((commitTold_stuck committed stuck).trans idle)]
  rw [drained_iff, commitTold_state]
  exact .inr (stuck.elim .inr fun h => .inl h.1)

/-- A commitment taken by a store that can go on drains (R172, R173). -/
theorem commit_drains {s : State} (goes : s.evs.state ≠ .full ∧ s.evs.state ≠ .fault) (takes : recordTaken s = true) :
    commit s = commitTold s := by
  rw [commit_eq, endDrain_drains]
  rw [drained_iff, commitTold_state, not_or, not_or]
  obtain ⟨x, queue, _⟩ := (commitTold_queues s).taken takes
  exact ⟨by rw [queue]; simp, goes⟩

/-- Dormancy with a good cell and the supply failed (R174, R175). -/
theorem enterDormant_sealed {s : State} (backup : s.spm.backup = .good) (supply : s.spm.supply = .failed) :
    enterDormant s = sealContext s := by
  unfold enterDormant
  rw [if_neg (by rw [backup]; nofun)]
  exact if_neg (by rw [supply]; nofun)

theorem enterDormant_off {s : State} (backup : s.spm.backup = .failed) : enterDormant s = enterOff s := if_pos backup

/-! ## The window's end (R172) -/

/-- The commitment is due at the window's end, with its reading kept (R172). -/
def windowEnded (s : State) : State := { s with
  tmb := s.tmb.afterReading
  spm := { s.spm with committed := true, commitWaiting := true, rideTimer := none, windowEndTime := reading s } }

theorem tickReached_self (now : Tick) : tickReached now now = true := by
  rw [tickReached_iff, BitVec.sub_self]
  decide

theorem exec_rideThroughWindowEnd {s : State} (riding : s.spm.power = .rideThrough) (timer : s.spm.rideTimer = some s.tmb.tick) :
    exec .rideThroughWindowEnd s =
      .next (if s.evs.activity = .idle then commit (windowEnded s) else windowEnded s) := by
  have due : windowEndDue s = true := (windowEndDue_iff s).mpr ⟨riding, _, timer, (tickReached_iff _ _).mp (tickReached_self _)⟩
  show Host.Outcome.next (if windowEndDue s then _ else _) = _
  rw [if_pos due]
  rfl

theorem reading_windowEnded (s : State) : reading (windowEnded s) = reading s := reading_of_afterReading rfl

theorem windowEnded_commits (s : State) : ∃ w, commitTold (windowEnded s) = w ∧
    w = { s with
      tmb := s.tmb.afterReading
      evs := w.evs
      spm := { s.spm with committed := true, commitWaiting := false, rideTimer := none, windowEndTime := reading s }
      hlk := w.hlk } ∧
    w.evs.state = s.evs.state ∧ w.evs.medium = s.evs.medium := by
  have others := commitTold_others (windowEnded s)
  have clock : (commitTold (windowEnded s)).tmb = s.tmb.afterReading :=
    (commitTold_tmb (windowEnded s)).trans (Tmb.afterReading_again s.tmb)
  have medium := (commitTold_queues (windowEnded s)).medium
  have state := commitTold_state (windowEnded s)
  refine ⟨_, rfl, ?_, state, medium⟩
  rw [clock] at others
  exact others

/-! ## The warm resume (R179) -/

/-- The deliveries of an owed step change the timebase's debt, the store, the receivers and the link alone. -/
theorem deliverOwed_others (s : State) : deliverOwed s = { s with
    tmb := { s.tmb with owed := none }
    evs := (deliverOwed s).evs
    evd := (deliverOwed s).evd
    iva := (deliverOwed s).iva
    hlk := (deliverOwed s).hlk } := by
  cases owed : s.tmb.owed with
  | none =>
    rw [deliverOwed_none owed]
    conv_lhs => rw [show s = { s with tmb := { s.tmb with owed := s.tmb.owed } } from rfl, owed]
  | some step =>
    rw [deliverOwed_some owed, deliverStep_others]

theorem deliverOwed_posts (s : State) : Posts s (deliverOwed s) [] ∧ (deliverOwed s).hlk.settings = s.hlk.settings := by
  cases owed : s.tmb.owed with
  | none =>
    rw [deliverOwed_none owed]
    exact ⟨Posts.refl s, rfl⟩
  | some step =>
    rw [deliverOwed_some owed]
    obtain ⟨posts, settings⟩ := deliverStep_posts step { s with tmb := { s.tmb with owed := none } }
    exact ⟨posts.of_links rfl rfl, settings⟩

/-- What the deliveries of an owed step leave of the store: its record queued or counted as dropped (R131, R142, R145). -/
structure OwedQueued (s t : State) : Prop where
  medium : t.evs.medium = s.evs.medium
  state : t.evs.state = s.evs.state
  none' : s.tmb.owed = none → t.evs.pwq = s.evs.pwq ∧ t.evs.lastIssued = s.evs.lastIssued ∧ t.evs.gapCount = s.evs.gapCount ∧
    t.evs.mode = s.evs.mode
  taken : ∀ o, s.tmb.owed = some o → recordTaken s = true →
    (∃ x, t.evs.pwq = s.evs.pwq ++ [x] ∧ t.evs.lastIssued = some x.sequence ∧ t.evs.gapCount = 0 ∧
      x.sequence = nextSequence s.evs ∧ x.kind = .tim ∧ x.time = o.time ∧ x.quality = o.quality ∧
      x.payload = o.payload ∧ x.generation = s.svc.generation ∧ x.lastEvent = s.evd.counter ∧
      x.gap = if s.evs.gapCount = 0 then none else some s.evs.gapCount) ∧
    t.evs.mode = if 24 ≤ s.evs.pwq.length + 1 then .drain else s.evs.mode
  dropped : ∀ o, s.tmb.owed = some o → recordTaken s = false → t.evs.pwq = s.evs.pwq ∧ t.evs.lastIssued = s.evs.lastIssued ∧
    t.evs.gapCount = min 65535 (s.evs.gapCount + 1) ∧ t.evs.mode = s.evs.mode

theorem deliverOwed_queued (s : State) : OwedQueued s (deliverOwed s) := by
  cases owed : s.tmb.owed with
  | none =>
    rw [deliverOwed_none owed]
    exact ⟨rfl, rfl, fun _ => ⟨rfl, rfl, rfl, rfl⟩, fun o h => (by cases owed.symm.trans h), fun o h => (by cases owed.symm.trans h)⟩
  | some step =>
    rw [deliverOwed_some owed]
    obtain ⟨bare, same⟩ : ∃ bare : State, bare = { s with tmb := { s.tmb with owed := none } } := ⟨_, rfl⟩
    have store : (deliverStep step bare).evs = (offerTimeRecord step.payload step.time step.quality bare).evs := by
      unfold deliverStep
      rw [signalStep_others]
    rw [← same]
    by_cases takes : recordTaken s = true
    · have takenStore : (offerTimeRecord step.payload step.time step.quality bare).evs =
          (mediumChoice { bare with evs := bare.evs.queued (completeRecord .tim step.payload step.time step.quality bare) }).evs := by
        unfold offerTimeRecord
        rw [if_pos (by rw [same]; exact takes)]
        rfl
      have chosen := (mediumChoice_chooses
        { bare with evs := bare.evs.queued (completeRecord .tim step.payload step.time step.quality bare) }).store
      obtain ⟨e, whole⟩ : ∃ e, (mediumChoice
        { bare with evs := bare.evs.queued (completeRecord .tim step.payload step.time step.quality bare) }).evs = e := ⟨_, rfl⟩
      rw [whole] at takenStore chosen
      rw [takenStore] at store
      subst same
      constructor
      all_goals rw [store, chosen]
      · rfl
      · rfl
      · exact fun h => (by cases owed.symm.trans h)
      · intro o h _
        cases owed.symm.trans h
        exact ⟨⟨_, rfl, rfl, rfl, rfl, rfl, rfl, rfl, rfl, rfl, rfl, rfl⟩, rfl⟩
      · exact fun o _ h => (by cases takes.symm.trans h)
    · have dropped := offerTimeRecord_dropped step.payload step.time step.quality bare
        (Bool.eq_false_iff.mpr (by rw [same]; exact takes))
      rw [dropped] at store
      subst same
      constructor
      all_goals rw [store]
      · rfl
      · rfl
      · exact fun h => (by cases owed.symm.trans h)
      · exact fun o _ h => absurd h takes
      · exact fun o _ _ => ⟨rfl, rfl, Nat.min_comm _ _, rfl⟩

/-- What the signal of an owed step leaves of the detector and the aggregator (R45, R73). -/
theorem deliverOwed_signals (s : State) :
    (s.svc.measuring = false ∨ s.tmb.owed = none → (deliverOwed s).evd = s.evd ∧ (deliverOwed s).iva = s.iva) ∧
    (s.svc.measuring = true → s.tmb.owed ≠ none → (deliverOwed s).evd.counter = s.evd.counter ∧
      (deliverOwed s).iva = { s.iva with
        interval := s.iva.interval.map (fun j => { j with marks := { j.marks with timeStep := true } })
        period := s.iva.period.map (fun d => { d with reasons := { d.reasons with timeStep := true } })
        pendingStep := true } ∧
      ∀ kind, (deliverOwed s).evd.context kind =
        (s.evd.context kind).map (fun c => { c with marks := { c.marks with timeStep := true } })) := by
  cases owed : s.tmb.owed with
  | none =>
    rw [deliverOwed_none owed]
    exact ⟨fun _ => ⟨rfl, rfl⟩, fun _ h => absurd rfl h⟩
  | some step =>
    rw [deliverOwed_some owed]
    unfold deliverStep
    have others := offerTimeRecord_others step.payload step.time step.quality { s with tmb := { s.tmb with owed := none } }
    obtain ⟨u, whole⟩ : ∃ u, offerTimeRecord step.payload step.time step.quality { s with tmb := { s.tmb with owed := none } } = u :=
      ⟨_, rfl⟩
    rw [whole] at others ⊢
    have svc : u.svc = s.svc := by rw [others]
    have evd : u.evd = s.evd := by rw [others]
    have iva : u.iva = s.iva := by rw [others]
    refine ⟨fun stopped => ?_, fun measuring _ => ?_⟩
    · rw [signalStep_stopped (by rw [svc]; exact stopped.resolve_right nofun)]
      exact ⟨evd, iva⟩
    · rw [← evd, ← iva]
      exact signalStep_measuring (by rw [svc]; exact measuring)

/-- Marks on the open records leave their number. -/
theorem openCount_of_marks {e f : Evd} {g : Context → Context} (marked : ∀ k, f.context k = (e.context k).map g) :
    f.openCount = e.openCount := by
  have same : ∀ l : List EventKind, (l.filterMap f.context).length = (l.filterMap e.context).length := by
    intro l
    induction l with
    | nil => rfl
    | cons k l ih =>
      rw [List.filterMap_cons, List.filterMap_cons, marked k]
      cases e.context k with
      | none => exact ih
      | some c => exact congrArg (· + 1) ih
  exact same _

theorem deliverOwed_counts (s : State) : (deliverOwed s).evd.counter = s.evd.counter ∧
    (deliverOwed s).evd.openCount = s.evd.openCount := by
  obtain ⟨still, marked⟩ := deliverOwed_signals s
  by_cases quiet : s.svc.measuring = false ∨ s.tmb.owed = none
  · rw [(still quiet).1]
    exact ⟨rfl, rfl⟩
  · obtain ⟨measuring, owed⟩ := not_or.mp quiet
    obtain ⟨counter, _, contexts⟩ := marked (by simpa using measuring) owed
    exact ⟨counter, openCount_of_marks contexts⟩

/-- The state once the store runs again: the timebase in HOLDOVER where it was LOCKED, the mode as the queue asks, and the
medium's choice made (R137, R147, R179). -/
structure StoreRuns (s c : State) : Prop where
  others : c = { s with tmb := c.tmb, evs := c.evs, spm := s.spm.running, hlk := c.hlk }
  clock : c.tmb = { s.tmb with
    quality := if s.tmb.quality = .locked then .holdover else s.tmb.quality
    lastReading := c.tmb.lastReading
    held := c.tmb.held }
  reading : reading c = reading s
  store : c.evs = { s.evs with
    mode := modeAtRun s.evs
    sectors := c.evs.sectors
    due := c.evs.due
    activity := c.evs.activity
    waitingRead := c.evs.waitingRead
    lastRead := c.evs.lastRead }
  posts : Posts s c (if s.tmb.quality = .locked then
    [⟨.tqn, ["LOCKED".toList, "HOLDOVER".toList, "RESUME".toList, timeText (Machine.reading s)]⟩] else [])

/-- Step 2 of the warm resume (R137, R179). -/
theorem resumeTimebase_resumes (s : State) :
    resumeTimebase s = { s with tmb := (resumeTimebase s).tmb, hlk := (resumeTimebase s).hlk } ∧
    (resumeTimebase s).tmb = { s.tmb with
      quality := if s.tmb.quality = .locked then .holdover else s.tmb.quality
      lastReading := (resumeTimebase s).tmb.lastReading
      held := (resumeTimebase s).tmb.held } ∧
    reading (resumeTimebase s) = reading s ∧
    Posts s (resumeTimebase s) (if s.tmb.quality = .locked then
      [⟨.tqn, ["LOCKED".toList, "HOLDOVER".toList, "RESUME".toList, timeText (reading s)]⟩] else []) ∧
    (resumeTimebase s).hlk.settings = s.hlk.settings := by
  unfold resumeTimebase
  split
  case isFalse free => exact ⟨rfl, rfl, rfl, Posts.refl s, rfl⟩
  case isTrue locked =>
    obtain ⟨released, same⟩ : ∃ released : State, released = { s with tmb := { s.tmb with quality := .holdover } } := ⟨_, rfl⟩
    have form : changeQuality .holdover .resume s = postQuality .locked .resume released := by
      unfold changeQuality
      rw [locked, same]
    have others := postQuality_others .locked .resume released
    have clock := postQuality_clock .locked .resume released
    have steady := postQuality_steady .locked .resume released
    have posts := postQuality_posts .locked .resume released
    have read : reading released = reading s := by rw [same]; rfl
    have read' := reading_postQuality .locked .resume released
    have notices : qualityNotices .locked released.tmb.quality .resume (reading released) =
        [⟨.tqn, ["LOCKED".toList, "HOLDOVER".toList, "RESUME".toList, timeText (reading s)]⟩] := by
      rw [read, same]
      rfl
    rw [notices] at posts
    rw [form]
    obtain ⟨b, whole⟩ : ∃ b, postQuality .locked .resume released = b := ⟨_, rfl⟩
    rw [whole] at others clock steady posts read' ⊢
    refine ⟨by rw [others, same], ?_, read'.trans read, ?_, steady.settings.trans (by rw [same])⟩
    · unfold Tmb.SameButReadings at clock
      rw [clock, same]
    · exact Posts.before (t := released) (by rw [same]) posts

theorem resumeStore_runs (s : State) : StoreRuns s (resumeStore (resumeTimebase { s with spm := s.spm.running })) := by
  obtain ⟨others, clock, read, posts, settings⟩ := resumeTimebase_resumes { s with spm := s.spm.running }
  obtain ⟨b, whole⟩ : ∃ b, resumeTimebase { s with spm := s.spm.running } = b := ⟨_, rfl⟩
  rw [whole] at others clock read posts settings ⊢
  have evs : b.evs = s.evs := by rw [others]
  unfold resumeStore
  have chooses := mediumChoice_chooses { b with evs := { b.evs with mode := modeAtRun b.evs } }
  obtain ⟨silent, _⟩ := mediumChoice_posts { b with evs := { b.evs with mode := modeAtRun b.evs } }
  obtain ⟨frame, store, _⟩ := chooses
  have told := (posts.of_links (s' := s) (t' := b) rfl rfl).trans (silent.of_links rfl rfl) (mediumChoice_posts
    { b with evs := { b.evs with mode := modeAtRun b.evs } }).2
  obtain ⟨c, whole'⟩ : ∃ c, mediumChoice { b with evs := { b.evs with mode := modeAtRun b.evs } } = c := ⟨_, rfl⟩
  rw [whole'] at frame store told ⊢
  have tmb : c.tmb = b.tmb := by rw [frame]
  rw [List.append_nil] at told
  refine ⟨by rw [frame, others], ?_, ?_, ?_, told⟩
  · rw [tmb]
    exact clock
  · unfold reading at read ⊢
    rw [tmb]
    exact read
  · rw [store, evs]

/-- The mode of the store after an offer (R147). -/
theorem offer_mode (kind : RecordKind) (payload : List Byte) (s : State) :
    (offer kind payload s).evs.pwq.length = s.evs.pwq.length ∧ (offer kind payload s).evs.mode = s.evs.mode ∨
    (offer kind payload s).evs.pwq.length = s.evs.pwq.length + 1 ∧
      (offer kind payload s).evs.mode = if 24 ≤ s.evs.pwq.length + 1 then .drain else s.evs.mode := by
  cases takes : recordTaken s
  · rw [offer_dropped takes]
    exact .inl ⟨rfl, rfl⟩
  · rw [offer_taken takes, (mediumChoice_chooses _).store]
    exact .inr ⟨by simp [Evs.queued], rfl⟩

/-- The mode of the store after an owed step (R147). -/
theorem deliverOwed_mode (s : State) :
    (deliverOwed s).evs.pwq.length = s.evs.pwq.length ∧ (deliverOwed s).evs.mode = s.evs.mode ∨
    (deliverOwed s).evs.pwq.length = s.evs.pwq.length + 1 ∧
      (deliverOwed s).evs.mode = if 24 ≤ s.evs.pwq.length + 1 then .drain else s.evs.mode := by
  obtain ⟨_, _, none', taken, dropped⟩ := deliverOwed_queued s
  cases owed : s.tmb.owed with
  | none =>
    obtain ⟨queue, _, _, mode⟩ := none' owed
    exact .inl ⟨by rw [queue], mode⟩
  | some step =>
    cases takes : recordTaken s
    · obtain ⟨queue, _, _, mode⟩ := dropped _ owed takes
      exact .inl ⟨by rw [queue], mode⟩
    · obtain ⟨⟨x, queue, _⟩, mode⟩ := taken _ owed takes
      exact .inr ⟨by rw [queue]; simp, mode⟩

/-- Steps 4 and 5 of the warm resume: the RESUMED record offered and the PWN notice posted (R179, R181, R183). -/
structure Announced (d p : State) : Prop where
  others : p = { d with tmb := p.tmb, evs := p.evs, spm := { d.spm with abortedRestarts := 0 }, hlk := p.hlk }
  clock : d.tmb.SameButReadings p.tmb
  queues : Queues d p .pwr (resumedRecord (reading d) d) d.svc.generation
  posts : Posts d p [⟨.pwn, ["RESUMED".toList, timeText (reading d), d.spm.backup.text, num p.evs.pwq.length,
    num (dormancySpan d), num d.spm.abortedRestarts, optText num (offeredSequence d)]⟩]
  settings : p.hlk.settings = d.hlk.settings
  mode : p.evs.pwq.length = d.evs.pwq.length ∧ p.evs.mode = d.evs.mode ∨
    p.evs.pwq.length = d.evs.pwq.length + 1 ∧ p.evs.mode = if 24 ≤ d.evs.pwq.length + 1 then .drain else d.evs.mode

theorem announceResume_announces (d : State) : Announced d (announceResume d) := by
  obtain ⟨q, whole⟩ : ∃ q, offer .pwr (resumedRecord (reading d) d) (takeReading d) = q := ⟨_, rfl⟩
  have frame := offer_others .pwr (resumedRecord (reading d) d) (takeReading d)
  have clock := offer_clock .pwr (resumedRecord (reading d) d) (takeReading d)
  have queues := offer_queues .pwr (resumedRecord (reading d) d) (takeReading d)
  have mode := offer_mode .pwr (resumedRecord (reading d) d) (takeReading d)
  have read := reading_offer .pwr (resumedRecord (reading d) d) (takeReading d)
  obtain ⟨silent, settings⟩ := offer_posts .pwr (resumedRecord (reading d) d) (takeReading d)
  rw [whole] at frame clock queues mode read silent settings
  have form : announceResume d = { (postPower "RESUMED" [num (dormancySpan d), num d.spm.abortedRestarts,
      optText num (offeredSequence d)] q) with spm := { (postPower "RESUMED" [num (dormancySpan d), num d.spm.abortedRestarts,
      optText num (offeredSequence d)] q).spm with abortedRestarts := 0 } } := by rw [← whole]; rfl
  have told := postPower_others "RESUMED" [num (dormancySpan d), num d.spm.abortedRestarts, optText num (offeredSequence d)] q
  have posts := postPower_posts "RESUMED" [num (dormancySpan d), num d.spm.abortedRestarts, optText num (offeredSequence d)] q
  have steady : (postPower "RESUMED" [num (dormancySpan d), num d.spm.abortedRestarts,
    optText num (offeredSequence d)] q).hlk.settings = q.hlk.settings := (postWithReading_steady _ _ q).settings
  obtain ⟨v, whole'⟩ : ∃ v, postPower "RESUMED" [num (dormancySpan d), num d.spm.abortedRestarts,
    optText num (offeredSequence d)] q = v := ⟨_, rfl⟩
  rw [whole'] at form told posts steady
  have evs : v.evs = q.evs := by rw [told]
  have spm : q.spm = d.spm := by rw [frame]; rfl
  have tmb : q.tmb.SameButReadings v.tmb := by
    rw [told]
    exact Tmb.afterReading_only q.tmb
  rw [form]
  refine ⟨?_, ?_, ?_, ?_, steady.trans settings, ?_⟩
  · rw [told, frame]
    rfl
  · exact (Tmb.SameButReadings.trans (Tmb.afterReading_only d.tmb) clock).trans tmb
  · exact (queues.before (s' := d) rfl (Tmb.handedOut_afterReading d.tmb) (by rw [takeReading_tmb, Tmb.afterReading_eq]) rfl).after evs
  · rw [read, reading_takeReading, spm] at posts
    have all := (silent.of_links (s' := d) (t' := q) rfl rfl).trans posts steady
    rw [evs]
    exact all.of_links rfl rfl
  · rw [evs]
    exact mode

end Sys2Proof.Machine
end

section
/-! The window's end and the qualification's end (O51). -/

namespace Sys2Proof.Machine

theorem exec_qualificationEnd {s : State} (starting : s.spm.power = .starting) (timer : s.spm.qualification = some s.tmb.tick) :
    exec .qualificationEnd s = .next (endQualification s) := by
  have due : qualificationDue s = true :=
    (qualificationDue_iff s).mpr ⟨starting, _, timer, (tickReached_iff _ _).mp (tickReached_self _)⟩
  show Host.Outcome.next (if qualificationDue s then _ else _) = _
  rw [if_pos due]

/-- The length of a dormancy in ms, limited to 32 bits (R182). -/
theorem dormancySpan_eq (s : State) : dormancySpan s = min 4294967295 (((s.spm.dormancyEntry.map (fun d =>
    s.spm.wrapCount * 4294967296 + s.tmb.tick.toNat - d.extended)).getD 0) * 1000 / 32768) := Nat.min_comm _ _

/-- The channels, presence entries and halves that sampling begins with (R14, R16, R23). -/
theorem startSampling_channels (s : State) (p : Phase) :
    if wired s.svc.active.wiring p = true ∨ wired s.cyt.wiringInUse p = true then
      (startSampling s).cyt.channels.get p = some ⟨.neg, .neither, .neither, .neither, match s.cyt.fnInUse with
        | .hz50 => 95
        | .hz60 => 79⟩ ∧
      (startSampling s).cyt.presence.get p = some (match s.cyt.presence.get p with
        | some e => { e with run := 0 }
        | none => ⟨false, 0, false, false⟩) ∧
      (startSampling s).hcu.channels.get p = some ⟨Half.empty, Half.empty⟩
    else (startSampling s).cyt.channels.get p = none ∧ (startSampling s).cyt.presence.get p = none ∧
      (startSampling s).hcu.channels.get p = none := by
  have begins : s.cyt.begins s.svc.active p = true ↔
      wired s.svc.active.wiring p = true ∨ wired s.cyt.wiringInUse p = true := iff_of_eq (Bool.or_eq_true _ _)
  have channel : (startSampling s).cyt.channels.get p =
      if s.cyt.begins s.svc.active p then some (SignState.start (quarterCycle s.cyt.fnInUse)) else none :=
    PerPhase.build_get (fun p => if s.cyt.begins s.svc.active p then some (SignState.start (quarterCycle s.cyt.fnInUse)) else none) p
  have entry : (startSampling s).cyt.presence.get p =
      if s.cyt.begins s.svc.active p then some (Presence.resumed (s.cyt.presence.get p)) else none :=
    PerPhase.build_get (fun p => if s.cyt.begins s.svc.active p then some (Presence.resumed (s.cyt.presence.get p)) else none) p
  have half : (startSampling s).hcu.channels.get p =
      if s.cyt.begins s.svc.active p then some HcuChannel.empty else none :=
    PerPhase.build_get (fun p => if s.cyt.begins s.svc.active p then some HcuChannel.empty else none) p
  rw [channel, entry, half]
  by_cases begun : wired s.svc.active.wiring p = true ∨ wired s.cyt.wiringInUse p = true
  · have holds := begins.mpr begun
    rw [if_pos begun, if_pos holds, if_pos holds, if_pos holds]
    refine ⟨?_, ?_, rfl⟩
    · cases s.cyt.fnInUse <;> rfl
    · cases s.cyt.presence.get p <;> rfl
  · have fails := fun h => begun (begins.mp h)
    rw [if_neg begun, if_neg fails, if_neg fails, if_neg fails]
    exact ⟨rfl, rfl, rfl⟩

/-- The mode after two offers, each of which may have been taken (R147, R171). -/
theorem mode_after_offers {n d t : Nat} {m md mt : StoreMode}
    (first : d = n ∧ md = m ∨ d = n + 1 ∧ md = if 24 ≤ n + 1 then .drain else m)
    (second : t = d ∧ mt = md ∨ t = d + 1 ∧ mt = if 24 ≤ d + 1 then .drain else md) :
    mt = if n < t ∧ 24 ≤ t then .drain else m := by
  rcases first with ⟨rfl, rfl⟩ | ⟨rfl, rfl⟩
  · rcases second with ⟨rfl, rfl⟩ | ⟨rfl, rfl⟩
    · exact (if_neg (by omega)).symm
    · exact if_congr (by omega) rfl rfl
  · rcases second with ⟨rfl, rfl⟩ | ⟨rfl, rfl⟩
    · exact if_congr (by omega) rfl rfl
    · by_cases many : 24 ≤ n + 1
      · rw [if_pos (by omega), if_pos (by omega)]
      · rw [if_neg many]
        exact if_congr (by omega) rfl rfl

/-- The dormancy sealed on a state that the commitment has left (R174 to R176). -/
theorem sealContext_blocks (w : State) :
    (sealContext w).evs = { w.evs with waitingRead := none, steWaiting := false } ∧
    (sealContext w).tmb = { w.tmb.afterReading with anchor := none, anchorExpired := false } ∧
    (sealContext w).spm = { w.spm with
      power := .dormant
      rideTimer := none
      committed := false
      commitWaiting := false
      dormancyEntry := some ⟨extendedTick w, reading w⟩
      checkWord := some (crc32 0xFFFFFFFF#32 (Config.contextImage (sealContext w).retained)) } ∧
    (sealContext w).hlk = w.hlk.switchedOff ∧
    sealContext w = { w with
      ich := { w.ich with windowOpen := false }
      iva := w.iva.atDormancy
      tmb := (sealContext w).tmb
      evs := (sealContext w).evs
      spm := (sealContext w).spm
      hlk := (sealContext w).hlk } := ⟨rfl, rfl, rfl, rfl, rfl⟩

/-- A supply that has returned starts the part over the same medium. -/
theorem wake_medium (found : Option (List Byte)) (s : State) : (wake found s).evs.medium = s.evs.medium ∧
    (wake found s).pins = s.pins ∧ (wake found s).pending = s.pending := by
  unfold wake
  split
  · unfold warmStart
    rw [transmit_others]
    exact ⟨rfl, rfl, rfl⟩
  · exact ⟨rfl, rfl, rfl⟩

/-- Whatever the supply and the cell, the end of the drain keeps the medium. -/
theorem enterDormant_medium (s : State) : (enterDormant s).evs.medium = s.evs.medium := by
  unfold enterDormant
  split
  · exact (enterOff_keepsMedium s).1
  · dsimp only
    split
    · exact (wake_medium none (sealContext s)).1
    · rfl

theorem commit_medium (s : State) : (commit s).evs.medium = s.evs.medium := by
  have told := (commitTold_queues s).medium
  rw [commit_eq]
  unfold endDrain
  split
  · exact (enterDormant_medium _).trans told
  · exact told

/-- The end of an uncommitted ride-through (R172 to R177). -/
theorem windowEnd_commits (s : State) (riding : s.spm.power = .rideThrough) (timer : s.spm.rideTimer = some s.tmb.tick) :
    ∃ t, exec .rideThroughWindowEnd s = .next t ∧ t.evs.medium = s.evs.medium ∧ t.pending = s.pending ∧
      (s.evs.activity ≠ .idle → t = windowEnded s) ∧
      (s.evs.activity = .idle → s.evs.state = .ready → s.evs.pwq.length < 32 → t = commitTold (windowEnded s)) ∧
      (s.evs.activity = .idle → s.evs.Stuck → s.spm.supply = .failed →
        t = if s.spm.backup = .failed then wiped (commitTold (windowEnded s)) else sealContext (commitTold (windowEnded s))) := by
  refine ⟨_, exec_rideThroughWindowEnd riding timer, ?_, ?_, fun busy => if_neg busy, fun idle ready room => ?_,
    fun idle stuck supply => ?_⟩
  · split
    · exact commit_medium (windowEnded s)
    · rfl
  · split
    · exact (commit_keeps (windowEnded s)).pending
    · rfl
  · rw [if_pos idle, commit_drains]
    · exact ⟨by show s.evs.state ≠ _; rw [ready]; nofun, by show s.evs.state ≠ _; rw [ready]; nofun⟩
    · exact (recordTaken_iff _).mpr ⟨by show s.evs.state ≠ _; rw [ready]; nofun, room⟩
  · rw [if_pos idle, commit_stuck rfl (by exact idle) (by exact stuck)]
    obtain ⟨w, told, others, _⟩ := windowEnded_commits s
    rw [told]
    have cell : w.spm.backup = s.spm.backup := by rw [others]
    have fails : w.spm.supply = .failed := by rw [others]; exact supply
    cases backup : s.spm.backup
    · rw [enterDormant_sealed (cell.trans backup) fails]
      rfl
    · rw [enterDormant_off (cell.trans backup), enterOff_wiped fails]
      rfl

/-- The end of a warm qualification (R178, R179). -/
theorem warmResume_resumes (s : State) : ∃ c d p, StoreRuns s c ∧ deliverOwed c = d ∧ Announced d p ∧
    warmResume s = { startSampling p with
      evd := { p.evd with resumed := true }
      iva := { p.iva with resumed := true } } :=
  ⟨_, _, _, resumeStore_runs s, rfl, announceResume_announces _, rfl⟩

/-- What the end of a warm qualification leaves, block by block (R14, R131, R136, R137, R147, R178, R179, R183). -/
theorem warmResume_leaves (s : State) : ∃ t, warmResume s = t ∧ t.evs.medium = s.evs.medium ∧ t.pending = s.pending ∧
    t.pins = s.pins ∧
    t.spm = { s.spm.running with abortedRestarts := 0 } ∧
    t.evs.mode = (if s.evs.pwq.length < t.evs.pwq.length ∧ 24 ≤ t.evs.pwq.length then .drain else modeAtRun s.evs) ∧
    t.tmb = { s.tmb with
      quality := if s.tmb.quality = .locked then .holdover else s.tmb.quality
      owed := none
      lastReading := t.tmb.lastReading
      held := t.tmb.held } ∧
    (∃ p : State, p.ich = s.ich ∧ p.cyt = s.cyt ∧ p.hcu = s.hcu ∧ p.svc = s.svc ∧ p.tmb.tick = s.tmb.tick ∧
      t.ich = (startSampling p).ich ∧ t.cyt = (startSampling p).cyt ∧ t.hcu = (startSampling p).hcu) ∧
    t.tlb = s.tlb ∧ t.svc = s.svc ∧
    (s.svc.measuring = false ∨ s.tmb.owed = none →
      t.evd = { s.evd with resumed := true } ∧ t.iva = { s.iva with resumed := true }) ∧
    (s.svc.measuring = true → s.tmb.owed ≠ none → t.evd.counter = s.evd.counter ∧ t.evd.resumed = true ∧
      t.iva = { s.iva with
        interval := s.iva.interval.map (fun j => { j with marks := { j.marks with timeStep := true } })
        period := s.iva.period.map (fun d => { d with reasons := { d.reasons with timeStep := true } })
        pendingStep := true
        resumed := true } ∧
      ∀ kind, t.evd.context kind = (s.evd.context kind).map (fun c => { c with marks := { c.marks with timeStep := true } })) := by
  obtain ⟨c, d, p, runs, owed, announced, form⟩ := warmResume_resumes s
  obtain ⟨frame, clock, _, store, _⟩ := runs
  obtain ⟨still, marked⟩ := deliverOwed_signals c
  have frame' := deliverOwed_others c
  have delivered := deliverOwed_queued c
  have mode := deliverOwed_mode c
  rw [owed] at still marked frame' delivered mode
  obtain ⟨frame'', clock', queues, _, _, mode'⟩ := announced
  have svc : c.svc = s.svc := by rw [frame]
  have evd : c.evd = s.evd := by rw [frame]
  have iva : c.iva = s.iva := by rw [frame]
  have debt : c.tmb.owed = s.tmb.owed := by rw [clock]
  have count : c.evs.pwq.length = s.evs.pwq.length := by rw [store]
  have runsMode : c.evs.mode = modeAtRun s.evs := by rw [store]
  have pEvd : p.evd = d.evd := by rw [frame'']
  have pIva : p.iva = d.iva := by rw [frame'']
  rw [svc, debt, evd, iva, ← pEvd, ← pIva] at still marked
  refine ⟨_, form, ?_, by show p.pending = _; rw [frame'', frame', frame], by show p.pins = _; rw [frame'', frame', frame],
    by show p.spm = _; rw [frame'', frame', frame], ?_, ?_,
    ⟨p, by rw [frame'', frame', frame], by rw [frame'', frame', frame], by rw [frame'', frame', frame],
      by rw [frame'', frame', frame], ?_, rfl, rfl, rfl⟩, by show p.tlb = _; rw [frame'', frame', frame],
    by show p.svc = _; rw [frame'', frame', frame], fun quiet => ?_, fun measuring owes => ?_⟩
  · exact queues.medium.trans (delivered.medium.trans (by rw [store]))
  · have same := mode_after_offers mode mode'
    rw [count] at same
    rw [runsMode] at same
    exact same
  · show p.tmb = _
    unfold Tmb.SameButReadings at clock'
    rw [clock', frame', clock]
    rfl
  · unfold Tmb.SameButReadings at clock'
    rw [clock', frame', clock]
  · obtain ⟨a, b⟩ := still quiet
    exact ⟨congrArg (fun e : Evd => { e with resumed := true }) a, congrArg (fun v : Iva => { v with resumed := true }) b⟩
  · obtain ⟨a, b, m⟩ := marked measuring owes
    exact ⟨a, rfl, congrArg (fun v : Iva => { v with resumed := true }) b, fun kind => by rw [← m kind]; cases kind <;> rfl⟩

end Sys2Proof.Machine
end

section
/-! The window's end and the qualification's end, settled (O51). -/

namespace Sys2Proof.Machine

/-- The records and notices of a warm resume (R131, R136, R142, R181, R183). -/
theorem warmResume_tells (s : State) : ∃ t, warmResume s = t ∧ ∃ e : Evs,
    (s.tmb.owed = none → e.pwq = s.evs.pwq ∧ e.lastIssued = s.evs.lastIssued ∧ e.gapCount = s.evs.gapCount) ∧
    (∀ o, s.tmb.owed = some o →
      (recordTaken s = true → ∃ x, e.pwq = s.evs.pwq ++ [x] ∧ e.lastIssued = some x.sequence ∧ e.gapCount = 0 ∧
        x.sequence = nextSequence s.evs ∧ x.kind = .tim ∧ x.time = o.time ∧ x.quality = o.quality ∧
        x.payload = o.payload ∧ x.generation = s.svc.generation ∧ x.lastEvent = s.evd.counter ∧
        x.gap = if s.evs.gapCount = 0 then none else some s.evs.gapCount) ∧
      (recordTaken s = false → e.pwq = s.evs.pwq ∧ e.lastIssued = s.evs.lastIssued ∧
        e.gapCount = min 65535 (s.evs.gapCount + 1))) ∧
    e.medium = s.evs.medium ∧ e.state = s.evs.state ∧
    Queues { s with tmb := { s.tmb with quality := t.tmb.quality }, evs := e } t .pwr
      (resumedPayload (dormancyTime s) (reading s) (dormancySpan s) s.spm.abortedRestarts s.evd.openCount s.svc.measuring
        s.svc.survey.state s.spm.backup) s.svc.generation ∧
    Posts s t ((if s.tmb.quality = .locked then
        [⟨.tqn, ["LOCKED".toList, "HOLDOVER".toList, "RESUME".toList, timeText (reading s)]⟩] else []) ++
      [⟨.pwn, ["RESUMED".toList, timeText (reading s), s.spm.backup.text, num t.evs.pwq.length, num (dormancySpan s),
        num s.spm.abortedRestarts,
        optText num (offeredSequence { s with tmb := { s.tmb with quality := t.tmb.quality }, evs := e })]⟩]) := by
  obtain ⟨c, d, p, runs, owed, announced, form⟩ := warmResume_resumes s
  obtain ⟨frame, clock, read, store, posts⟩ := runs
  have frame' := deliverOwed_others c
  have delivered := deliverOwed_queued c
  obtain ⟨counter, count⟩ := deliverOwed_counts c
  obtain ⟨silent, settings⟩ := deliverOwed_posts c
  rw [owed] at frame' delivered counter count silent settings
  obtain ⟨_, clock', queues, posts', steady, _⟩ := announced
  obtain ⟨medium, state, none', taken, dropped⟩ := delivered
  have debt : c.tmb.owed = s.tmb.owed := by rw [clock]
  have svc : c.svc = s.svc := by rw [frame]
  have evd : c.evd = s.evd := by rw [frame]
  have dSvc : d.svc = s.svc := by rw [frame', svc]
  have dSpm : d.spm = s.spm.running := by rw [frame', frame]
  have dTmb : d.tmb = { c.tmb with owed := none } := by rw [frame']
  have dTick : d.tmb.tick = s.tmb.tick := by rw [dTmb, clock]
  have dRead : reading d = reading s := by
    rw [← read]
    unfold reading
    rw [dTmb]
    rfl
  have dCounter : d.evd.counter = s.evd.counter := by rw [counter, evd]
  have dCount : d.evd.openCount = s.evd.openCount := by rw [count, evd]
  have dSpan : dormancySpan d = dormancySpan s := by
    unfold dormancySpan extendedTick
    rw [dSpm, dTick]
    rfl
  have dTime : dormancyTime d = dormancyTime s := by
    unfold dormancyTime
    rw [dSpm]
    rfl
  have queue : c.evs.pwq = s.evs.pwq := by rw [store]
  have issued : c.evs.lastIssued = s.evs.lastIssued := by rw [store]
  have gap : c.evs.gapCount = s.evs.gapCount := by rw [store]
  have stays : c.evs.state = s.evs.state := by rw [store]
  have takes : recordTaken c = recordTaken s := by
    unfold recordTaken
    rw [queue, stays]
  have next : nextSequence c.evs = nextSequence s.evs := by
    unfold nextSequence
    rw [issued]
  have payload : resumedRecord (reading d) d = resumedPayload (dormancyTime s) (reading s) (dormancySpan s)
      s.spm.abortedRestarts s.evd.openCount s.svc.measuring s.svc.survey.state s.spm.backup := by
    unfold resumedRecord
    rw [dRead, dTime, dSpan, dCount, dSvc, dSpm]
    rfl
  have quality : p.tmb.quality = d.tmb.quality := by
    unfold Tmb.SameButReadings at clock'
    rw [clock']
  rw [payload, dSvc] at queues
  rw [dRead, dSpan, dSpm] at posts'
  refine ⟨_, form, d.evs, fun free => ?_, fun o owes => ⟨fun room => ?_, fun full => ?_⟩, ?_, ?_, ?_, ?_⟩
  · obtain ⟨a, b, g, _⟩ := none' (debt.trans free)
    exact ⟨a.trans queue, b.trans issued, g.trans gap⟩
  · obtain ⟨⟨x, joins, last, none'', sequence, kind, time, quality', body, generation, events, gaps⟩, _⟩ :=
      taken o (debt.trans owes) (takes.trans room)
    rw [queue] at joins
    rw [gap] at gaps
    exact ⟨x, joins, last, none'', sequence.trans next, kind, time, quality', body, by rw [generation, svc],
      by rw [events, evd], gaps⟩
  · obtain ⟨a, b, g, _⟩ := dropped o (debt.trans owes) (takes.trans full)
    rw [gap] at g
    exact ⟨a.trans queue, b.trans issued, g⟩
  · exact medium.trans (by rw [store])
  · exact state.trans stays
  · refine (queues.before (s' := { s with tmb := { s.tmb with quality := p.tmb.quality }, evs := d.evs }) rfl ?_ quality.symm
      dCounter).after rfl
    exact dRead
  · have first := posts.trans silent settings
    rw [List.append_nil] at first
    exact (first.trans posts' steady).of_links rfl rfl

/-- Settles O51. -/
theorem windowEndAndQualificationEndMovePower : Obligations.WindowEndAndQualificationEndMovePower := by
  refine ⟨fun s riding timer _ => ?_, fun s starting timer => ?_⟩
  · intro stuck
    obtain ⟨t, done, medium, pending, busy, ready, ends⟩ := windowEnd_commits s riding timer
    obtain ⟨w, told, frame, state, kept⟩ := windowEnded_commits s
    have queues := commitTold_queues (windowEnded s)
    rw [told] at ready ends queues
    have sameReading : reading w = reading s := reading_of_afterReading (by rw [frame])
    have cannot : s.evs.state = .fault ∨ s.evs.state = .full ∧ stuck → s.evs.Stuck := id
    clear_value stuck
    refine ⟨t, done, medium, pending, fun working => ?_, fun idle up room => ?_, fun idle halts good failed => ?_,
      fun idle halts bad failed => ?_⟩
    · rw [busy working]
      exact ⟨rfl, Tmb.afterReading_only s.tmb |>.trans (by rw [Tmb.afterReading_lastReading]; rfl)⟩
    · rw [ready idle up room]
      have takes : recordTaken (windowEnded s) = true :=
        (recordTaken_iff _).mpr ⟨by show s.evs.state ≠ _; rw [up]; nofun, room⟩
      obtain ⟨x, joins, _, _, sequence, kind, payload, _⟩ := queues.taken takes
      refine ⟨by rw [frame], x, joins, kind, sequence, payload.trans ?_⟩
      show dormantPayload s.spm.failTime (reading s) s.evs.pwq.length s.evs.state _ _ _ _ = _
      rw [up]
      rfl
    · have sealed : t = sealContext w := by
        rw [ends idle (cannot halts) failed, if_neg (by rw [good]; nofun)]
      obtain ⟨evs, tmb, spm, hlk, whole⟩ := sealContext_blocks w
      obtain ⟨reception, buffer, reply, inProgress, transmitter⟩ := w.hlk.switchedOff_silent
      have clock : w.tmb.afterReading = s.tmb.afterReading := by
        rw [show w.tmb = s.tmb.afterReading by rw [frame], Tmb.afterReading_again]
      have entry : extendedTick w = s.spm.wrapCount * 4294967296 + s.tmb.tick.toNat := by
        rw [frame]
        unfold extendedTick
        rw [Tmb.afterReading_eq]
      rw [← sealed] at evs tmb spm hlk whole
      rw [clock, Tmb.afterReading_eq] at tmb
      rw [entry, sameReading] at spm
      refine ⟨by rw [spm], by rw [spm], by rw [spm], by rw [spm], by rw [spm], by rw [evs]; exact state, by rw [evs],
        by rw [tmb], by rw [whole], by rw [hlk]; exact buffer, by rw [hlk]; exact reception, by rw [hlk]; exact inProgress,
        by rw [hlk]; exact reply, by rw [hlk]; exact transmitter, by rw [whole, frame], by rw [whole, frame],
        by rw [whole, frame], by rw [whole, frame], by rw [whole, frame], by rw [whole, frame]; rfl, tmb⟩
    · have off : t = wiped w := by rw [ends idle (cannot halts) failed, if_pos bad]
      rw [off]
      exact ⟨rfl, rfl, rfl⟩
  · cases kind : s.spm.startKind with
    | none =>
      refine ⟨_, exec_qualificationEnd starting timer, ?_⟩
      unfold endQualification
      rw [kind]
      exact ⟨rfl, rfl, rfl, nofun, nofun⟩
    | some start =>
      cases start with
      | cold =>
        refine ⟨_, exec_qualificationEnd starting timer, ?_⟩
        unfold endQualification
        rw [kind]
        exact ⟨rfl, rfl, rfl, fun _ => rfl, nofun⟩
      | warm =>
        obtain ⟨t, form, medium, pending, pins, spm, mode, tmb, sampled, tlb, svc, still, marked⟩ := warmResume_leaves s
        obtain ⟨t', form', e, none', taken, kept, state, queues, posts⟩ := warmResume_tells s
        obtain rfl : t = t' := form.symm.trans form'
        obtain ⟨p, ich, cyt, hcu, set, tick, samples, tracks, halves⟩ := sampled
        refine ⟨t, ?_, medium, pending, pins, nofun, fun _ => ⟨spm, mode, by rw [tmb], by rw [tmb], by rw [tmb], by rw [tmb],
          by rw [tmb], ?_, ?_, fun phase => ?_, ?_, tlb, svc, by rw [tmb], still, marked, e, none', taken, kept, state, ?_, ?_⟩⟩
        · rw [exec_qualificationEnd starting timer, ← form]
          unfold endQualification
          rw [kind]
        · rw [samples, ← ich, ← tick]
          rfl
        · rw [tracks, ← cyt]
          rfl
        · have channels := startSampling_channels p phase
          rw [← tracks, ← halves, set, cyt] at channels
          exact channels
        · rw [halves, ← hcu]
          rfl
        · rw [dormancySpan_eq] at queues
          exact queues
        · rw [dormancySpan_eq] at posts
          exact posts

end Sys2Proof.Machine
end

section
/-! What follows any completion of the medium (O43, first part). -/

namespace Sys2Proof.Machine

/-! ## OFF, DORMANT and the starts at once (R173 to R178, R180) -/

/-- OFF, or the cold start of a supply that has returned: the medium, the lines and the queue stay, all else is lost. -/
def WentOff (u t : State) : Prop := t.evs.medium = u.evs.medium ∧ t.pins = u.pins ∧ t.pending = u.pending ∧ t.svc = Svc.cold ∧
  t.tmb = Tmb.cold ∧ t.evs = Evs.cold u.evs.medium ∧
  (u.spm.supply = .failed → t.spm.power = .off) ∧
  (u.spm.supply = .good → t.spm.power = .starting ∧ t.spm.startKind = some .cold ∧ t.spm.coldReason = some .powerUp)

theorem enterOff_went (u : State) : WentOff u (enterOff u) := by
  unfold enterOff
  split
  case isTrue good => exact ⟨rfl, rfl, rfl, rfl, rfl, rfl, fun failed => absurd (failed.symm.trans good) nofun, fun _ => ⟨rfl, rfl, rfl⟩⟩
  case isFalse failed => exact ⟨rfl, rfl, rfl, rfl, rfl, rfl, fun _ => rfl, fun good => absurd good failed⟩

/-- OFF sees of a state its medium, its lines, its queue and its supply alone. -/
theorem WentOff.of_like {u w t : State} (h : WentOff w t) (medium : w.evs.medium = u.evs.medium) (pins : w.pins = u.pins)
    (pending : w.pending = u.pending) (supply : w.spm.supply = u.spm.supply) : WentOff u t := by
  unfold WentOff at h ⊢
  rw [medium, pins, pending, supply] at h
  exact h

/-- A link switched off: no frame, command or reply is left, and a notice cut off stands at the head of the queue (R195). -/
def Unlinked (w : State) (h : Hlk) : Prop := h.buffer = [] ∧ h.reception = none ∧ h.inProgress = none ∧
  h.reply = none ∧ h.transmitter = .idle ∧ (w.hlk.adoption = none → h.settings = w.hlk.settings) ∧
  (∀ n f, w.hlk.transmitter = .notice n f → h.notices = (n :: w.hlk.notices).take 16 ∧
    (h.overflow = true ↔ w.hlk.overflow = true ∨ 16 ≤ w.hlk.notices.length)) ∧
  ((∀ n f, w.hlk.transmitter ≠ .notice n f) → h.notices = w.hlk.notices ∧ h.overflow = w.hlk.overflow)

theorem Hlk.switchedOff_queue (h : Hlk) : h.switchedOff.notices = h.cutOff.notices ∧ h.switchedOff.overflow = h.cutOff.overflow ∧
    (h.adoption = none → h.switchedOff.settings = h.settings) := by
  have cut : h.cutOff.adoption = h.adoption ∧ h.cutOff.settings = h.settings := by
    unfold Hlk.cutOff
    split <;> exact ⟨rfl, rfl⟩
  unfold Hlk.switchedOff Hlk.adopt
  split
  case h_1 l adoption => exact ⟨rfl, rfl, fun none' => absurd (adoption.symm.trans (cut.1.trans none')) nofun⟩
  case h_2 => exact ⟨rfl, rfl, fun _ => cut.2⟩

theorem switchedOff_unlinked (w : State) : Unlinked w w.hlk.switchedOff := by
  obtain ⟨reception, buffer, reply, inProgress, transmitter⟩ := w.hlk.switchedOff_silent
  obtain ⟨notices, overflow, settings⟩ := w.hlk.switchedOff_queue
  refine ⟨buffer, reception, inProgress, reply, transmitter, settings, fun n f sending => ?_, fun other => ?_⟩
  · rw [notices, overflow]
    unfold Hlk.cutOff
    rw [sending]
    exact ⟨rfl, by simp [Hlk.putBack]⟩
  · have same : w.hlk.cutOff = w.hlk := by
      unfold Hlk.cutOff
      split
      case h_1 n f sending => exact absurd sending (other n f)
      case h_2 => rfl
      case h_3 => rfl
    rw [notices, overflow, same]
    exact ⟨rfl, rfl⟩

/-- Asleep after the drain: OFF with a failing cell; else DORMANT, sealed, or the warm start of a supply that has returned. -/
def Asleep (u w t : State) : Prop := (u.spm.backup = .failed → WentOff u t) ∧
  (u.spm.backup = .good →
    t = { w with ich := { w.ich with windowOpen := false }, iva := t.iva, tmb := t.tmb, evs := t.evs, spm := t.spm
                 hlk := t.hlk } ∧
    t.evs = { w.evs with waitingRead := none, steWaiting := false } ∧
    t.iva = { w.iva with
      period := w.iva.period.map (fun d => { d with reasons := { d.reasons with dormancy := true } }) } ∧
    t.tmb = { w.tmb with
      anchor := none
      anchorExpired := false
      lastReading := some (reading w)
      held := w.tmb.held && w.tmb.formed.lt (reading w) } ∧ t.spm.committed = false ∧
    t.spm.commitWaiting = false ∧ t.spm.rideTimer = none ∧ t.spm.checkWord.isSome = true ∧
    t.spm.dormancyEntry = some ⟨u.spm.wrapCount * 4294967296 + u.tmb.tick.toNat, reading u⟩ ∧
    (u.spm.supply = .failed → t.spm.power = .dormant ∧ Unlinked w t.hlk ∧
      t.spm.checkWord = some (crc32 0xFFFFFFFF#32 (Config.contextImage t.retained))) ∧
    (u.spm.supply = .good → t.spm.power = .starting ∧ t.spm.startKind = some .warm ∧
      t.spm.qualification = some (u.tmb.tick + 3277#32) ∧ ∃ h, t.spm.kept = some ⟨t.tmb, h⟩ ∧ Unlinked w h))

/-- A supply that has returned over a context kept whole starts the part warm (R176, R178). -/
theorem wake_sealed (w : State) : wake none (sealContext w) = warmStart (sealContext w) :=
  if_pos (contextAgrees_storeCheckWord _)

theorem warmStart_others (s : State) : warmStart s = { s with hlk := (warmStart s).hlk, spm := { s.spm with
    power := .starting
    supply := .good
    startKind := some .warm
    kept := some ⟨s.tmb, s.hlk⟩
    qualification := some (s.tmb.tick + qualificationTicks) } } := by
  unfold warmStart
  rw [transmit_others]

/-- The end of the drain, for a state with the supply, the cell, the clocks and the extension of another. -/
theorem enterDormant_asleep {u w : State} (medium : w.evs.medium = u.evs.medium) (pins : w.pins = u.pins)
    (pending : w.pending = u.pending) (supply : w.spm.supply = u.spm.supply) (backup : w.spm.backup = u.spm.backup)
    (wraps : w.spm.wrapCount = u.spm.wrapCount) (tick : w.tmb.tick = u.tmb.tick) (time : reading w = reading u) :
    Asleep u w (enterDormant w) := by
  refine ⟨fun failing => ?_, fun good => ?_⟩
  · rw [enterDormant_off (backup.trans failing)]
    exact (enterOff_went w).of_like medium pins pending supply
  · have entry : extendedTick w = u.spm.wrapCount * 4294967296 + u.tmb.tick.toNat := by
      unfold extendedTick
      rw [wraps, tick]
    obtain ⟨evs, clock, spm, link, whole⟩ := sealContext_blocks w
    obtain ⟨z, same⟩ : ∃ z, sealContext w = z := ⟨_, rfl⟩
    rw [same] at evs clock spm link whole
    rw [Tmb.afterReading_eq] at clock
    rw [entry, time] at spm
    have off : Unlinked w z.hlk := link ▸ switchedOff_unlinked w
    cases goes : u.spm.supply with
    | failed =>
      rw [enterDormant_sealed (backup.trans good) (supply.trans goes), same]
      refine ⟨by rw [whole], evs, by rw [whole]; rfl, clock, by rw [spm], by rw [spm], by rw [spm], by rw [spm]; rfl,
        by rw [spm], fun _ => ⟨by rw [spm], off, by rw [spm]⟩, nofun⟩
    | good =>
      have form : enterDormant w = warmStart z := by
        unfold enterDormant
        rw [if_neg (by rw [backup, good]; nofun)]
        dsimp only
        rw [if_pos (by exact supply.trans goes), wake_sealed, same]
      have frame := warmStart_others z
      rw [form]
      obtain ⟨t, whole'⟩ : ∃ t, warmStart z = t := ⟨_, rfl⟩
      rw [whole'] at frame ⊢
      have tmb : t.tmb = z.tmb := by rw [frame]
      refine ⟨by rw [frame, whole], by rw [frame]; exact evs, by rw [frame, whole]; rfl, by rw [tmb]; exact clock,
        by rw [frame, spm], by rw [frame, spm], by rw [frame, spm], by rw [frame, spm]; rfl, by rw [frame, spm], nofun, fun _ =>
        ⟨by rw [frame], by rw [frame], ?_, z.hlk, by rw [tmb, frame], off⟩⟩
      rw [frame, ← tick]
      show some (z.tmb.tick + _) = _
      rw [clock]

/-- No operation is chosen in a part that is asleep or has just begun a start (R148, R178, R180). -/
theorem mediumChoice_afterDrain (w : State) : mediumChoice (enterDormant w) = enterDormant w := by
  refine mediumChoice_busy (Bool.eq_false_iff.mpr fun usable => ?_)
  obtain ⟨_, _, power⟩ := (mediumUsable_iff _).mp usable
  have asleep : (enterDormant w).spm.power ≠ .run ∧ (enterDormant w).spm.power ≠ .rideThrough ∧
      ¬ ((enterDormant w).spm.power = .starting ∧ (enterDormant w).spm.startKind = some .cold ∧
        (enterDormant w).evs.state ≠ .scanning) := by
    unfold enterDormant
    split
    · unfold enterOff
      split
      · exact ⟨nofun, nofun, fun h => h.2.2 rfl⟩
      · exact ⟨nofun, nofun, fun h => h.2.2 rfl⟩
    · dsimp only
      split
      · rw [wake_sealed, warmStart_others]
        exact ⟨nofun, nofun, fun h => nomatch h.2.1⟩
      · exact ⟨nofun, nofun, fun h => nomatch h.1⟩
  rcases power with run | ride | start
  · exact asleep.1 run
  · exact asleep.2.1 ride
  · exact asleep.2.2 start

/-! ## A waiting STE (R161) -/

/-- The state whose medium has become IDLE. -/
def mediumIdle (u : State) : State := { u with evs := { u.evs with activity := .idle } }

/-- The state in which a waiting STE is taken. -/
def steTaken (u : State) : State := { u with evs := { u.evs with activity := .idle, steWaiting := false } }

theorem takeWaitingSte_none {u : State} (none : u.evs.steWaiting = false) : takeWaitingSte (mediumIdle u) = mediumIdle u :=
  if_neg (by show ¬ u.evs.steWaiting = true; rw [none]; nofun)

theorem takeWaitingSte_some {u : State} (waits : u.evs.steWaiting = true) : takeWaitingSte (mediumIdle u) = takeSte (steTaken u) :=
  if_pos waits

theorem acceptsSte_iff (e : Evs) : e.acceptsSte = true ↔ e.state = .ready ∧ e.protectionStart = none := by
  unfold Evs.acceptsSte
  rw [Bool.and_eq_true, beq_iff_eq, Option.isNone_iff_eq_none]

theorem takeSte_accepted {s : State} (ready : s.evs.state = .ready) (free : s.evs.protectionStart = none) :
    takeSte s = answer .ok [] { s with evs := s.evs.erasingAll } := by
  unfold takeSte
  rw [ready]
  exact if_pos ((acceptsSte_iff _).mpr ⟨ready, free⟩)

theorem takeSte_locked {s : State} (kept : s.evs.state = .full ∨ s.evs.state = .ready ∧ s.evs.protectionStart ≠ none) :
    takeSte s = answer .lck [] s := by
  unfold takeSte
  rcases kept with full | ⟨ready, kept⟩
  · rw [full]
  · rw [ready]
    exact if_neg fun h => kept ((acceptsSte_iff _).mp h).2

theorem takeSte_refused {s : State} (off : s.evs.state = .fault ∨ s.evs.state = .erasingAll) : takeSte s = answer .stt [] s := by
  unfold takeSte
  rcases off with h | h <;> rw [h]

/-- Whatever the store's state, STE is answered, and changes the store and the link alone. -/
theorem takeSte_answers (s : State) : ∃ status e, takeSte s = answer status [] { s with evs := e } := by
  unfold takeSte
  split
  · split
    · exact ⟨_, _, rfl⟩
    · exact ⟨_, s.evs, rfl⟩
  all_goals exact ⟨_, s.evs, rfl⟩

/-- An answer while a frame is being sent fills the reply slot alone (R191). -/
theorem answer_busy {s : State} {c : Command} (serves : s.hlk.inProgress = some c) (busy : s.hlk.transmitter ≠ .idle)
    (status : Status) (fields : List Text) :
    (answer status fields s).hlk = { s.hlk with inProgress := none, reply := (answer status fields s).hlk.reply } := by
  have placed : answer status fields s = { s with hlk := { s.hlk with
      inProgress := none
      reply := some ⟨c.text, status, fields, s.tmb.tick, delayTicks s.hlk.settings.delay, false, none⟩ } } := by
    unfold answer
    rw [serves]
    exact transmit_busy (by exact busy)
  rw [placed]

/-! ## A waiting commitment (R172) -/

/-- A committed part starts no read, so its choice leaves the link as it was (R148). -/
theorem mediumChoice_committed {s : State} (committed : s.spm.committed = true) : (mediumChoice s).hlk = s.hlk := by
  have quiet : startableRead s = none := Option.eq_none_iff_forall_not_mem.mpr fun q h => by
    have := ((startableRead_iff s q).mp h).2
    rw [committed] at this
    cases this
  have programs : ∀ {p : Prop} [Decidable p], (if p then startProgram s else s).hlk = s.hlk := by
    intro p _
    split
    · exact startProgram_hlk s
    · rfl
  have ordinary : (ordinaryChoice s).hlk = s.hlk := by
    unfold ordinaryChoice
    rw [quiet]
    split
    case h_1 => rfl
    case h_2 h => cases h
    case h_3 => exact programs
    case h_4 h => cases h
    case h_5 => exact programs
  unfold mediumChoice
  split
  · rfl
  · split
    · rfl
    · unfold eraseAllChoice
      split
      · exact startProgram_hlk s
      · split <;> rfl
    all_goals exact ordinary

/-- The offer of a committed part leaves the link as it was. -/
theorem offer_committed {s : State} (committed : s.spm.committed = true) (kind : RecordKind) (payload : List Byte) :
    (offer kind payload s).hlk = s.hlk := by
  cases takes : recordTaken s
  · rw [offer_dropped takes]
  · rw [offer_taken takes, mediumChoice_committed (by exact committed)]

/-- The PWN notice of the commitment, with a frame being sent and room for it (R172, R181). -/
theorem commitTold_notice {s : State} (committed : s.spm.committed = true) (admitted : s.hlk.settings.mask.pwn = true)
    (busy : s.hlk.transmitter ≠ .idle) (room : s.hlk.notices.length < 16) :
    (commitTold s).hlk.notices = s.hlk.notices ++ [⟨.pwn, ["COMMIT".toList, timeText (reading s), s.spm.backup.text,
      num (commitTold s).evs.pwq.length, optText num (offeredSequence s)]⟩] := by
  have link := offer_committed (s := commitMade s) committed .pwr (dormantRecord s)
  have read := reading_offer .pwr (dormantRecord s) (commitMade s)
  have others := offer_others .pwr (dormantRecord s) (commitMade s)
  rw [commitTold_evs]
  unfold commitTold
  obtain ⟨q, whole⟩ : ∃ q, offer .pwr (dormantRecord s) (commitMade s) = q := ⟨_, rfl⟩
  rw [whole] at link read others ⊢
  have spm : q.spm = (commitMade s).spm := by rw [others]
  show (postNotice _ _ _).hlk.notices = _
  rw [postNotice_queued (by show q.hlk.settings.mask.pwn = true; rw [link]; exact admitted)
    (by show q.hlk.notices.length < 16; rw [link]; exact room) (by show q.hlk.transmitter ≠ _; rw [link]; exact busy)]
  show q.hlk.notices ++ _ = _
  rw [link, read, spm]
  rfl

end Sys2Proof.Machine
end

section
/-! What follows any completion of the medium, whole (O43, first part). -/

namespace Sys2Proof.Machine

/-- The state in which the medium is IDLE and a waiting STE has been taken. -/
def afterSte (u : State) : State := takeWaitingSte (mediumIdle u)

theorem completed_eq (u : State) : completed u = superviseCompletion (afterSte u) := rfl

theorem afterSte_none {u : State} (none : u.evs.steWaiting = false) : afterSte u = mediumIdle u := takeWaitingSte_none none

theorem afterSte_some {u : State} (waits : u.evs.steWaiting = true) : afterSte u = takeSte (steTaken u) := takeWaitingSte_some waits

theorem afterSte_others (u : State) : afterSte u = { u with evs := (afterSte u).evs, hlk := (afterSte u).hlk } := by
  cases waits : u.evs.steWaiting
  · rw [afterSte_none waits]
    rfl
  · rw [afterSte_some waits]
    obtain ⟨status, e, form⟩ := takeSte_answers (steTaken u)
    rw [form, answer_others]
    rfl

theorem afterSte_idle (u : State) : (afterSte u).evs.activity = .idle := by
  cases waits : u.evs.steWaiting
  · rw [afterSte_none waits]
    rfl
  · rw [afterSte_some waits]
    unfold takeSte
    split
    · split
      · rw [answer_others]; rfl
      · rw [answer_others]; rfl
    all_goals rw [answer_others]; rfl

theorem afterSte_medium (u : State) : (afterSte u).evs.medium = u.evs.medium :=
  (takeWaitingSte_calm (mediumIdle u)).medium

theorem afterSte_settings (u : State) : (afterSte u).hlk.settings = u.hlk.settings := by
  cases waits : u.evs.steWaiting
  · rw [afterSte_none waits]
    rfl
  · rw [afterSte_some waits]
    obtain ⟨status, e, form⟩ := takeSte_answers (steTaken u)
    rw [form, answer_settings]
    rfl

/-- What a waiting STE leaves, by the store's state (R161). -/
theorem afterSte_answers {u : State} (waits : u.evs.steWaiting = true) (serves : u.hlk.inProgress = some .ste) :
    (u.hlk.transmitter ≠ .idle → (afterSte u).hlk = { u.hlk with inProgress := none, reply := (afterSte u).hlk.reply }) ∧
    (u.evs.state = .ready → u.evs.protectionStart = none → Answered (afterSte u) .ste .ok [] ∧
      (afterSte u).evs = (steTaken u).evs.erasingAll) ∧
    (u.evs.state = .full ∨ u.evs.state = .ready ∧ u.evs.protectionStart ≠ none → Answered (afterSte u) .ste .lck [] ∧
      (afterSte u).evs = (steTaken u).evs) ∧
    (u.evs.state = .fault ∨ u.evs.state = .erasingAll → Answered (afterSte u) .ste .stt [] ∧
      (afterSte u).evs = (steTaken u).evs) := by
  rw [afterSte_some waits]
  refine ⟨fun busy => ?_, fun ready free => ?_, fun kept => ?_, fun off => ?_⟩
  · obtain ⟨status, e, form⟩ := takeSte_answers (steTaken u)
    rw [form]
    exact answer_busy (by exact serves) (by exact busy) _ _
  · rw [takeSte_accepted (by exact ready) (by exact free)]
    exact ⟨answer_answered (by exact serves) _ _, by rw [answer_others]⟩
  · rw [takeSte_locked (by exact kept)]
    exact ⟨answer_answered (by exact serves) _ _, by rw [answer_others]⟩
  · rw [takeSte_refused (by exact off)]
    exact ⟨answer_answered (by exact serves) _ _, by rw [answer_others]⟩

section
variable {w : State} (going : w.spm.abortPending = false)
include going

/-- With no start given up and no commitment waiting, an uncommitted part goes on with the medium's choice (R148). -/
theorem superviseCompletion_goesOn (quiet : w.spm.commitWaiting = false)
    (more : ¬ (w.spm.committed = true ∧ w.evs.activity = .idle ∧ drained w.evs = true)) :
    superviseCompletion w = mediumChoice w := by
  unfold superviseCompletion
  rw [if_neg (by simp [going]), if_neg (by simp [quiet])]
  exact if_neg more

theorem superviseCompletion_sleeps (quiet : w.spm.commitWaiting = false) (committed : w.spm.committed = true)
    (idle : w.evs.activity = .idle) (done : drained w.evs = true) : superviseCompletion w = enterDormant w := by
  unfold superviseCompletion
  rw [if_neg (by simp [going]), if_neg (by simp [quiet])]
  exact if_pos ⟨committed, idle, done⟩

theorem superviseCompletion_commits (waits : w.spm.commitWaiting = true) :
    superviseCompletion w = mediumChoice (commit w) := by
  unfold superviseCompletion
  rw [if_neg (by simp [going]), if_pos waits]

end

theorem superviseCompletion_givesUp {w : State} (given : w.spm.abortPending = true) : superviseCompletion w = giveUpStart w :=
  if_pos given

/-- A waiting commitment of a store that can go on (R172): the record, the notice, and the medium's choice. -/
theorem commit_goesOn {w : State} (committed : w.spm.committed = true)
    (goes : w.evs.state = .ready ∨ w.evs.state = .erasingAll) :
    Queues w (mediumChoice (commit w)) .pwr (dormantRecord w) w.svc.generation ∧
    (w.hlk.settings.mask.pwn = true → w.hlk.transmitter ≠ .idle → w.hlk.notices.length < 16 →
      (mediumChoice (commit w)).hlk.notices = w.hlk.notices ++ [⟨.pwn, ["COMMIT".toList, timeText (reading w), w.spm.backup.text,
        num (mediumChoice (commit w)).evs.pwq.length, optText num (offeredSequence w)]⟩]) ∧
    mediumChoice (commit w) = { w with
      tmb := (mediumChoice (commit w)).tmb
      evs := (mediumChoice (commit w)).evs
      spm := { w.spm with commitWaiting := false }
      hlk := (mediumChoice (commit w)).hlk } := by
  have queues := commitTold_queues w
  have others := commitTold_others w
  have going : w.evs.state ≠ .full ∧ w.evs.state ≠ .fault ∧ w.evs.state ≠ .scanning := by
    rcases goes with h | h <;> rw [h] <;> exact ⟨nofun, nofun, nofun⟩
  have stays : commit w = commitTold w := by
    rw [commit_eq, endDrain_drains]
    rw [drained_iff, commitTold_state, not_or, not_or]
    refine ⟨fun empty => ?_, going.1, going.2.1⟩
    cases takes : recordTaken w
    · have queue := (queues.dropped takes).1
      rw [empty] at queue
      have none : w.evs.pwq.length = 0 := by rw [← queue]; rfl
      rw [(recordTaken_iff w).mpr ⟨going.2.2, by omega⟩] at takes
      cases takes
    · obtain ⟨x, queue, _⟩ := queues.taken takes
      rw [empty] at queue
      simp at queue
  have notice := fun admitted busy room => commitTold_notice (s := w) committed admitted busy room
  rw [stays]
  obtain ⟨c, told⟩ : ∃ c, commitTold w = c := ⟨_, rfl⟩
  rw [told] at queues others notice ⊢
  obtain ⟨frame, store, _⟩ := mediumChoice_chooses c
  have link : (mediumChoice c).hlk = c.hlk := mediumChoice_committed (by rw [others]; exact committed)
  obtain ⟨t, chosen⟩ : ∃ t, mediumChoice c = t := ⟨_, rfl⟩
  rw [chosen] at frame store link ⊢
  have queue : t.evs.pwq = c.evs.pwq := by rw [store]
  refine ⟨⟨?_, fun takes => ?_, fun drops => ?_⟩, fun admitted busy room => ?_, ?_⟩
  · rw [store]
    exact queues.medium
  · rw [store]
    exact queues.taken takes
  · rw [store]
    exact queues.dropped drops
  · rw [link, queue]
    exact notice admitted busy room
  · rw [frame, others]

/-- A cold start given up for good (R178, R180). -/
theorem giveUpStart_cold {u w : State} (same : w = { u with evs := w.evs, hlk := w.hlk }) (medium : w.evs.medium = u.evs.medium)
    (cold : u.spm.startKind ≠ some .warm) :
    (u.spm.backup = .failed → WentOff u (giveUpStart w)) ∧
    (u.spm.backup = .good → u.spm.supply = .failed →
      giveUpStart w = { w with tmb := (giveUpStart w).tmb, spm := (giveUpStart w).spm, hlk := (giveUpStart w).hlk } ∧
      Unlinked w (giveUpStart w).hlk ∧ (giveUpStart w).spm.power = .dormant ∧
      (giveUpStart w).spm.abortPending = false ∧ (giveUpStart w).spm.kept = none ∧ (giveUpStart w).spm.startKind = none ∧
      (giveUpStart w).spm.checkWord = none ∧ (giveUpStart w).spm.abortedRestarts = u.spm.abortedRestarts ∧
      (giveUpStart w).spm.dormancyEntry = some ⟨u.spm.wrapCount * 4294967296 + u.tmb.tick.toNat, reading u⟩) ∧
    (u.spm.backup = .good → u.spm.supply = .good →
      (giveUpStart w).spm.power = .starting ∧ (giveUpStart w).spm.startKind = some .cold ∧
      (giveUpStart w).spm.coldReason = some .context ∧ (giveUpStart w).spm.abortPending = false ∧
      (giveUpStart w).spm.abortedRestarts = u.spm.abortedRestarts ∧ (giveUpStart w).evs = Evs.cold u.evs.medium ∧
      (giveUpStart w).svc = Svc.cold ∧ (giveUpStart w).tmb = Tmb.cold ∧ (giveUpStart w).pins = u.pins ∧
      (giveUpStart w).pending = u.pending) := by
  have spm : w.spm = u.spm := by rw [same]
  have tmb : w.tmb = u.tmb := by rw [same]
  have pins : w.pins = u.pins := by rw [same]
  have pending : w.pending = u.pending := by rw [same]
  have still : w.spm.startKind ≠ some .warm := by rw [spm]; exact cold
  refine ⟨fun failing => ?_, fun good failed => ?_, fun good returned => ?_⟩
  · have form : giveUpStart w = enterOff w := if_pos (by rw [spm]; exact failing)
    rw [form]
    exact (enterOff_went w).of_like medium pins pending (by rw [spm])
  · rw [giveUpStart_failed (by rw [spm]; exact failed), if_neg (by rw [spm, good]; nofun), returnDormant_cold still]
    refine ⟨rfl, switchedOff_unlinked w, rfl, rfl, rfl, rfl, rfl, by rw [← spm], ?_⟩
    unfold extendedTick reading
    rw [spm, tmb]
  · have form : giveUpStart w = wake none (returnDormant w) := by
      unfold giveUpStart
      rw [if_neg (by rw [spm, good]; nofun), if_pos (by rw [spm]; exact returned)]
    have start : wake none (returnDormant w) = coldStart .context (returnDormant w) := by
      refine if_neg ?_
      rw [returnDormant_cold still]
      unfold contextAgrees
      exact fun h => nomatch h
    rw [form, start, returnDormant_cold still]
    refine ⟨rfl, rfl, rfl, rfl, ?_, ?_, rfl, rfl, pins, pending⟩
    · show w.spm.abortedRestarts = _
      rw [spm]
    · show Evs.cold w.evs.medium = _
      rw [medium]

end Sys2Proof.Machine
end

section
/-! The end of a program: the head stored, or the slot given up (O43). -/

namespace Sys2Proof.Machine

/-! ## STN at an entry to FULL or FAULT (R153, R155, R164) -/

/-- The STN notice of an entry to FULL or FAULT. -/
def storeEntered (state : StoreState) (reason : String) (occupancy : Nat) (s : State) : Notice :=
  ⟨.stn, ["ENTER".toList, state.text, reason.toList, num occupancy, num s.evs.coldDrops, timeText (reading s)]⟩

theorem postStore_others (direction : String) (state : StoreState) (reason : String) (s : State) :
    postStore direction state reason s =
      { s with tmb := s.tmb.afterReading, hlk := (postStore direction state reason s).hlk } := postWithReading_others _ _ s

theorem postStore_posts (direction : String) (state : StoreState) (reason : String) (s : State) :
    Posts s (postStore direction state reason s)
      [⟨.stn, [direction.toList, state.text, reason.toList, num s.evs.pwq.length, num s.evs.coldDrops, timeText (reading s)]⟩] :=
  postWithReading_posts _ _ s

/-- With an operation in flight an offer changes the queue and its counts alone. -/
theorem offer_inFlight {s : State} (busy : s.evs.activity ≠ .idle) (kind : RecordKind) (payload : List Byte) :
    (offer kind payload s).hlk = s.hlk ∧ (offer kind payload s).evs = { s.evs with
      pwq := (offer kind payload s).evs.pwq
      lastIssued := (offer kind payload s).evs.lastIssued
      gapCount := (offer kind payload s).evs.gapCount
      mode := (offer kind payload s).evs.mode
      surveyDrops := (offer kind payload s).evs.surveyDrops
      coldDrops := (offer kind payload s).evs.coldDrops } := by
  cases takes : recordTaken s
  · rw [offer_dropped takes]
    exact ⟨rfl, rfl⟩
  · have still : ∀ e : Evs, e.activity = s.evs.activity →
        mediumChoice { s with tmb := s.tmb.afterReading, evs := e } = { s with tmb := s.tmb.afterReading, evs := e } :=
      fun e same => mediumChoice_busy (Bool.eq_false_iff.mpr fun usable => busy (same ▸ ((mediumUsable_iff _).mp usable).1))
    rw [offer_taken takes, still (s.evs.queued _) rfl]
    exact ⟨rfl, rfl⟩

/-- What an entry to FAULT with an operation in flight leaves (R155, R162, R164). -/
structure Faulted (x u : State) (reason : String) : Prop where
  others : u = { x with tmb := u.tmb, evs := u.evs, hlk := u.hlk }
  inProgress : u.hlk.inProgress = x.hlk.inProgress
  posts : Posts x u [storeEntered .fault reason x.evs.pwq.length x]
  store : u.evs = { x.evs with
    state := .fault
    pwq := u.evs.pwq
    lastIssued := u.evs.lastIssued
    gapCount := u.evs.gapCount
    mode := u.evs.mode
    surveyDrops := u.evs.surveyDrops
    coldDrops := u.evs.coldDrops }
  alone : x.evs.state ≠ .erasingAll → u.evs = { x.evs with state := .fault }
  erased : x.evs.state = .erasingAll → Queues { x with evs := { x.evs with state := .fault } } u .sto
    (erasedPayload x.evs.erasedRange x.evs.erasedCount false) x.svc.generation

theorem enterFault_faults {x : State} (busy : x.evs.activity ≠ .idle) (reason : String) :
    Faulted x (enterFault reason x) reason := by
  obtain ⟨f, same⟩ : ∃ f : State, f = { x with evs := { x.evs with state := .fault } } := ⟨_, rfl⟩
  have others := postStore_others "ENTER" .fault reason f
  have posts := postStore_posts "ENTER" .fault reason f
  have steady : LinkSteady f (postStore "ENTER" .fault reason f) := postWithReading_steady _ _ f
  obtain ⟨v, whole⟩ : ∃ v, postStore "ENTER" .fault reason f = v := ⟨_, rfl⟩
  have form : enterFault reason x = if x.evs.state = .erasingAll then offerErased false v else v := by
    rw [← whole, same]
    rfl
  rw [whole] at others posts steady
  have evs : v.evs = { x.evs with state := .fault } := by rw [others, same]
  have told : Posts x v [storeEntered .fault reason x.evs.pwq.length x] := by
    rw [same] at posts
    exact posts.of_links rfl rfl
  have progress : v.hlk.inProgress = x.hlk.inProgress := by rw [steady.inProgress, same]
  by_cases all : x.evs.state = .erasingAll
  · rw [form, if_pos all]
    have payload : offerErased false v = offer .sto (erasedPayload x.evs.erasedRange x.evs.erasedCount false) v := by
      unfold offerErased
      rw [evs]
    obtain ⟨link, store⟩ := offer_inFlight (s := v) (by rw [evs]; exact busy) .sto
      (erasedPayload x.evs.erasedRange x.evs.erasedCount false)
    have frame := offer_others .sto (erasedPayload x.evs.erasedRange x.evs.erasedCount false) v
    have queues := offer_queues .sto (erasedPayload x.evs.erasedRange x.evs.erasedCount false) v
    rw [payload]
    obtain ⟨u, whole'⟩ : ∃ u, offer .sto (erasedPayload x.evs.erasedRange x.evs.erasedCount false) v = u := ⟨_, rfl⟩
    rw [whole'] at link store frame queues ⊢
    refine ⟨by rw [frame, others, same], link ▸ progress, told.of_links rfl link, ?_, fun h => absurd all h, fun _ => ?_⟩
    · rw [store, evs]
    · have svc : v.svc = x.svc := by rw [others, same]
      rw [svc] at queues
      refine queues.before (s' := { x with evs := { x.evs with state := .fault } }) evs ?_ ?_ (by rw [others, same])
      · unfold reading
        rw [others, same]
        exact Tmb.handedOut_afterReading x.tmb
      · rw [others, same]
        show x.tmb.afterReading.quality = _
        rw [Tmb.afterReading_eq]
  · rw [form, if_neg all]
    exact ⟨by rw [others, same], progress, told, by rw [evs], fun _ => evs, fun h => absurd h all⟩

/-! ## READY becomes FULL (R149, R153) -/

/-- The slot is the last of its sector, and the next sector is CLOSED, due and held (R149, R151). -/
def HeldNext (e : Evs) (slot : Nat) : Prop := slot % 32 = 31 ∧
  (sectorAt e ((slot / 32 + 1) % 1024)).condition = .closed ∧ e.due = some ((slot / 32 + 1) % 1024) ∧
  ∃ p f, e.protectionStart = some p ∧ (sectorAt e ((slot / 32 + 1) % 1024)).first = some f ∧
    0 < (sectorAt e ((slot / 32 + 1) % 1024)).valid ∧ p ≤ f + (sectorAt e ((slot / 32 + 1) % 1024)).valid - 1

theorem sectorAt_set_other {e : Evs} {l : List Sector} {k n : Nat} {x : Sector} (table : l = e.sectors.set k x) (other : n ≠ k) :
    (l[n]?).getD Sector.empty = sectorAt e n := by
  unfold sectorAt
  rw [table, List.getElem?_set_ne (Ne.symm other)]

theorem sectorAt_set_same {e : Evs} {l : List Sector} {k : Nat} {x : Sector} (table : l = e.sectors.set k x)
    (inside : k < e.sectors.length) : (l[k]?).getD Sector.empty = x := by
  rw [table, List.getElem?_set_self inside]
  rfl

theorem atHeldSector_iff {e f : Evs} {slot : Nat} {x : Sector}
    (position : f.writePosition = (slot + 1) % 32768) (table : f.sectors = e.sectors.set (slot / 32) x) (due : f.due = e.due)
    (protection : f.protectionStart = e.protectionStart) : atHeldSector f = true ↔ HeldNext e slot := by
  have start : f.writePosition % 32 = 0 ↔ slot % 32 = 31 := by rw [position]; omega
  unfold atHeldSector HeldNext
  simp only [Bool.and_eq_true, beq_iff_eq, and_assoc]
  rw [start, due]
  refine and_congr_right fun last => ?_
  have sector : sectorOf f.writePosition = (slot / 32 + 1) % 1024 := by
    unfold sectorOf
    rw [position]
    omega
  have entry : sectorAt f ((slot / 32 + 1) % 1024) = sectorAt e ((slot / 32 + 1) % 1024) :=
    sectorAt_set_other table (by omega)
  rw [sector, eraseHeld_iff, protection, entry]

/-- Step 8 of R149 on a state whose store alone has changed. -/
theorem judgeFull_judges {s x : State} {held : Prop} (frame : x = { s with evs := x.evs }) (state : x.evs.state = s.evs.state)
    (drops : x.evs.coldDrops = s.evs.coldDrops) (holds : atHeldSector x.evs = true ↔ held) :
    judgeFull x = { s with tmb := (judgeFull x).tmb, evs := (judgeFull x).evs, hlk := (judgeFull x).hlk } ∧
    (judgeFull x).hlk.inProgress = s.hlk.inProgress ∧
    (judgeFull x).evs = { x.evs with state := (judgeFull x).evs.state } ∧
    (s.evs.state = .ready ∧ held → (judgeFull x).evs.state = .full ∧
      Posts s (judgeFull x) [storeEntered .full "PROTECTION" x.evs.pwq.length s]) ∧
    (¬ (s.evs.state = .ready ∧ held) → (judgeFull x).evs.state = s.evs.state ∧ (judgeFull x).hlk = s.hlk) := by
  have link : x.hlk = s.hlk := by rw [frame]
  have clock : x.tmb = s.tmb := by rw [frame]
  by_cases full : s.evs.state = .ready ∧ held
  · obtain ⟨f, same⟩ : ∃ f : State, f = { x with evs := { x.evs with state := .full } } := ⟨_, rfl⟩
    have form : judgeFull x = postStore "ENTER" .full "PROTECTION" f := by
      rw [same]
      exact if_pos ⟨state.trans full.1, holds.mpr full.2⟩
    have others := postStore_others "ENTER" .full "PROTECTION" f
    have posts := postStore_posts "ENTER" .full "PROTECTION" f
    have steady : LinkSteady f (postStore "ENTER" .full "PROTECTION" f) := postWithReading_steady _ _ f
    rw [form]
    obtain ⟨u, whole⟩ : ∃ u, postStore "ENTER" .full "PROTECTION" f = u := ⟨_, rfl⟩
    rw [whole] at others posts steady ⊢
    have notice : storeEntered .full "PROTECTION" x.evs.pwq.length s = ⟨.stn, ["ENTER".toList, StoreState.full.text,
        "PROTECTION".toList, num f.evs.pwq.length, num f.evs.coldDrops, timeText (reading f)]⟩ := by
      unfold storeEntered reading
      rw [← drops, ← clock, same]
    refine ⟨by rw [others, same]; rw [frame], by rw [steady.inProgress, same]; exact congrArg _ link, by rw [others, same],
      fun _ => ⟨by rw [others, same], ?_⟩, fun h => absurd full h⟩
    rw [notice]
    exact posts.of_links (by rw [same]; exact link.symm) rfl
  · have form : judgeFull x = x := if_neg fun h => full ⟨state.symm.trans h.1, holds.mp h.2⟩
    rw [form]
    exact ⟨by rw [frame], by rw [link], rfl, fun h => absurd h full, fun _ => ⟨state, link⟩⟩

/-! ## The end of the program (R149, R150) -/

/-- The store after a program that reads back as written, before a READY store is judged (R149). -/
def programStored (e : Evs) (power : PowerState) (slot : Nat) (image : List Byte) (check : BitVec 32) (r : Record)
    (rest : List Record) : Evs :=
  { e with
    medium := e.medium.writeSlot slot image
    pwq := rest
    lastStored := some r.sequence
    lastCheck := check
    oldest := some (e.oldest.getD slot)
    oldestSequence := if e.oldest = none then some r.sequence else e.oldestSequence
    sectors := e.sectors.set (slot / 32) { sectorAt e (slot / 32) with
      valid := (sectorAt e (slot / 32)).valid + 1
      first := some ((sectorAt e (slot / 32)).first.getD r.sequence) }
    failures := 0
    writePosition := (slot + 1) % 32768
    mode := if e.mode = .drain ∧ rest.length ≤ 8 ∧ power = .run then .normal else e.mode }

/-- The store after a program that reads back otherwise, before its failures are judged (R150). -/
def programVoided (e : Evs) (slot : Nat) (bytes : List Byte) : Evs :=
  { e with
    medium := e.medium.writeSlot slot bytes
    sectors := e.sectors.set (slot / 32) { sectorAt e (slot / 32) with
      voids := (sectorAt e (slot / 32)).voids ++ [slot % 32] }
    writePosition := (slot + 1) % 32768 }

section
variable {s : State} {slot : Nat} {image : List Byte} {check : BitVec 32} {r : Record} {rest : List Record}
  (flight : s.evs.activity = .program slot image check) (queue : s.evs.pwq = r :: rest)
include flight

theorem exec_programComplete (readBack : Option (List Byte)) :
    exec (.programComplete readBack) s = .next (programEnds slot image check readBack s) := by
  show Host.Outcome.next _ = _
  rw [flight]

include queue

theorem exec_program_stored : exec (.programComplete none) s =
    .next (completed (judgeFull { s with evs := programStored s.evs s.spm.power slot image check r rest })) := by
  rw [exec_programComplete flight]
  unfold programEnds
  dsimp only [Option.getD]
  rw [if_pos rfl]
  unfold programSucceeds
  rw [queue]
  rfl

end

theorem exec_program_voided {s : State} {slot : Nat} {image : List Byte} {check : BitVec 32}
    (flight : s.evs.activity = .program slot image check) {bytes : List Byte} (other : bytes ≠ image) :
    exec (.programComplete (some bytes)) s = .next (completed (if s.evs.failures = 0 then
        judgeFull { s with evs := { programVoided s.evs slot bytes with failures := 1 } }
      else enterFault "PROGRAM_FAILURE" { s with evs := programVoided s.evs slot bytes })) := by
  rw [exec_programComplete flight]
  unfold programEnds
  dsimp only [Option.getD]
  rw [if_neg other]
  rfl

end Sys2Proof.Machine
end

section
/-! PROGRAM_COMPLETE and what follows any completion, settled (O43). -/

namespace Sys2Proof.Machine

/-- With nothing but the next operation waiting, a completion keeps all but the medium's choice (R148). -/
theorem completed_chooses {u : State} (plain : u.PlainCompletion) : ∃ t, completed u = t ∧
    t = { u with evs := t.evs, hlk := t.hlk } ∧
    t.evs = { u.evs with
      sectors := t.evs.sectors
      due := t.evs.due
      activity := t.evs.activity
      waitingRead := t.evs.waitingRead
      lastRead := t.evs.lastRead } ∧
    ∀ n, (sectorAt t.evs n).first = (sectorAt u.evs n).first ∧ (sectorAt t.evs n).valid = (sectorAt u.evs n).valid ∧
      (sectorAt t.evs n).voids = (sectorAt u.evs n).voids := by
  obtain ⟨others, store, entries, _⟩ := mediumChoice_chooses { u with evs := { u.evs with activity := .idle } }
  exact ⟨_, completed_plain plain, others, store, entries⟩

section
variable {s : State} {slot : Nat} {image : List Byte} {check : BitVec 32} {r : Record} {rest : List Record}
  (flight : s.evs.activity = .program slot image check) (queue : s.evs.pwq = r :: rest)
include flight queue

/-- The state that a program read back as written leaves to what follows the completion (R149, R153). -/
theorem program_stored : ∃ u, exec (.programComplete none) s = .next (completed u) ∧
    u = { s with tmb := u.tmb, evs := u.evs, hlk := u.hlk } ∧ u.hlk.inProgress = s.hlk.inProgress ∧
    u.evs = { programStored s.evs s.spm.power slot image check r rest with state := u.evs.state } ∧
    (s.evs.state = .ready ∧ HeldNext s.evs slot → u.evs.state = .full ∧
      Posts s u [storeEntered .full "PROTECTION" rest.length s]) ∧
    (¬ (s.evs.state = .ready ∧ HeldNext s.evs slot) → u.evs.state = s.evs.state ∧ u.hlk = s.hlk) :=
  ⟨_, exec_program_stored flight queue, judgeFull_judges rfl rfl rfl (atHeldSector_iff rfl rfl rfl rfl)⟩

/-- The state that a program read back otherwise leaves to what follows the completion (R150, R153, R155). -/
theorem program_voided {bytes : List Byte} (other : bytes ≠ image) : ∃ u, exec (.programComplete (some bytes)) s =
      .next (completed u) ∧ u = { s with tmb := u.tmb, evs := u.evs, hlk := u.hlk } ∧
    u.hlk.inProgress = s.hlk.inProgress ∧
    (s.evs.failures = 0 → u.evs = { programVoided s.evs slot bytes with failures := 1, state := u.evs.state } ∧
      (s.evs.state = .ready ∧ HeldNext s.evs slot → u.evs.state = .full ∧
        Posts s u [storeEntered .full "PROTECTION" (rest.length + 1) s]) ∧
      (¬ (s.evs.state = .ready ∧ HeldNext s.evs slot) → u.evs.state = s.evs.state ∧ u.hlk = s.hlk)) ∧
    (s.evs.failures ≠ 0 → u.evs = { programVoided s.evs slot bytes with
        state := .fault
        pwq := u.evs.pwq
        lastIssued := u.evs.lastIssued
        gapCount := u.evs.gapCount
        mode := u.evs.mode
        surveyDrops := u.evs.surveyDrops
        coldDrops := u.evs.coldDrops } ∧
      Posts s u [storeEntered .fault "PROGRAM_FAILURE" (rest.length + 1) s] ∧
      (s.evs.state ≠ .erasingAll → u.evs = { programVoided s.evs slot bytes with state := .fault }) ∧
      (s.evs.state = .erasingAll → rest.length < 31 → ∃ x, u.evs.pwq = r :: rest ++ [x] ∧ x.kind = .sto ∧
        x.payload = erasedPayload s.evs.erasedRange s.evs.erasedCount false)) := by
  have count : s.evs.pwq.length = rest.length + 1 := by rw [queue]; rfl
  by_cases first : s.evs.failures = 0
  · have ends := exec_program_voided flight other
    rw [if_pos first] at ends
    obtain ⟨others, progress, store, full, still⟩ := judgeFull_judges (s := s)
      (x := { s with evs := { programVoided s.evs slot bytes with failures := 1 } }) rfl rfl rfl
      (atHeldSector_iff (e := s.evs) rfl rfl rfl rfl)
    exact ⟨_, ends, others, progress, fun _ => ⟨store, count ▸ full, still⟩, fun h => absurd first h⟩
  · have ends := exec_program_voided flight other
    rw [if_neg first] at ends
    obtain ⟨others, progress, posts, store, alone, erased⟩ := enterFault_faults
      (x := { s with evs := programVoided s.evs slot bytes })
      (by show s.evs.activity ≠ .idle; rw [flight]; nofun) "PROGRAM_FAILURE"
    refine ⟨_, ends, others, progress, fun h => absurd h first, fun _ => ⟨store, ?_, alone, fun all room => ?_⟩⟩
    · rw [← count]
      exact posts.of_links rfl rfl
    · obtain ⟨x, joins, _, _, _, kind, payload, _⟩ := (erased all).taken ((recordTaken_iff _).mpr
        ⟨nofun, by show s.evs.pwq.length < 32; omega⟩)
      exact ⟨x, joins.trans (congrArg (· ++ [x]) queue), kind, payload⟩

/-- With nothing but the next operation waiting, a program read back as written (R149). -/
theorem program_stored_plain (plain : s.PlainCompletion) (sized : s.evs.sectors.length = 1024) (inside : slot < 32768) :
    ∃ t, exec (.programComplete none) s = .next t ∧ t = { s with tmb := t.tmb, evs := t.evs, hlk := t.hlk } ∧
      t.evs = { programStored s.evs s.spm.power slot image check r rest with
        state := t.evs.state
        sectors := t.evs.sectors
        due := t.evs.due
        activity := t.evs.activity
        waitingRead := t.evs.waitingRead
        lastRead := t.evs.lastRead } ∧
      (sectorAt t.evs (slot / 32)).valid = (sectorAt s.evs (slot / 32)).valid + 1 ∧
      (sectorAt t.evs (slot / 32)).first = some ((sectorAt s.evs (slot / 32)).first.getD r.sequence) ∧
      (sectorAt t.evs (slot / 32)).voids = (sectorAt s.evs (slot / 32)).voids ∧
      (s.evs.state = .ready ∧ HeldNext s.evs slot → t.evs.state = .full) ∧
      (¬ (s.evs.state = .ready ∧ HeldNext s.evs slot) → t.evs.state = s.evs.state) := by
  obtain ⟨u, ends, others, _, store, full, still⟩ := program_stored flight queue
  obtain ⟨t, chosen, others', store', entries⟩ := completed_chooses (u := u) (by
    rw [others, store]
    exact ⟨plain.ste, plain.commit, plain.committed, plain.abort⟩)
  have state : t.evs.state = u.evs.state := by rw [store']
  have entry : sectorAt u.evs (slot / 32) = { sectorAt s.evs (slot / 32) with
      valid := (sectorAt s.evs (slot / 32)).valid + 1
      first := some ((sectorAt s.evs (slot / 32)).first.getD r.sequence) } :=
    sectorAt_set_same (e := s.evs) (by rw [store]; rfl) (by omega)
  obtain ⟨first, valid, voids⟩ := entries (slot / 32)
  rw [entry] at first valid voids
  refine ⟨t, ends.trans (congrArg _ chosen), by rw [others', others], ?_, valid, first, voids, fun h => state.trans (full h).1,
    fun h => state.trans (still h).1⟩
  rw [store', store]

/-- With nothing but the next operation waiting, a program read back otherwise (R150). -/
theorem program_voided_plain (plain : s.PlainCompletion) (sized : s.evs.sectors.length = 1024) (inside : slot < 32768)
    {bytes : List Byte} (other : bytes ≠ image) :
    ∃ t, exec (.programComplete (some bytes)) s = .next t ∧
      t = { s with tmb := t.tmb, evs := t.evs, hlk := t.hlk } ∧ t.evs.medium = s.evs.medium.writeSlot slot bytes ∧
      t.evs.lastStored = s.evs.lastStored ∧ t.evs.lastCheck = s.evs.lastCheck ∧ t.evs.oldest = s.evs.oldest ∧
      t.evs.oldestSequence = s.evs.oldestSequence ∧ t.evs.writePosition = (slot + 1) % 32768 ∧
      (sectorAt t.evs (slot / 32)).valid = (sectorAt s.evs (slot / 32)).valid ∧
      (sectorAt t.evs (slot / 32)).first = (sectorAt s.evs (slot / 32)).first ∧
      (sectorAt t.evs (slot / 32)).voids = (sectorAt s.evs (slot / 32)).voids ++ [slot % 32] ∧
      (s.evs.failures = 0 → t.evs.failures = 1 ∧ t.evs.pwq = r :: rest ∧
        (s.evs.state = .ready ∧ HeldNext s.evs slot → t.evs.state = .full) ∧
        (¬ (s.evs.state = .ready ∧ HeldNext s.evs slot) → t.evs.state = s.evs.state)) ∧
      (s.evs.failures ≠ 0 → t.evs.state = .fault ∧ (s.evs.state ≠ .erasingAll → t.evs.pwq = r :: rest) ∧
        (s.evs.state = .erasingAll → rest.length < 31 → ∃ x, t.evs.pwq = r :: rest ++ [x] ∧ x.kind = .sto ∧
          x.payload = erasedPayload s.evs.erasedRange s.evs.erasedCount false)) := by
  obtain ⟨u, ends, others, _, firstTime, again⟩ := program_voided flight queue other
  have common : u.evs = { programVoided s.evs slot bytes with
      failures := u.evs.failures
      state := u.evs.state
      pwq := u.evs.pwq
      lastIssued := u.evs.lastIssued
      gapCount := u.evs.gapCount
      mode := u.evs.mode
      surveyDrops := u.evs.surveyDrops
      coldDrops := u.evs.coldDrops } := by
    by_cases first : s.evs.failures = 0
    · rw [(firstTime first).1]
    · rw [(again first).1]
  obtain ⟨t, chosen, others', store', entries⟩ := completed_chooses (u := u) (by
    rw [others, common]
    exact ⟨plain.ste, plain.commit, plain.committed, plain.abort⟩)
  have state : t.evs.state = u.evs.state := by rw [store']
  have waiting : t.evs.pwq = u.evs.pwq := by rw [store']
  have failed : t.evs.failures = u.evs.failures := by rw [store']
  have entry : sectorAt u.evs (slot / 32) = { sectorAt s.evs (slot / 32) with
      voids := (sectorAt s.evs (slot / 32)).voids ++ [slot % 32] } :=
    sectorAt_set_same (e := s.evs) (by rw [common]; rfl) (by omega)
  obtain ⟨first, valid, voids⟩ := entries (slot / 32)
  rw [entry] at first valid voids
  refine ⟨t, ends.trans (congrArg _ chosen), by rw [others', others], ?_, ?_, ?_, ?_, ?_, ?_, valid, first, voids,
    fun once => ?_, fun twice => ?_⟩
  iterate 6
    · rw [store', common]
      rfl
  · obtain ⟨form, full, still⟩ := firstTime once
    rw [state, waiting, failed]
    exact ⟨by rw [form], by rw [form]; exact queue, fun h => (full h).1, fun h => (still h).1⟩
  · obtain ⟨form, _, alone, erased⟩ := again twice
    rw [state, waiting]
    exact ⟨by rw [form], fun one => by rw [alone one]; exact queue, erased⟩

end

/-- A waiting commitment made at a completion (R172, R173): the part drains on, or is asleep at once. -/
theorem completed_commits {u : State} (going : u.spm.abortPending = false) (waits : u.spm.commitWaiting = true)
    (committed : u.spm.committed = true) :
    let w := afterSte u
    let payload := dormantPayload u.spm.failTime u.spm.windowEndTime w.evs.pwq.length w.evs.state u.svc.measuring
      u.svc.survey.state u.spm.backup u.evd.listing
    let told (c : State) : Prop := u.hlk.settings.mask.pwn = true → w.hlk.transmitter ≠ .idle →
      w.hlk.notices.length < 16 → c.hlk.notices = w.hlk.notices ++ [⟨.pwn, ["COMMIT".toList, timeText (reading u),
        u.spm.backup.text, num c.evs.pwq.length, optText num (offeredSequence w)]⟩]
    (w.evs.state = .ready ∨ w.evs.state = .erasingAll → Queues w (completed u) .pwr payload u.svc.generation ∧
      told (completed u) ∧ completed u = { u with
        tmb := (completed u).tmb
        evs := (completed u).evs
        spm := { u.spm with commitWaiting := false }
        hlk := (completed u).hlk }) ∧
    (w.evs.Stuck → ∃ c, Queues w c .pwr payload u.svc.generation ∧ told c ∧ Asleep u c (completed u) ∧
      c = { u with tmb := c.tmb, evs := c.evs, spm := { u.spm with commitWaiting := false }, hlk := c.hlk }) := by
  intro w payload told
  have others : w = { u with evs := w.evs, hlk := w.hlk } := afterSte_others u
  have medium : w.evs.medium = u.evs.medium := afterSte_medium u
  have idle : w.evs.activity = .idle := afterSte_idle u
  have settings : w.hlk.settings = u.hlk.settings := afterSte_settings u
  have ends : completed u = superviseCompletion w := rfl
  clear_value w
  have spm : w.spm = u.spm := by rw [others]
  have svc : w.svc = u.svc := by rw [others]
  have record : dormantRecord w = payload := by
    unfold dormantRecord
    rw [spm, svc, show w.evd = u.evd by rw [others]]
  have read : reading w = reading u := by
    unfold reading
    rw [others]
  have commits : completed u = mediumChoice (commit w) :=
    ends.trans (superviseCompletion_commits (by rw [spm]; exact going) (by rw [spm]; exact waits))
  refine ⟨fun goes => ?_, fun stuck => ⟨commitTold w, ?_, fun admitted busy room => ?_, ?_, ?_⟩⟩
  · obtain ⟨queues, notice, frame⟩ := commit_goesOn (by rw [spm]; exact committed) goes
    rw [← commits] at queues notice frame
    rw [record, svc] at queues
    rw [settings, read, spm] at notice
    refine ⟨queues, notice, ?_⟩
    rw [spm] at frame
    conv_lhs => rw [frame, others]
  · have queues := commitTold_queues w
    rw [record, svc] at queues
    exact queues
  · have notice := commitTold_notice (by rw [spm]; exact committed) (by rw [settings]; exact admitted) busy room
    rw [read, spm] at notice
    exact notice
  · rw [commits, commit_stuck (by rw [spm]; exact committed) idle stuck, mediumChoice_afterDrain]
    have frame := commitTold_others w
    have clock := commitTold_tmb w
    have kept := (commitTold_queues w).medium
    obtain ⟨c, told'⟩ : ∃ c, commitTold w = c := ⟨_, rfl⟩
    rw [told'] at frame clock kept ⊢
    have tmb : w.tmb = u.tmb := by rw [others]
    refine enterDormant_asleep (kept.trans medium) (by rw [frame, others]) (by rw [frame, others]) (by rw [frame, spm])
      (by rw [frame, spm]) (by rw [frame, spm]) ?_ ((reading_of_afterReading clock).trans read)
    rw [clock, tmb, Tmb.afterReading_eq]
  · have frame := commitTold_others w
    obtain ⟨c, told'⟩ : ∃ c, commitTold w = c := ⟨_, rfl⟩
    rw [told', spm] at frame
    rw [told', frame, others]

/-- Settles O43. -/
theorem programCompletionStoresOrRetries : Obligations.ProgramCompletionStoresOrRetries := by
  refine ⟨fun u answers => ?_, fun s slot image check r rest flight queue => ?_, fun s slot image check r rest flight queue plain
    sized inside => ?_⟩
  · intro t off unlinked asleep
    have others := afterSte_others u
    have medium := afterSte_medium u
    have idle := afterSte_idle u
    refine ⟨afterSte u, others, afterSte_none, fun waits => ?_, fun going quiet => ?_, fun going waits committed => ?_,
      fun given none' cold => ?_⟩
    · obtain ⟨busy, accepted, locked, refused⟩ := afterSte_answers waits (answers waits)
      refine ⟨busy, fun ready free => ?_, locked, refused⟩
      obtain ⟨answered, store⟩ := accepted ready free
      exact ⟨answered, fun _ _ => store⟩
    · have stays : (afterSte u).spm = u.spm := by rw [others]
      refine ⟨fun free => superviseCompletion_goesOn (w := afterSte u) (by rw [stays]; exact going) (by rw [stays]; exact quiet)
        (fun h => by rw [stays, free] at h; exact nomatch h.1), fun committed => ⟨fun done => ?_, fun more full fault => ?_⟩⟩
      · have ends : t = enterDormant (afterSte u) := superviseCompletion_sleeps (w := afterSte u) (by rw [stays]; exact going)
          (by rw [stays]; exact quiet) (by rw [stays]; exact committed) idle ((drained_iff _).mpr done)
        rw [ends]
        exact enterDormant_asleep medium (by rw [others]) (by rw [others]) (by rw [stays]) (by rw [stays]) (by rw [stays])
          (by rw [others]) (by unfold reading; rw [others])
      · exact superviseCompletion_goesOn (w := afterSte u) (by rw [stays]; exact going) (by rw [stays]; exact quiet)
          (fun h => ((drained_iff _).mp h.2.2).elim more (fun h => h.elim full fault))
    · exact completed_commits going waits committed
    · have ends : t = giveUpStart (afterSte u) := superviseCompletion_givesUp (w := afterSte u) (by rw [others]; exact given)
      clear_value t
      subst ends
      exact giveUpStart_cold others medium cold
  · intro entry n held full _ _
    obtain ⟨u, ends, frame, progress, store, fulls, still⟩ := program_stored flight queue
    refine ⟨⟨u, ends, frame, progress, store, fulls, still⟩, fun bytes other => ?_⟩
    obtain ⟨u, ends, frame, progress, once, twice⟩ := program_voided flight queue other
    refine ⟨u, ends, frame, progress, fun plain => ?_, fun again => ?_, fun first => (once first).2.1, fun first => (once first).2.2⟩
    · by_cases first : s.evs.failures = 0
      · rw [if_pos first]
        exact (once first).1
      · rw [if_neg first, ((twice first).2.2.1 (plain.resolve_left first))]
        rfl
    · obtain ⟨form, posts, _⟩ := twice again
      exact ⟨by rw [form], posts⟩
  · intro entry n held
    obtain ⟨t, ends, frame, store, valid, first, voids, full, still⟩ := program_stored_plain flight queue plain sized.sectors inside
    refine ⟨⟨t, ends, frame, ?_⟩, fun bytes other => program_voided_plain flight queue plain sized.sectors inside other⟩
    rw [store] at *
    exact ⟨rfl, rfl, rfl, rfl, rfl, rfl, rfl, rfl, rfl, valid, first, voids, rfl, full, still⟩

end Sys2Proof.Machine
end

section
/-! The end of a scan and of the cold start (R167, R180), as both its rows bring it (O44, O47). -/

namespace Sys2Proof.Machine

/-! ## The sector table across a choice of the medium (R149) -/

/-- A choice leaves the sector table and the due erase, or opens the ERASED sector of the write position and makes the next
one's erase due. -/
structure TableChosen (e f : Evs) : Prop where
  choice : f.sectors = e.sectors ∧ f.due = e.due ∨
    e.state ≠ .fault ∧ (sectorAt e (e.writePosition / 32)).condition = .erased ∧
      f.sectors = openSector e.sectors (e.writePosition / 32) ∧
      (f.due = e.due ∨ f.due = some ((e.writePosition / 32 + 1) % 1024))

theorem startProgram_table {s : State} (running : s.evs.state ≠ .fault) : TableChosen s.evs (startProgram s).evs := by
  unfold startProgram
  split
  · exact ⟨.inl ⟨rfl, rfl⟩⟩
  · dsimp only
    split
    case isTrue erased =>
      refine ⟨.inr ⟨running, erased, rfl, ?_⟩⟩
      dsimp only
      split
      · exact .inl rfl
      · exact .inr rfl
    case isFalse => exact ⟨.inl ⟨rfl, rfl⟩⟩

/-- A program started where one can be, on a store that is another's but for its reads. -/
theorem programOrRest_table {s u : State} (same : u.evs = { s.evs with waitingRead := u.evs.waitingRead, lastRead := u.evs.lastRead }) :
    TableChosen s.evs (if canProgram u.evs then startProgram u else u).evs := by
  have read : TableChosen u.evs (if canProgram u.evs then startProgram u else u).evs := by
    split
    case isTrue programs => exact startProgram_table ((canProgram_iff _).mp programs).1
    case isFalse => exact ⟨.inl ⟨rfl, rfl⟩⟩
  obtain ⟨f, whole⟩ : ∃ f, (if canProgram u.evs then startProgram u else u).evs = f := ⟨_, rfl⟩
  rw [whole] at read ⊢
  obtain ⟨choice⟩ := read
  rw [same] at choice
  exact ⟨choice⟩

theorem startRead_table (q : ReadRequest) (s : State) : TableChosen s.evs (startRead q s).evs := by
  unfold startRead
  dsimp only
  split
  · exact ⟨.inl ⟨rfl, rfl⟩⟩
  · refine programOrRest_table ?_
    unfold answerRead
    rw [answer_others]
  · refine programOrRest_table ?_
    unfold answerUnavailable
    rw [answer_others]

theorem mediumChoice_table (s : State) : TableChosen s.evs (mediumChoice s).evs := by
  have rests : TableChosen s.evs s.evs := ⟨.inl ⟨rfl, rfl⟩⟩
  have programs : TableChosen s.evs (if canProgram s.evs then startProgram s else s).evs := programOrRest_table rfl
  have ordinary : TableChosen s.evs (ordinaryChoice s).evs := by
    unfold ordinaryChoice
    split
    · exact ⟨.inl ⟨rfl, rfl⟩⟩
    · exact startRead_table _ s
    · exact programs
    · split
      case isTrue can => exact startProgram_table ((canProgram_iff _).mp can).1
      case isFalse => exact startRead_table _ s
    · exact programs
  unfold mediumChoice
  split
  · exact rests
  · split
    case h_1 => exact rests
    case h_2 all =>
      unfold eraseAllChoice
      split
      · exact startProgram_table (by rw [all]; nofun)
      · split <;> exact ⟨.inl ⟨rfl, rfl⟩⟩
    all_goals exact ordinary

theorem openSector_condition (e : Evs) (n : Nat) :
    (((openSector e.sectors (e.writePosition / 32))[n]?).getD Sector.empty).condition = (sectorAt e n).condition ∨
    n = e.writePosition / 32 ∧ n < e.sectors.length ∧
      (((openSector e.sectors (e.writePosition / 32))[n]?).getD Sector.empty).condition = .writing ∨
    (sectorAt e n).condition = .writing := by
  by_cases inside : n < e.sectors.length
  · rw [openSector_at e _ n inside]
    dsimp only
    by_cases here : n = e.writePosition / 32
    · rw [if_pos here]
      exact .inr (.inl ⟨here, inside, rfl⟩)
    · rw [if_neg here]
      by_cases writing : (sectorAt e n).condition = .writing
      · exact .inr (.inr writing)
      · rw [if_neg writing]
        exact .inl rfl
  · have none' : (openSector e.sectors (e.writePosition / 32))[n]? = none := by
      unfold openSector
      rw [List.getElem?_mapIdx, List.getElem?_eq_none (not_lt.mp inside)]
      rfl
    have outside : e.sectors[n]? = none := List.getElem?_eq_none (not_lt.mp inside)
    refine .inl ?_
    rw [none']
    unfold sectorAt
    rw [outside]

/-- What offers and choices of the medium leave of the store. -/
structure StoreFrame (e f : Evs) : Prop where
  frame : f = { e with
    pwq := f.pwq
    lastIssued := f.lastIssued
    gapCount := f.gapCount
    mode := f.mode
    surveyDrops := f.surveyDrops
    coldDrops := f.coldDrops
    sectors := f.sectors
    due := f.due
    activity := f.activity
    waitingRead := f.waitingRead
    lastRead := f.lastRead }
  entries : ∀ n, (sectorAt f n).first = (sectorAt e n).first ∧ (sectorAt f n).valid = (sectorAt e n).valid ∧
    (sectorAt f n).voids = (sectorAt e n).voids
  erased : ∀ n, n ≠ e.writePosition / 32 → (sectorAt e n).condition = .erased → (sectorAt f n).condition = .erased
  fault : e.state = .fault → f.sectors = e.sectors

theorem StoreFrame.refl (e : Evs) : StoreFrame e e := ⟨rfl, fun _ => ⟨rfl, rfl, rfl⟩, fun _ _ h => h, fun _ => rfl⟩

theorem StoreFrame.trans {e f g : Evs} (h : StoreFrame e f) (k : StoreFrame f g) : StoreFrame e g := by
  have state : f.state = e.state := by rw [h.frame]
  have position : f.writePosition = e.writePosition := by rw [h.frame]
  refine ⟨by rw [k.frame, h.frame], fun n => ?_, fun n other erased => ?_, fun fault => ?_⟩
  · obtain ⟨a, b, c⟩ := h.entries n
    obtain ⟨a', b', c'⟩ := k.entries n
    exact ⟨a'.trans a, b'.trans b, c'.trans c⟩
  · exact k.erased n (by rw [position]; exact other) (h.erased n other erased)
  · exact (k.fault (state.trans fault)).trans (h.fault fault)

theorem StoreFrame.of_eq {e f : Evs} (same : f = e) : StoreFrame e f := same ▸ StoreFrame.refl e

theorem mediumChoice_frame (s : State) : StoreFrame s.evs (mediumChoice s).evs := by
  obtain ⟨_, store, entries, _⟩ := mediumChoice_chooses s
  obtain ⟨choice⟩ := mediumChoice_table s
  refine ⟨by rw [store], entries, fun n other erased => ?_, fun fault => ?_⟩
  · rcases choice with ⟨same, _⟩ | ⟨_, _, opens, _⟩
    · unfold sectorAt at erased ⊢
      rw [same]
      exact erased
    · unfold sectorAt
      rw [opens]
      rcases openSector_condition s.evs n with same | ⟨here, _⟩ | writing
      · rw [same]
        exact erased
      · exact absurd here other
      · rw [erased] at writing
        cases writing
  · rcases choice with ⟨same, _⟩ | ⟨running, _⟩
    · exact same
    · exact absurd fault running

theorem offer_frame (kind : RecordKind) (payload : List Byte) (s : State) : StoreFrame s.evs (offer kind payload s).evs := by
  cases takes : recordTaken s
  · rw [offer_dropped takes]
    exact ⟨rfl, fun _ => ⟨rfl, rfl, rfl⟩, fun _ _ h => h, fun _ => rfl⟩
  · rw [offer_taken takes]
    exact StoreFrame.trans (f := s.evs.queued (completeRecord kind payload (reading s) s.tmb.quality s))
      ⟨rfl, fun _ => ⟨rfl, rfl, rfl⟩, fun _ _ h => h, fun _ => rfl⟩ (by
        exact mediumChoice_frame { s with
          tmb := s.tmb.afterReading
          evs := s.evs.queued (completeRecord kind payload (reading s) s.tmb.quality s) })

/-! ## Notices posted across a change of the link settings -/

/-- Notices posted one after the other under one mask, where settings are taken over in between while the transmitter is IDLE. -/
theorem Posts.acrossSettings {s t u : State} {first second : List Notice} (h : Posts s t first) (k : Posts t u second)
    (mask : u.hlk.settings.mask = t.hlk.settings.mask)
    (settings : t.hlk.transmitter ≠ .idle → u.hlk.settings = t.hlk.settings) : Posts s u (first ++ second) := by
  by_cases busy : t.hlk.transmitter = .idle
  · refine ⟨fun working => absurd ((h.busy working).1.symm.trans busy) working, fun idle room => ?_⟩
    rw [List.length_append] at room
    have long := foldl_noticeJoins_length t.hlk.settings.mask first s.hlk.notices
    rcases h.idle idle (by omega) with queue | ⟨n, _, sends⟩
    · have later := k.idle busy (by rw [queue]; omega)
      rw [queue, ← mask, ← List.foldl_append] at later
      exact later
    · exact absurd (sends.symm.trans busy) nofun
  · exact h.trans k (settings busy)

/-! ## The stages of the end of a cold start (R180) -/

/-- The notice of the store's state at the end of a scan (R153, R155, R164). -/
def scanNotices (s : State) : List Notice :=
  match s.evs.state with
  | .full => [⟨.stn, ["ENTER".toList, "FULL".toList, "PROTECTION".toList, num s.evs.pwq.length, num s.evs.coldDrops,
      timeText (reading s)]⟩]
  | .fault => [⟨.stn, ["ENTER".toList, "FAULT".toList, "ERASE_FAILURE".toList, num s.evs.pwq.length, num s.evs.coldDrops,
      timeText (reading s)]⟩]
  | _ => []

theorem postWithReading_silent {kind : NoticeKind} {s : State} (masked : s.hlk.settings.mask.has kind = false)
    (fields : Time → List Text) : (postWithReading kind fields s).hlk = s.hlk := by
  unfold postWithReading
  rw [postNotice_masked (by exact masked)]
  rfl

/-- Posting the store's state changes the last reading and the link alone. -/
theorem postScanState_posts (s : State) : postScanState s = { s with tmb := (postScanState s).tmb, hlk := (postScanState s).hlk } ∧
    s.tmb.SameButReadings (postScanState s).tmb ∧ reading (postScanState s) = reading s ∧
    Posts s (postScanState s) (scanNotices s) ∧ LinkSteady s (postScanState s) ∧
    (s.hlk.settings.mask.stn = false → (postScanState s).hlk = s.hlk) ∧
    (scanNotices s = [] → postScanState s = s) := by
  have posted : ∀ state reason, postStore "ENTER" state reason s =
      { s with tmb := (postStore "ENTER" state reason s).tmb, hlk := (postStore "ENTER" state reason s).hlk } ∧
      s.tmb.SameButReadings (postStore "ENTER" state reason s).tmb ∧ reading (postStore "ENTER" state reason s) = reading s ∧
      LinkSteady s (postStore "ENTER" state reason s) ∧
      (s.hlk.settings.mask.stn = false → (postStore "ENTER" state reason s).hlk = s.hlk) := by
    intro state reason
    have others := postStore_others "ENTER" state reason s
    refine ⟨by rw [others], ?_, reading_postWithReading _ _ s, postWithReading_steady _ _ s,
      fun masked => postWithReading_silent (by exact masked) _⟩
    rw [others]
    exact Tmb.afterReading_only _
  have still : s = { s with tmb := s.tmb, hlk := s.hlk } ∧ s.tmb.SameButReadings s.tmb ∧ reading s = reading s ∧
      Posts s s [] ∧ LinkSteady s s ∧ (s.hlk.settings.mask.stn = false → s.hlk = s.hlk) ∧
      (([] : List Notice) = [] → s = s) :=
    ⟨rfl, rfl, rfl, Posts.refl s, LinkSteady.of_eq rfl, fun _ => rfl, fun _ => rfl⟩
  unfold postScanState scanNotices
  cases s.evs.state
  case full =>
    obtain ⟨a, b, c, d, e⟩ := posted .full "PROTECTION"
    exact ⟨a, b, c, postStore_posts "ENTER" .full "PROTECTION" s, d, e, nofun⟩
  case fault =>
    obtain ⟨a, b, c, d, e⟩ := posted .fault "ERASE_FAILURE"
    exact ⟨a, b, c, postStore_posts "ENTER" .fault "ERASE_FAILURE" s, d, e, nofun⟩
  all_goals exact still

end Sys2Proof.Machine
end

section
/-! The restore, the recovery and the announcement of a cold start (R119, R120, R180, R186). -/

namespace Sys2Proof.Machine

/-! ## Link settings across the medium's choices -/

/-- The link settings and the configuration mark stand. -/
structure LinkSet (s t : State) : Prop where
  settings : t.hlk.settings = s.hlk.settings
  configMark : t.hlk.configMark = s.hlk.configMark

theorem LinkSet.of_eq {s t : State} (same : t.hlk = s.hlk) : LinkSet s t := ⟨by rw [same], by rw [same]⟩

theorem LinkSet.trans {s t u : State} (h : LinkSet s t) (k : LinkSet t u) : LinkSet s u :=
  ⟨k.settings.trans h.settings, k.configMark.trans h.configMark⟩

theorem LinkSteady.set {s t : State} (h : LinkSteady s t) : LinkSet s t := ⟨h.settings, h.configMark⟩

theorem answer_set {s u : State} (same : u.hlk = s.hlk) (status : Status) (fields : List Text) :
    LinkSet s (answer status fields u) := by
  obtain ⟨settings, configMark, _⟩ := answer_link status fields u
  exact ⟨settings.trans (by rw [same]), configMark.trans (by rw [same])⟩

theorem startRead_set (q : ReadRequest) (s : State) : LinkSet s (startRead q s) := by
  have read : ∀ image place mark, LinkSet s (answerRead q image place mark { s with evs := { s.evs with waitingRead := none } }) := by
    intro image place mark
    unfold answerRead
    refine answer_set ?_ _ _
    rfl
  have refused : LinkSet s (answerUnavailable { s with evs := { s.evs with waitingRead := none } }) := by
    refine answer_set ?_ _ _
    rfl
  have next : ∀ u : State, LinkSet s u → LinkSet s (if canProgram u.evs then startProgram u else u) := by
    intro u settled
    split
    · exact settled.trans (LinkSet.of_eq (startProgram_hlk u))
    · exact settled
  unfold startRead
  dsimp only
  split
  · exact LinkSet.of_eq rfl
  · exact next _ (read _ _ _)
  · exact next _ refused

theorem mediumChoice_set (s : State) : LinkSet s (mediumChoice s) := by
  have rests : LinkSet s s := LinkSet.of_eq rfl
  have programs : LinkSet s (startProgram s) := LinkSet.of_eq (startProgram_hlk s)
  have ordinary : LinkSet s (ordinaryChoice s) := by
    unfold ordinaryChoice
    split
    · exact LinkSet.of_eq rfl
    · exact startRead_set _ s
    · split
      · exact programs
      · exact rests
    · split
      · exact programs
      · exact startRead_set _ s
    · split
      · exact programs
      · exact rests
  unfold mediumChoice eraseAllChoice
  split
  · exact rests
  · split
    case h_1 => exact rests
    case h_2 =>
      split
      · exact programs
      · split
        · exact LinkSet.of_eq rfl
        · exact rests
    all_goals exact ordinary

theorem offer_set (kind : RecordKind) (payload : List Byte) (s : State) : LinkSet s (offer kind payload s) := by
  cases takes : recordTaken s
  · rw [offer_dropped takes]
    exact LinkSet.of_eq rfl
  · obtain ⟨settings, configMark⟩ := mediumChoice_set { s with
      tmb := s.tmb.afterReading
      evs := s.evs.queued (completeRecord kind payload (reading s) s.tmb.quality s) }
    rw [offer_taken takes]
    exact ⟨settings, configMark⟩

/-! ## The link settings restored (R186) -/

/-- The link settings that a cold start chooses, with the configuration mark. -/
theorem chooseLink_eq (low : Bool) (stored : Option StoredRecord) : chooseLink low stored =
    if low = true then (LinkSettings.fallback, false)
    else match stored with
      | none => (LinkSettings.factory, false)
      | some r =>
        if (linkOfPayload r.payload).inRange = true ∧ fieldAt r.payload 48 2 < 512 then (linkOfPayload r.payload, false)
        else (LinkSettings.fallback, true) := by
  unfold chooseLink
  cases low
  · cases stored with
    | none => rfl
    | some r =>
      dsimp only
      refine (if_neg nofun).trans ((if_congr ?_ rfl rfl).trans (if_neg nofun).symm)
      rw [Bool.and_eq_true]
      exact and_congr_right fun _ => decide_eq_true_iff
  · rfl

theorem Hlk.restored_link (h : Hlk) (stored : Option StoredRecord) :
    (h.restored stored).transmitter = h.transmitter ∧ (h.restored stored).notices = h.notices ∧
    (h.restored stored).overflow = h.overflow ∧
    (h.transmitter ≠ .idle → (h.restored stored).settings = h.settings) ∧
    (h.transmitter = .idle → ((h.restored stored).settings, (h.restored stored).configMark) = chooseLink h.defcomAtStart stored) := by
  unfold Hlk.restored
  dsimp only
  split
  case isTrue idle => exact ⟨rfl, rfl, rfl, fun busy => absurd idle busy, fun _ => rfl⟩
  case isFalse busy => exact ⟨rfl, rfl, rfl, fun _ => rfl, fun idle => absurd idle busy⟩

/-! ## The survey recovered (R120) -/

/-- The SVN notice of a survey cut short, where the newest survey or verdict record is a START (R120). -/
def surveyCut (survey : Option StoredRecord) (next : Nat) : List Notice :=
  match survey with
  | some r => if r.kind = .svy ∧ fieldAt r.payload 0 1 = 1 then
      [⟨.svn, [num r.sequence, "COLD".toList, "INCONCLUSIVE".toList, num next]⟩] else []
  | none => []

theorem isStart_iff (r : StoredRecord) : r.isStart = true ↔ r.kind = .svy ∧ fieldAt r.payload 0 1 = 1 := by
  unfold StoredRecord.isStart
  rw [Bool.and_eq_true, beq_iff_eq, beq_iff_eq]

/-- What the recovery of the survey gives of the survey and the verdict (R120). -/
def SurveyRecovered (s t : State) (survey : Option StoredRecord) : Prop :=
  match survey with
  | none => t.svc.survey = s.svc.survey ∧ t.svc.verdict = s.svc.verdict
  | some r =>
    if r.kind = .vdt then
      let v := verdictOfPayload r.payload r.sequence
      t.svc.verdict = some v ∧ t.svc.survey = { SurveyContext.idle with
        state := if v.cause = .complete then .complete else .aborted
        days := some v.days
        startMark := some v.startMark
        endMark := some v.endMark
        id := some v.surveyId
        protectionStart := some v.surveyId
        startDropped := some v.startDropped
        generationsApplied := v.body.map VerdictBody.generationsApplied }
    else if r.kind = .svy ∧ fieldAt r.payload 0 1 = 1 then
      t.svc.survey = { SurveyContext.idle with
        state := .aborted
        requestedStart := some (fieldAt r.payload 1 4)
        armedMark := some (fieldAt r.payload 5 4)
        days := some (fieldAt r.payload 9 1)
        startMark := some (fieldAt r.payload 10 4)
        endMark := some (fieldAt r.payload 14 4)
        id := some r.sequence
        protectionStart := some r.sequence } ∧
      ∃ v x, t.svc.verdict = some v ∧ v.surveyId = r.sequence ∧ v.cause = .cold ∧ v.overall = .inconclusive ∧
        v.body = none ∧ v.startMark = fieldAt r.payload 10 4 ∧ v.endMark = fieldAt r.payload 14 4 ∧
        v.days = fieldAt r.payload 9 1 ∧ v.expectedIntervals = v.days * 144 ∧ v.expectedFrequencies = v.days * 8640 ∧
        v.share = t.svc.active.share ∧ v.hardshare = t.svc.active.hardshare ∧ v.fshare = t.svc.active.fshare ∧
        v.cover = t.svc.active.cover ∧ t.evs.pwq.head? = some x ∧ x.kind = .vdt ∧ x.payload = v.payload
    else t.svc.survey = s.svc.survey ∧ t.svc.verdict = s.svc.verdict

/-- Stage 4 of a cold start, over an empty queue that takes records (R120, R180). -/
structure Recovered (r v : State) : Prop where
  others : v = { r with svc := v.svc, tmb := v.tmb, evs := v.evs, hlk := v.hlk }
  svc : v.svc = { r.svc with survey := v.svc.survey, verdict := v.svc.verdict }
  clock : r.tmb.SameButReadings v.tmb
  reading : reading v = reading r
  store : StoreFrame r.evs v.evs
  posts : Posts r v (surveyCut r.evs.recovery.survey (nextSequence r.evs))
  link : LinkSet r v
  survey : SurveyRecovered r v r.evs.recovery.survey
  queue : v.evs.pwq.length ≤ 1
  cut : ∀ n, surveyCut r.evs.recovery.survey n ≠ [] → ∃ x, v.evs.pwq = [x] ∧ x.sequence = nextSequence r.evs
  alone : (∀ n, surveyCut r.evs.recovery.survey n = []) → v.evs = r.evs

theorem recoverSurvey_recovers {r : State} (queue : r.evs.pwq = []) (running : r.evs.state ≠ .scanning) :
    Recovered r (recoverSurvey r) := by
  have takes : ∀ x : State, x.evs = r.evs → recordTaken x = true := fun x same =>
    (recordTaken_iff x).mpr ⟨by rw [same]; exact running, by rw [same, queue]; decide⟩
  have kept : SurveyRecovered r r none := ⟨rfl, rfl⟩
  unfold recoverSurvey
  cases stored : r.evs.recovery.survey with
  | none =>
    refine ⟨rfl, rfl, rfl, rfl, StoreFrame.refl _, ?_, LinkSet.of_eq rfl, ?_, by rw [queue]; decide, ?_, fun _ => rfl⟩
    · rw [stored]
      exact Posts.refl r
    · rw [stored]
      exact kept
    · rw [stored]
      exact fun n cut => absurd rfl cut
  | some x =>
    dsimp only
    by_cases verdict : x.kind = .vdt
    · have whole : ∀ n, surveyCut (some x) n = [] := fun n => if_neg (by
        rintro ⟨kind, _⟩
        rw [verdict] at kind
        cases kind)
      rw [if_pos verdict]
      refine ⟨rfl, rfl, rfl, rfl, StoreFrame.refl _, ?_, LinkSet.of_eq rfl, ?_, by show r.evs.pwq.length ≤ 1; rw [queue]; decide, ?_,
        fun _ => rfl⟩
      · rw [stored, whole]
        exact (Posts.refl r).of_links rfl rfl
      · rw [stored]
        unfold SurveyRecovered
        dsimp only
        rw [if_pos verdict]
        exact ⟨rfl, rfl⟩
      · rw [stored]
        exact fun n cut => absurd (whole n) cut
    · rw [if_neg verdict]
      by_cases start : x.isStart = true
      · have begun := (isStart_iff x).mp start
        rw [if_pos start]
        obtain ⟨c, same⟩ : ∃ c : State, c = { r with svc := { r.svc with survey := contextOfStart x } } := ⟨_, rfl⟩
        rw [← same]
        have others := concludeSurvey_others .cold .aborted c
        have posts := concludeSurvey_posts .cold .aborted c
        have queues := concludeSurvey_queues .cold .aborted c
        have clock := offer_clock .vdt (formVerdict .cold c).payload c
        have frame := offer_frame .vdt (formVerdict .cold c).payload c
        have read := reading_offer .vdt (formVerdict .cold c).payload c
        have recorded : (verdictRecorded .cold .aborted c).tmb = (offer .vdt (formVerdict .cold c).payload c).tmb := rfl
        have settled : LinkSet c (concludeSurvey .cold .aborted c) := by
          rw [concludeSurvey_eq]
          exact ((offer_set .vdt (formVerdict .cold c).payload c).trans (LinkSet.of_eq (t := verdictRecorded .cold .aborted c) rfl)).trans
            (postNotice_steady _ _ _).set
        have tmb : (concludeSurvey .cold .aborted c).tmb = (offer .vdt (formVerdict .cold c).payload c).tmb := by
          rw [concludeSurvey_eq, postNotice_others]
          rfl
        have evs : (concludeSurvey .cold .aborted c).evs = (offer .vdt (formVerdict .cold c).payload c).evs := by
          rw [others]
        rw [← tmb] at clock
        rw [← evs] at frame
        obtain ⟨v, whole⟩ : ∃ v, concludeSurvey .cold .aborted c = v := ⟨_, rfl⟩
        rw [whole] at others posts queues clock frame settled tmb evs ⊢
        obtain ⟨y, joins, _, _, sequence, kind, payload, _⟩ := queues.taken (takes c (by rw [same]))
        have one : v.evs.pwq = [y] := by rw [joins, same, queue]; rfl
        have svc : v.svc = c.svc.concluded (formVerdict .cold c) .aborted := by rw [others]
        have next : y.sequence = nextSequence r.evs := by rw [sequence, same]
        refine ⟨by rw [others, same], by rw [svc, same]; rfl, by rw [same] at clock; exact clock, ?_, by rw [same] at frame; exact frame,
          ?_, ?_, ?_, by rw [one]; exact le_rfl, fun _ _ => ⟨y, one, next⟩, ?_⟩
        · unfold Machine.reading at read ⊢
          rw [tmb, read, same]
        · rw [stored]
          have cut : surveyCut (some x) (nextSequence r.evs) = [verdictNotice (formVerdict .cold c)] := by
            unfold surveyCut
            dsimp only
            rw [if_pos begun]
            unfold verdictNotice formVerdict offeredSequence
            rw [if_pos (takes c (by rw [same])), same]
            rfl
          rw [cut]
          exact posts.of_links (by rw [same]) rfl
        · rw [same] at settled
          exact ⟨settled.settings, settled.configMark⟩
        · rw [stored]
          unfold SurveyRecovered
          dsimp only
          rw [if_neg verdict, if_pos begun, svc, one]
          refine ⟨by rw [same]; rfl, formVerdict .cold c, y, rfl, by rw [same]; rfl, rfl, rfl, rfl, by rw [same]; rfl, by rw [same]; rfl,
            by rw [same]; rfl, rfl, rfl, rfl, rfl, rfl, rfl, rfl, kind, payload⟩
        · rw [stored]
          intro none'
          have := none' 0
          unfold surveyCut at this
          dsimp only at this
          rw [if_pos begun] at this
          cases this
      · have whole : ∀ n, surveyCut (some x) n = [] := fun n => if_neg (mt (isStart_iff x).mpr start)
        rw [if_neg start]
        refine ⟨rfl, rfl, rfl, rfl, StoreFrame.refl _, ?_, LinkSet.of_eq rfl, ?_, by rw [queue]; decide, ?_, fun _ => rfl⟩
        · rw [stored, whole]
          exact Posts.refl r
        · rw [stored]
          unfold SurveyRecovered
          dsimp only
          rw [if_neg verdict, if_neg fun h => start ((isStart_iff x).mpr h)]
          exact ⟨rfl, rfl⟩
        · rw [stored]
          exact fun n cut => absurd (whole n) cut

end Sys2Proof.Machine
end

section
/-! The end of a cold start, whole (R180). -/

namespace Sys2Proof.Machine

/-- The PWN notice of a cold start's end, with the store that it leaves (R181). -/
def coldNotice (s t : State) : Notice :=
  ⟨.pwn, ["COLD".toList, timeText (reading s), s.spm.backup.text, num t.evs.pwq.length,
    optText ColdReason.text s.spm.coldReason, num s.spm.abortedRestarts, optText num t.evs.lastIssued]⟩

/-- What was recovered of the survey stands where the settings unit and the head of the queue do. -/
theorem SurveyRecovered.of_like {r s v t : State} {survey : Option StoredRecord} (h : SurveyRecovered r v survey)
    (before : r.svc.survey = s.svc.survey ∧ r.svc.verdict = s.svc.verdict) (svc : t.svc = v.svc)
    (head : ∀ x, v.evs.pwq.head? = some x → t.evs.pwq.head? = some x) : SurveyRecovered s t survey := by
  unfold SurveyRecovered at h ⊢
  cases survey with
  | none =>
    dsimp only at h ⊢
    rw [svc, ← before.1, ← before.2]
    exact h
  | some x =>
    dsimp only at h ⊢
    rw [svc, ← before.1, ← before.2]
    by_cases verdict : x.kind = .vdt
    · rw [if_pos verdict] at h ⊢
      exact h
    · by_cases start : x.kind = .svy ∧ fieldAt x.payload 0 1 = 1
      · rw [if_neg verdict, if_pos start] at h ⊢
        obtain ⟨context, verdict, y, formed, id, cause, overall, body, begins, stops, days, intervals, frequencies, share, hardshare,
          fshare, cover, first, kind, payload⟩ := h
        exact ⟨context, verdict, y, formed, id, cause, overall, body, begins, stops, days, intervals, frequencies, share, hardshare,
          fshare, cover, head y first, kind, payload⟩
      · rw [if_neg verdict, if_neg start] at h ⊢
        exact h

/-- Stage 5 of a cold start (R180), over a store that takes its record. -/
structure ColdAnnounced (v a : State) : Prop where
  others : a = { v with tmb := a.tmb, evs := a.evs, hlk := a.hlk }
  clock : v.tmb.SameButReadings a.tmb
  store : StoreFrame v.evs a.evs
  posts : Posts v a [coldNotice v a]
  link : LinkSet v a
  record : ∃ x, a.evs.pwq = v.evs.pwq ++ [x] ∧ a.evs.lastIssued = some x.sequence ∧ x.kind = .pwr ∧
    x.generation = v.svc.generation ∧ x.payload = coldRecord v ∧ x.sequence = nextSequence v.evs

theorem announceCold_announces {v : State} (takes : recordTaken v = true) : ColdAnnounced v (announceCold v) := by
  have frame := offer_others .pwr (coldRecord v) v
  have clock := offer_clock .pwr (coldRecord v) v
  have store := offer_frame .pwr (coldRecord v) v
  have read := reading_offer .pwr (coldRecord v) v
  have settled := offer_set .pwr (coldRecord v) v
  obtain ⟨silent, _⟩ := offer_posts .pwr (coldRecord v) v
  obtain ⟨x, joins, issued, _, sequence, kind, payload, generation, _⟩ := (offer_queues .pwr (coldRecord v) v).taken takes
  have form : announceCold v = postPower "COLD" [optText ColdReason.text v.spm.coldReason, num v.spm.abortedRestarts,
      optText num (some x.sequence)] (offer .pwr (coldRecord v) v) := by
    unfold announceCold offeredSequence
    rw [if_pos takes, sequence]
  obtain ⟨q, whole⟩ : ∃ q, offer .pwr (coldRecord v) v = q := ⟨_, rfl⟩
  rw [whole] at frame clock store read settled silent joins issued form
  have told := postPower_others "COLD" [optText ColdReason.text v.spm.coldReason, num v.spm.abortedRestarts,
    optText num (some x.sequence)] q
  have posts := postPower_posts "COLD" [optText ColdReason.text v.spm.coldReason, num v.spm.abortedRestarts,
    optText num (some x.sequence)] q
  have steady : LinkSteady q (postPower "COLD" [optText ColdReason.text v.spm.coldReason, num v.spm.abortedRestarts,
    optText num (some x.sequence)] q) := postWithReading_steady _ _ q
  rw [← form] at told posts steady
  obtain ⟨a, whole'⟩ : ∃ a, announceCold v = a := ⟨_, rfl⟩
  rw [whole'] at told posts steady ⊢
  have evs : a.evs = q.evs := by rw [told]
  have spm : q.spm = v.spm := by rw [frame]
  refine ⟨by rw [told, frame], ?_, by rw [evs]; exact store, ?_, settled.trans steady.set, x, by rw [evs]; exact joins,
    by rw [evs]; exact issued, kind, generation, payload, sequence⟩
  · refine clock.trans ?_
    rw [told]
    exact Tmb.afterReading_only q.tmb
  · rw [read, spm] at posts
    have notice : coldNotice v a = ⟨.pwn, ["COLD".toList, timeText (reading v), v.spm.backup.text, num q.evs.pwq.length] ++
        [optText ColdReason.text v.spm.coldReason, num v.spm.abortedRestarts, optText num (some x.sequence)]⟩ := by
      unfold coldNotice
      rw [evs, issued]
      rfl
    rw [notice]
    exact silent.trans posts steady.settings

/-- The end of a cold start from the state before its restore, over an empty queue that takes records. -/
structure ColdEnded (p t : State) : Prop where
  spm : t.spm = { p.spm.running with abortedRestarts := 0 }
  pins : t.pins = p.pins
  pending : t.pending = p.pending
  store : StoreFrame p.evs t.evs
  counter : t.evd.counter = p.evd.counter
  posts : Posts p t (surveyCut p.evs.recovery.survey (nextSequence p.evs) ++ [coldNotice p t])
  settings : t.hlk.settings = (p.hlk.restored p.evs.recovery.settings).settings
  restored : Restored p t p.evs.recovery.settings p.evs.recovery.measurement p.evs.recovery.survey
  record : ∃ x, t.evs.pwq.getLast? = some x ∧ x.kind = .pwr ∧ t.evs.lastIssued = some x.sequence ∧
    x.generation = t.svc.generation ∧
    x.payload = coldPayload (p.spm.coldReason.getD .powerUp) p.spm.abortedRestarts p.evs.voidFound p.evs.breaksFound
      t.evs.oldestSequence t.evs.lastStored t.svc.measuring t.svc.survey.state p.spm.backup
  cut : ∀ n, surveyCut p.evs.recovery.survey n ≠ [] → t.evs.pwq.head?.map Record.sequence = some (nextSequence p.evs)

theorem coldStart_ends {p : State} (queue : p.evs.pwq = []) (running : p.evs.state ≠ .scanning) :
    ColdEnded p (mediumChoice (finishColdStart p)) := by
  obtain ⟨sends, waits, overflow, busyLink, idleLink⟩ := p.hlk.restored_link p.evs.recovery.settings
  have restoredPosts : Posts p (restore p) [] := Posts.of_same sends waits overflow
  have recovered : Recovered (restore p) (recoverSurvey (restore p)) := recoverSurvey_recovers queue running
  obtain ⟨v, whole⟩ : ∃ v, recoverSurvey (restore p) = v := ⟨_, rfl⟩
  rw [whole] at recovered
  obtain ⟨vFrame, vSvc, vClock, vRead, vStore, vPosts, vLink, vSurvey, vQueue, vCut, _⟩ := recovered
  have vState : v.evs.state = p.evs.state := by rw [vStore.frame]; rfl
  have announced : ColdAnnounced v (announceCold v) := announceCold_announces
    ((recordTaken_iff v).mpr ⟨by rw [vState]; exact running, by omega⟩)
  obtain ⟨a, whole'⟩ : ∃ a, announceCold v = a := ⟨_, rfl⟩
  rw [whole'] at announced
  obtain ⟨aFrame, aClock, aStore, aPosts, aLink, x, joins, issued, kind, generation, payload, _⟩ := announced
  have form : finishColdStart p = runAfterCold a := by rw [← whole', ← whole]; rfl
  rw [form]
  obtain ⟨tFrame, _, _, _⟩ := mediumChoice_chooses (runAfterCold a)
  have tStore := mediumChoice_frame (runAfterCold a)
  have tLink := mediumChoice_set (runAfterCold a)
  have tPosts := mediumChoice_posts (runAfterCold a)
  have tQueue : (mediumChoice (runAfterCold a)).evs.pwq = a.evs.pwq := by rw [(mediumChoice_chooses (runAfterCold a)).store]; rfl
  have tIssued : (mediumChoice (runAfterCold a)).evs.lastIssued = a.evs.lastIssued := by
    rw [(mediumChoice_chooses (runAfterCold a)).store]; rfl
  obtain ⟨t, whole''⟩ : ∃ t, mediumChoice (runAfterCold a) = t := ⟨_, rfl⟩
  rw [whole''] at tFrame tStore tLink tPosts tQueue tIssued ⊢
  have aSpm : a.spm = p.spm := by rw [aFrame, vFrame]; rfl
  have vSpm : v.spm = p.spm := by rw [vFrame]; rfl
  have aSvc : a.svc = v.svc := by rw [aFrame]
  have tSvc : t.svc = v.svc := by rw [tFrame]; exact aSvc
  have svc : t.svc = { p.svc.restored p.evs.recovery with survey := t.svc.survey, verdict := t.svc.verdict } := by
    rw [tSvc]
    exact vSvc
  have active : t.svc.active = (p.svc.restored p.evs.recovery).active := by rw [svc]
  have aCyt : a.cyt = p.cyt.restored t.svc.active := by rw [active, aFrame, vFrame]; rfl
  have tCyt : t.cyt = a.cyt.atStart t.svc.active := by rw [tSvc, ← aSvc, tFrame]; rfl
  have tTmb : t.tmb = a.tmb := by rw [tFrame]; rfl
  have tEvd : t.evd = { p.evd with phases := normalPhases t.svc.active.wiring } := by
    rw [active, tFrame]
    show a.evd = _
    rw [aFrame, vFrame]
    rfl
  have clock : ((p.tmb.restored p.evs.recovery.settings).SameButReadings t.tmb) := by
    rw [tTmb]
    exact vClock.trans aClock
  have store : StoreFrame p.evs t.evs := (vStore.trans aStore).trans tStore
  have link : LinkSet (restore p) t :=
    (vLink.trans aLink).trans ((LinkSet.of_eq (s := a) (t := runAfterCold a) rfl).trans tLink)
  have read : reading v = reading p := by
    rw [vRead]
    show (p.tmb.restored p.evs.recovery.settings).handedOut = _
    unfold Tmb.restored
    split <;> rfl
  have notice : coldNotice v a = coldNotice p t := by
    unfold coldNotice
    rw [read, vSpm, tQueue, tIssued]
  have recoveredAs : SurveyRecovered p t p.evs.recovery.survey := by
    exact SurveyRecovered.of_like (r := restore p) vSurvey ⟨rfl, rfl⟩ tSvc fun y first => by
      cases queued : v.evs.pwq with
      | nil => rw [queued] at first; cases first
      | cons z rest =>
        rw [queued] at first
        rw [tQueue, joins, queued]
        exact first
  refine ⟨?_, ?_, ?_, store, ?_, ?_, link.settings, ?_, ⟨x, ?_, kind, tIssued.trans issued, ?_, ?_⟩, fun n cut => ?_⟩
  · rw [tFrame]
    show ({ a.spm.running with abortedRestarts := 0 } : Spm) = _
    rw [aSpm]
  · rw [tFrame]
    show a.pins = _
    rw [aFrame, vFrame]
    rfl
  · rw [tFrame]
    show a.pending = _
    rw [aFrame, vFrame]
    rfl
  · rw [tEvd]
  · have upTo := (restoredPosts.trans vPosts vLink.settings).trans aPosts aLink.settings
    have all := upTo.trans (tPosts.1.of_links (s' := a) (t' := t) rfl rfl) tPosts.2
    rw [notice, List.append_nil] at all
    exact all
  · have chosen : p.hlk.transmitter = .idle → (t.hlk.settings, t.hlk.configMark) =
        chooseLink p.hlk.defcomAtStart p.evs.recovery.settings := fun idle => by
      rw [link.settings, link.configMark]
      exact idleLink idle
    have survey : SurveyRecovered p t p.evs.recovery.survey := recoveredAs
    generalize p.evs.recovery = found at *
    obtain ⟨settings, measurement, cut⟩ := found
    refine ⟨active, ?_, by rw [svc]; rfl, ?_, fun stored given => ?_, fun given => ?_, ?_, fun phase => ?_, fun phase => ?_,
      fun idle _ => ?_, survey⟩
    · have generation' : t.svc.generation = (p.svc.restored ⟨settings, measurement, cut⟩).generation := by rw [svc]
      cases settings <;> exact generation'
    · have measuring : t.svc.measuring = (p.svc.restored ⟨settings, measurement, cut⟩).measuring := by rw [svc]
      cases measurement <;> exact measuring
    · unfold Tmb.SameButReadings Tmb.restored at clock
      dsimp only at given
      rw [given] at clock
      rw [clock]
      exact ⟨rfl, rfl⟩
    · unfold Tmb.SameButReadings Tmb.restored at clock
      dsimp only at given
      rw [given] at clock
      rw [clock]
      exact ⟨rfl, rfl⟩
    · rw [tCyt, aCyt]
      rfl
    · have begins : a.cyt.begins t.svc.active phase = wired t.svc.active.wiring phase := by
        rw [aCyt]
        exact Bool.or_self _
      rw [tCyt]
      show (PerPhase.build (fun p => if a.cyt.begins t.svc.active p then
        some (SignState.start (quarterCycle a.cyt.fnInUse)) else none)).get phase = _
      rw [PerPhase.build_get, begins, aCyt]
      refine if_congr Iff.rfl ?_ rfl
      show some (SignState.start (quarterCycle t.svc.active.fn)) = _
      cases t.svc.active.fn <;> rfl
    · rw [tEvd]
      show (normalPhases t.svc.active.wiring).get phase = _
      unfold normalPhases
      rw [PerPhase.build_get]
      rfl
    · have link' := (chosen idle).trans (chooseLink_eq _ _)
      cases settings <;> exact link'
  · rw [tQueue, joins]
    simp
  · rw [generation, tSvc]
  · rw [payload]
    unfold coldRecord
    rw [vSpm, tSvc]
    have found : v.evs.voidFound = p.evs.voidFound ∧ v.evs.breaksFound = p.evs.breaksFound := by
      rw [vStore.frame]
      exact ⟨rfl, rfl⟩
    have ring : v.evs.oldestSequence = t.evs.oldestSequence ∧ v.evs.lastStored = t.evs.lastStored := by
      rw [store.frame, vStore.frame]
      exact ⟨rfl, rfl⟩
    rw [found.1, found.2, ring.1, ring.2]
  · obtain ⟨y, one, next⟩ := vCut n cut
    rw [tQueue, joins, one]
    exact congrArg some next

end Sys2Proof.Machine
end

section
/-! The end of a scan (R167, R180). -/

namespace Sys2Proof.Machine

/-- The state that a scan leaves, before its notices and the end of the cold start (R167). -/
def scanLeft (failed : Bool) (h : State) : State :=
  { h with evs := { h.evs with activity := .idle, state := stateAfterScan failed h.evs } }

/-- What a restore gives, seen from a state with the same settings unit, tracker, reference settings and, where no STN is
admitted, link. -/
theorem Restored.of_like {p h t : State} {settings measurement survey : Option StoredRecord}
    (restored : Restored p t settings measurement survey) (svc : p.svc = h.svc) (cyt : p.cyt = h.cyt)
    (tmb : p.tmb.enabled = h.tmb.enabled ∧ p.tmb.polarity = h.tmb.polarity)
    (silent : h.hlk.settings.mask.stn = false → p.hlk = h.hlk) : Restored h t settings measurement survey := by
  obtain ⟨active, generation, staged, measuring, reference, noReference, tracker, channels, phases, link, survey'⟩ := restored
  refine ⟨active, generation, staged, measuring, reference, fun none' => ?_, ?_, channels, phases, fun idle masked => ?_, ?_⟩
  · rw [← tmb.1, ← tmb.2]
    exact noReference none'
  · rw [← cyt]
    exact tracker
  · have same := silent masked
    rw [← same] at idle masked ⊢
    cases settings <;> exact link idle masked
  · rw [← svc]
    exact survey'

/-- The end of a scan over an empty queue, with the end of the cold start. -/
structure ScanEnded (failed : Bool) (h t : State) : Prop where
  spm : t.spm = { h.spm.running with abortedRestarts := 0 }
  pins : t.pins = h.pins
  pending : t.pending = h.pending
  store : StoreFrame (scanLeft failed h).evs t.evs
  counter : t.evd.counter = h.evd.counter
  told : t.hlk.settings.mask = h.hlk.settings.mask ∨ h.hlk.transmitter ≠ .idle ∨ scanNotices (scanLeft failed h) = [] →
    Posts h t (scanNotices (scanLeft failed h) ++ surveyCut h.evs.recovery.survey (nextSequence h.evs) ++ [coldNotice h t])
  restored : Restored h t h.evs.recovery.settings h.evs.recovery.measurement h.evs.recovery.survey
  record : ∃ x, t.evs.pwq.getLast? = some x ∧ x.kind = .pwr ∧ t.evs.lastIssued = some x.sequence ∧
    x.generation = t.svc.generation ∧
    x.payload = coldPayload (h.spm.coldReason.getD .powerUp) h.spm.abortedRestarts h.evs.voidFound h.evs.breaksFound
      t.evs.oldestSequence t.evs.lastStored t.svc.measuring t.svc.survey.state h.spm.backup
  cut : ∀ n, surveyCut h.evs.recovery.survey n ≠ [] → t.evs.pwq.head?.map Record.sequence = some (nextSequence h.evs)

theorem stateAfterScan_running (failed : Bool) (e : Evs) : stateAfterScan failed e ≠ .scanning := by
  unfold stateAfterScan
  split
  · nofun
  · split <;> nofun

theorem endScan_eq (failed : Bool) (h : State) :
    endScan failed h = mediumChoice (finishColdStart (postScanState (scanLeft failed h))) := rfl

theorem endScan_ends (failed : Bool) {h : State} (queue : h.evs.pwq = []) : ScanEnded failed h (endScan failed h) := by
  rw [endScan_eq]
  obtain ⟨frame, clock, read, posts, steady, silent, none'⟩ := postScanState_posts (scanLeft failed h)
  obtain ⟨p, whole⟩ : ∃ p, postScanState (scanLeft failed h) = p := ⟨_, rfl⟩
  rw [whole] at frame clock read posts steady silent none' ⊢
  have evs : p.evs = (scanLeft failed h).evs := by rw [frame]
  have ended : ColdEnded p (mediumChoice (finishColdStart p)) := coldStart_ends (by rw [evs]; exact queue)
    (by rw [evs]; exact stateAfterScan_running failed h.evs)
  obtain ⟨t, whole'⟩ : ∃ t, mediumChoice (finishColdStart p) = t := ⟨_, rfl⟩
  rw [whole'] at ended ⊢
  obtain ⟨spm, pins, pending, store, counter, told, settings, restored, record, cut⟩ := ended
  obtain ⟨_, _, _, busyLink, _⟩ := p.hlk.restored_link p.evs.recovery.settings
  have pSpm : p.spm = h.spm := by rw [frame]; rfl
  have found : p.evs.recovery = h.evs.recovery := by rw [evs]; rfl
  have next : nextSequence p.evs = nextSequence h.evs := by rw [evs]; rfl
  have sameRead : reading p = reading h := read
  have notice : coldNotice p t = coldNotice h t := by
    unfold coldNotice
    rw [sameRead, pSpm]
  rw [found, next, notice] at told
  rw [pSpm] at spm
  refine ⟨spm, by rw [pins, frame]; rfl, by rw [pending, frame]; rfl, by rw [← evs]; exact store, by rw [counter, frame]; rfl,
    fun together => ?_, ?_, ?_, ?_⟩
  · rw [List.append_assoc]
    have first : Posts h p (scanNotices (scanLeft failed h)) := posts.of_links rfl rfl
    have pMask : p.hlk.settings.mask = h.hlk.settings.mask := by rw [steady.settings]; rfl
    have later : p.hlk.transmitter ≠ .idle → t.hlk.settings = p.hlk.settings := fun busy => settings.trans (busyLink busy)
    rcases together with mask | busy | quiet
    · exact first.acrossSettings told (mask.trans pMask.symm) later
    · exact first.trans told (later (by rw [(first.busy busy).1]; exact busy))
    · rw [quiet, List.nil_append]
      have same : p.hlk = h.hlk := by rw [none' quiet]; rfl
      exact told.of_links same.symm rfl
  · have svc : p.svc = h.svc := by rw [frame]; rfl
    have cyt : p.cyt = h.cyt := by rw [frame]; rfl
    have tmb : p.tmb.enabled = h.tmb.enabled ∧ p.tmb.polarity = h.tmb.polarity := by
      unfold Tmb.SameButReadings at clock
      rw [clock]
      exact ⟨rfl, rfl⟩
    rw [found] at restored
    exact restored.of_like svc cyt tmb silent
  · rw [pSpm, evs] at record
    exact record
  · rw [found, next] at cut
    exact cut

end Sys2Proof.Machine
end

section
/-! The end of an erase: the medium, the sector table and the oldest position (R140, R152, R162). -/

namespace Sys2Proof.Machine

/-! ## The medium an erase leaves (R140) -/

theorem Memory.read_eraseSector_any (m : Memory) (sector x : Nat) :
    (m.eraseSector sector).read x = if x / 4096 = sector then 0xFF#8 else m.read x := by
  unfold Memory.eraseSector
  induction m with
  | nil => exact (ite_self _).symm
  | cons c rest ih =>
    by_cases here : c.1 / 4096 = sector
    · rw [List.filter_cons_of_neg (by simpa using here), ih]
      by_cases inside : x / 4096 = sector
      · rw [if_pos inside, if_pos inside]
      · have other : c.1 ≠ x := fun same => inside (same ▸ here)
        rw [if_neg inside, if_neg inside]
        exact (if_neg other).symm
    · rw [List.filter_cons_of_pos (by simpa using here)]
      by_cases same : c.1 = x
      · have read : ∀ l : Memory, Memory.read (c :: l) x = c.2 := fun l => if_pos same
        rw [read, read, if_neg (same ▸ here)]
      · have read : ∀ l : Memory, Memory.read (c :: l) x = Memory.read l x := fun l => if_neg same
        rw [read, read, ih]

/-- A byte written where none is listed reads back, and no other byte changes. -/
theorem Memory.read_insert_fresh {m : Memory} {a : Nat} {b : Byte} (fresh : ∀ c ∈ m, c.1 ≠ a) (listed : b ≠ Memory.erased) (x : Nat) :
    (m.insert a b).read x = if x = a then b else m.read x := by
  have alone : ∀ l : Memory, Memory.read ((a, b) :: l) x = if x = a then b else Memory.read l x := fun l =>
    if_congr eq_comm rfl rfl
  induction m with
  | nil =>
    have form : Memory.insert [] a b = [(a, b)] := if_neg listed
    rw [form, alone]
  | cons c rest ih =>
    obtain ⟨y, d⟩ := c
    have other : ¬ a = y := fun same => fresh _ (List.mem_cons_self ..) same.symm
    have later := ih fun e mem => fresh e (List.mem_cons_of_mem _ mem)
    by_cases before : a < y
    · have form : Memory.insert ((y, d) :: rest) a b = (a, b) :: (y, d) :: rest := (if_pos before).trans (if_neg listed)
      rw [form, alone]
    · have form : Memory.insert ((y, d) :: rest) a b = (y, d) :: Memory.insert rest a b := (if_neg before).trans (if_neg other)
      have read : ∀ l : Memory, Memory.read ((y, d) :: l) x = if y = x then d else Memory.read l x := fun l => rfl
      rw [form, read, read, later]
      by_cases here : y = x
      · rw [if_pos here, if_neg (fun same => other (same.symm.trans here.symm)), if_pos here]
      · rw [if_neg here, if_neg here]

theorem Memory.mem_insert {a : Nat} {b : Byte} (listed : b ≠ Memory.erased) (m : Memory) : (a, b) ∈ m.insert a b := by
  induction m with
  | nil =>
    unfold Memory.insert
    rw [if_neg listed]
    exact List.mem_cons_self ..
  | cons c rest ih =>
    obtain ⟨y, d⟩ := c
    unfold Memory.insert
    rw [if_neg listed, if_neg listed]
    split
    · exact List.mem_cons_self ..
    · split
      · exact List.mem_cons_self ..
      · exact List.mem_cons_of_mem _ ih

theorem Memory.erasedLeaving_nothing (m : Memory) (sector : Nat) : m.erasedLeaving sector [] = m.eraseSector sector := rfl

theorem sectorErased_eraseSector (m : Memory) (sector : Nat) : sectorErased (m.eraseSector sector) sector = true := by
  unfold sectorErased Memory.eraseSector
  rw [List.all_eq_true]
  intro c mem
  exact (List.mem_filter.mp mem).2

section
variable {sector offset : Nat} {b : Byte} (inside : sector < 1024) (within : offset < 4096) (listed : b ≠ 0xFF#8)
include inside within

theorem Memory.erasedLeaving_residue (m : Memory) : m.erasedLeaving sector [(offset, b)] =
    (m.eraseSector sector).insert (4096 * sector + offset) b := by
  unfold Memory.erasedLeaving
  rw [List.filter_cons_of_pos (by simpa using within)]
  exact if_pos (by show _ < 4194304; omega)

include listed

theorem sectorErased_residue (m : Memory) : ¬ sectorErased (m.erasedLeaving sector [(offset, b)]) sector = true := by
  rw [Memory.erasedLeaving_residue inside within]
  unfold sectorErased
  rw [List.all_eq_true]
  intro all
  have := all _ (Memory.mem_insert (a := 4096 * sector + offset) (b := b) listed (m.eraseSector sector))
  simp only [decide_eq_true_eq] at this
  exact this (by omega)

theorem Memory.read_residue (m : Memory) (x : Nat) : (m.erasedLeaving sector [(offset, b)]).read x =
    if x = 4096 * sector + offset then b else if x / 4096 = sector then 0xFF#8 else m.read x := by
  rw [Memory.erasedLeaving_residue inside within, Memory.read_insert_fresh ?_ listed, Memory.read_eraseSector_any]
  intro c mem same
  have := (List.mem_filter.mp mem).2
  simp only [decide_eq_true_eq] at this
  exact this (by omega)

end

/-! ## The oldest position after an erase (R152) -/

theorem mem_sectorsAfter (e : Evs) (sector n : Nat) : n ∈ sectorsAfter e sector ↔
    ∃ d, 1 ≤ d ∧ d ≤ (let further := (e.writePosition / 32 + 1024 - sector) % 1024; if further = 0 then 1023 else further) ∧
      n = (sector + d) % 1024 := by
  unfold sectorsAfter sectorOf
  simp only [List.mem_map, List.mem_range]
  constructor
  · rintro ⟨i, small, rfl⟩
    exact ⟨i + 1, by omega, by omega, by congr 1; omega⟩
  · rintro ⟨d, first, last, rfl⟩
    exact ⟨d - 1, by omega, by congr 1; omega⟩

/-- The sectors after a sector are others. -/
theorem sectorsAfter_other {e : Evs} {sector n : Nat} (mem : n ∈ sectorsAfter e sector) : n ≠ sector := by
  obtain ⟨d, first, last, rfl⟩ := (mem_sectorsAfter e sector n).mp mem
  dsimp only at last
  split at last <;> omega

/-- The first of the sectors after a sector that holds a record. -/
theorem nextHolding_first {e : Evs} {sector d : Nat} (first : 1 ≤ d)
    (last : d ≤ (let further := (e.writePosition / 32 + 1024 - sector) % 1024; if further = 0 then 1023 else further))
    (holds : 0 < (sectorAt e ((sector + d) % 1024)).valid)
    (none' : ∀ i, 1 ≤ i → i < d → (sectorAt e ((sector + i) % 1024)).valid = 0) :
    nextHolding e sector = some ((sector + d) % 1024) := by
  dsimp only at last
  unfold nextHolding sectorsAfter sectorOf
  rw [List.find?_map]
  have found : (List.range (if (e.writePosition / 32 + 1024 - sector) % 1024 = 0 then 1023
      else (e.writePosition / 32 + 1024 - sector) % 1024)).find?
      ((fun x => decide (0 < (sectorAt e x).valid)) ∘ fun i => (sector + 1 + i) % 1024) = some (d - 1) := by
    rw [List.find?_range_eq_some]
    refine ⟨?_, by simp only [List.mem_range]; omega, fun i small => ?_⟩
    · simp only [Function.comp, decide_eq_true_eq]
      rw [show sector + 1 + (d - 1) = sector + d by omega]
      exact holds
    · simp only [Function.comp, Bool.not_eq_true', decide_eq_false_iff_not]
      rw [show sector + 1 + i = sector + (i + 1) by omega, none' (i + 1) (by omega) (by omega)]
      omega
  rw [found]
  exact congrArg some (by show (sector + 1 + (d - 1)) % 1024 = _; congr 1; omega)

theorem nextHolding_none {e : Evs} {sector : Nat}
    (none' : ∀ d, 1 ≤ d → d ≤ (let further := (e.writePosition / 32 + 1024 - sector) % 1024; if further = 0 then 1023 else further) →
      (sectorAt e ((sector + d) % 1024)).valid = 0) : nextHolding e sector = none := by
  unfold nextHolding
  rw [List.find?_eq_none]
  intro n mem holds
  obtain ⟨d, first, last, rfl⟩ := (mem_sectorsAfter e sector n).mp mem
  rw [none' d first last] at holds
  simp at holds

theorem recordSlots_head {e : Evs} {n x : Nat} (head : (recordSlots e n).head? = some x) : x / 32 = n := by
  have mem : x ∈ recordSlots e n := List.mem_of_mem_head? (by rw [head]; rfl)
  rw [recordSlots_eq] at mem
  obtain ⟨i, small, rfl⟩ := List.mem_map.mp mem
  have := List.mem_range.mp (List.mem_filter.mp small).1
  omega

/-- What a successful erase leaves of the sector table and the oldest position (R152). -/
theorem Evs.erased_frame (e : Evs) (sector : Nat) : e.erased sector = { e with
    sectors := e.sectors.set sector ⟨.erased, none, 0, []⟩
    due := if e.due = some sector then none else e.due
    oldest := (e.erased sector).oldest
    oldestSequence := (e.erased sector).oldestSequence } := by
  unfold Evs.erased
  dsimp only
  split <;> rfl

/-- The oldest position and sequence after an erase of the sector that the oldest position lies in (R152). -/
theorem Evs.erased_oldest {e : Evs} {sector : Nat} (here : e.oldest.map (fun x => x / 32) = some sector) :
    let further := (e.writePosition / 32 + 1024 - sector) % 1024
    let reach := if further = 0 then 1023 else further
    (∀ x, (e.erased sector).oldest = some x → x / 32 ≠ sector) ∧
    (∀ d, 1 ≤ d → d ≤ reach → 0 < (sectorAt e ((sector + d) % 1024)).valid →
      (∀ i, 1 ≤ i → i < d → (sectorAt e ((sector + i) % 1024)).valid = 0) →
      (e.erased sector).oldestSequence = (sectorAt e ((sector + d) % 1024)).first ∧
      ∀ x, (e.erased sector).oldest = some x → x / 32 = (sector + d) % 1024) ∧
    ((∀ d, 1 ≤ d → d ≤ reach → (sectorAt e ((sector + d) % 1024)).valid = 0) →
      (e.erased sector).oldest = none ∧ (e.erased sector).oldestSequence = none) := by
  intro further reach
  obtain ⟨c, cleared⟩ : ∃ c : Evs, c = { e with
      sectors := e.sectors.set sector Sector.empty
      due := if e.due = some sector then none else e.due } := ⟨_, rfl⟩
  have form : e.erased sector = c.moveOldest sector := by
    rw [cleared]
    exact if_pos here
  have position : c.writePosition = e.writePosition := by rw [cleared]
  have entry : ∀ n, n ≠ sector → sectorAt c n = sectorAt e n := fun n other =>
    sectorAt_set_other (x := Sector.empty) (by rw [cleared]) other
  have after : ∀ d, 1 ≤ d → d ≤ reach → (sector + d) % 1024 ≠ sector := fun d first last => by
    have : reach ≤ 1023 := by
      show (if further = 0 then 1023 else further) ≤ 1023
      have : further < 1024 := Nat.mod_lt _ (by decide)
      split <;> omega
    omega
  rw [form]
  unfold Evs.moveOldest
  refine ⟨fun x oldest => ?_, fun d first last holds none' => ?_, fun none' => ?_⟩
  · obtain ⟨n, next, head⟩ := Option.bind_eq_some_iff.mp oldest
    rw [recordSlots_head head]
    exact sectorsAfter_other (List.mem_of_find?_eq_some next)
  · have next : nextHolding c sector = some ((sector + d) % 1024) := by
      refine nextHolding_first first (by rw [position]; exact last) ?_ fun i low high => ?_
      · rw [entry _ (after d first last)]
        exact holds
      · rw [entry _ (after i low (by omega))]
        exact none' i low high
    rw [next]
    refine ⟨?_, fun x oldest => recordSlots_head oldest⟩
    show (sectorAt c _).first = _
    rw [entry _ (after d first last)]
  · have next : nextHolding c sector = none := by
      refine nextHolding_none fun d low high => ?_
      rw [position] at high
      rw [entry _ (after d low high)]
      exact none' d low high
    rw [next]
    exact ⟨rfl, rfl⟩

theorem Evs.erased_elsewhere {e : Evs} {sector : Nat} (other : ¬ e.oldest.map (fun x => x / 32) = some sector) :
    (e.erased sector).oldest = e.oldest ∧ (e.erased sector).oldestSequence = e.oldestSequence := by
  have form : e.erased sector = { e with
      sectors := e.sectors.set sector Sector.empty
      due := if e.due = some sector then none else e.due } := if_neg other
  rw [form]
  exact ⟨rfl, rfl⟩

end Sys2Proof.Machine
end

section
/-! ERASE_COMPLETE (O44). -/

namespace Sys2Proof.Machine

/-! ## What the row does, by what the sector reads back (R152) -/

/-- The state in which the sector is free. -/
def sectorFreed (sector : Nat) (s : State) : State :=
  { s with evs := ({ s.evs with medium := s.evs.medium.eraseSector sector } : Evs).erased sector }

/-- The state in which the sector is CLOSED over what it reads back. -/
def sectorStuck (sector : Nat) (residue : List Host.Cell) (s : State) : State :=
  { s with evs := { s.evs with
      medium := s.evs.medium.erasedLeaving sector residue
      sectors := s.evs.sectors.set sector { sectorAt s.evs sector with condition := .closed } } }

section
variable {s : State} {sector : Nat} (flight : s.evs.activity = .erase sector)
include flight

theorem exec_erase_freed : exec (.eraseComplete []) s = .next (match s.evs.state with
    | .scanning => if s.spm.abortPending then completed (sectorFreed sector s) else endScan false (sectorFreed sector s)
    | .erasingAll => completed (frontAdvances (sectorFreed sector s))
    | .ready => completed (sectorFreed sector s)
    | .full => completed (sectorFreed sector s)
    | .fault => completed (sectorFreed sector s)) := by
  show Host.Outcome.next _ = _
  rw [flight]
  dsimp only
  unfold eraseEnds
  dsimp only
  rw [Memory.erasedLeaving_nothing, if_pos (sectorErased_eraseSector _ _)]
  rfl

theorem exec_erase_stuck {offset : Nat} {b : Byte} (inside : sector < 1024) (within : offset < 4096) (listed : b ≠ 0xFF#8) :
    exec (.eraseComplete [(offset, b)]) s = .next (match s.evs.state with
    | .scanning => if s.spm.abortPending then completed (sectorStuck sector [(offset, b)] s)
        else endScan true (sectorStuck sector [(offset, b)] s)
    | .erasingAll => completed (enterFault "ERASE_FAILURE" (sectorStuck sector [(offset, b)] s))
    | .ready => completed (enterFault "ERASE_FAILURE" (sectorStuck sector [(offset, b)] s))
    | .full => completed (enterFault "ERASE_FAILURE" (sectorStuck sector [(offset, b)] s))
    | .fault => completed (enterFault "ERASE_FAILURE" (sectorStuck sector [(offset, b)] s))) := by
  show Host.Outcome.next _ = _
  rw [flight]
  dsimp only
  unfold eraseEnds
  dsimp only
  rw [if_neg (sectorErased_residue inside within listed _)]
  rfl

end

/-! ## One sector of an erase-all (R162) -/

/-- The state of an erase-all, one sector further, before it is judged. -/
def frontMoved (x : State) : State :=
  { x with evs := { x.evs with erasedCount := x.evs.erasedCount + 1, front := (x.evs.front + 1) % 1024 } }

theorem frontAdvances_further {x : State} (more : x.evs.erasedCount < 1023) : frontAdvances x = frontMoved x :=
  if_neg (by show ¬ 1024 ≤ x.evs.erasedCount + 1; omega)

/-- The end of an erase-all with its last erase still in flight (R162). -/
theorem frontAdvances_ends {x : State} (busy : x.evs.activity ≠ .idle) (last : 1023 ≤ x.evs.erasedCount) :
    ∃ u, frontAdvances x = u ∧ u = { x with tmb := u.tmb, evs := u.evs } ∧
      u.evs = { (frontMoved x).evs with
        state := .ready
        due := some ((x.evs.writePosition / 32 + 1) % 1024)
        pwq := u.evs.pwq
        lastIssued := u.evs.lastIssued
        gapCount := u.evs.gapCount
        mode := u.evs.mode
        surveyDrops := u.evs.surveyDrops
        coldDrops := u.evs.coldDrops } ∧
      (x.evs.pwq.length < 32 → ∃ r, u.evs.pwq = x.evs.pwq ++ [r] ∧ r.kind = .sto ∧
        r.payload = erasedPayload x.evs.erasedRange (x.evs.erasedCount + 1) true) := by
  obtain ⟨ready, same⟩ : ∃ ready : State, ready = { frontMoved x with evs := { (frontMoved x).evs with state := .ready } } := ⟨_, rfl⟩
  have form : frontAdvances x = { offerErased true ready with evs := { (offerErased true ready).evs with
      due := some (nextSector (sectorOf (offerErased true ready).evs.writePosition)) } } := by
    rw [same]
    exact if_pos (by show 1024 ≤ x.evs.erasedCount + 1; omega)
  have offered : offerErased true ready = offer .sto (erasedPayload x.evs.erasedRange (x.evs.erasedCount + 1) true) ready := by
    rw [same]
    rfl
  obtain ⟨link, store⟩ := offer_inFlight (s := ready) (by rw [same]; exact busy) .sto
    (erasedPayload x.evs.erasedRange (x.evs.erasedCount + 1) true)
  have frame := offer_others .sto (erasedPayload x.evs.erasedRange (x.evs.erasedCount + 1) true) ready
  have queues := offer_queues .sto (erasedPayload x.evs.erasedRange (x.evs.erasedCount + 1) true) ready
  rw [← offered] at link store frame queues
  obtain ⟨v, whole⟩ : ∃ v, offerErased true ready = v := ⟨_, rfl⟩
  rw [whole] at form link store frame queues
  refine ⟨_, form, ?_, ?_, fun room => ?_⟩
  · conv_lhs => rw [frame, link, same]
    rfl
  · conv_lhs => rw [store, same]
    rfl
  · obtain ⟨r, joins, _, _, _, kind, payload, _⟩ := queues.taken ((recordTaken_iff _).mpr
      ⟨by rw [same]; nofun, by rw [same]; exact room⟩)
    exact ⟨r, by rw [joins, same]; rfl, kind, payload⟩

/-! ## Outside the scan (R152, R155, R162) -/

section
variable {s : State} {sector : Nat} (flight : s.evs.activity = .erase sector)
  (outside : s.evs.state ≠ .scanning ∨ s.spm.abortPending = true)
include flight outside

/-- The state that a sector read back as erased leaves to what follows the completion. -/
theorem erase_freed : ∃ u, exec (.eraseComplete []) s = .next (completed u) ∧
    u = { s with tmb := u.tmb, evs := u.evs, hlk := u.hlk } ∧ u.hlk.inProgress = s.hlk.inProgress ∧
    (s.evs.state ≠ .erasingAll → u = sectorFreed sector s) ∧
    (s.evs.state = .erasingAll → u = frontAdvances (sectorFreed sector s)) := by
  have busy : (sectorFreed sector s).evs.activity ≠ .idle := by
    show (Evs.erased _ sector).activity ≠ _
    rw [Evs.erased_frame]
    show s.evs.activity ≠ _
    rw [flight]
    nofun
  have row := exec_erase_freed flight
  cases state : s.evs.state
  case erasingAll =>
    rw [state] at row
    refine ⟨_, row, ?_, ?_, fun h => absurd rfl h, fun _ => rfl⟩
    · by_cases more : (sectorFreed sector s).evs.erasedCount < 1023
      · rw [frontAdvances_further more]
        rfl
      · obtain ⟨u, done, frame, _⟩ := frontAdvances_ends busy (not_lt.mp more)
        rw [done]
        conv_lhs => rw [frame]
        rw [frame]
        rfl
    · by_cases more : (sectorFreed sector s).evs.erasedCount < 1023
      · rw [frontAdvances_further more]
        rfl
      · obtain ⟨u, done, frame, _⟩ := frontAdvances_ends busy (not_lt.mp more)
        rw [done, frame]
        rfl
  case scanning =>
    rw [state] at row
    rw [if_pos (outside.resolve_left (absurd state))] at row
    exact ⟨_, row, rfl, rfl, fun _ => rfl, nofun⟩
  all_goals
    rw [state] at row
    exact ⟨_, row, rfl, rfl, fun _ => rfl, nofun⟩

/-- The state that a sector with a residue leaves to what follows the completion. -/
theorem erase_stuck {offset : Nat} {b : Byte} (inside : sector < 1024) (within : offset < 4096) (listed : b ≠ 0xFF#8) :
    ∃ u, exec (.eraseComplete [(offset, b)]) s = .next (completed u) ∧
      (s.evs.state = .scanning → u = sectorStuck sector [(offset, b)] s) ∧
      (s.evs.state ≠ .scanning → Faulted (sectorStuck sector [(offset, b)] s) u "ERASE_FAILURE") := by
  have faults : Faulted (sectorStuck sector [(offset, b)] s) (enterFault "ERASE_FAILURE" (sectorStuck sector [(offset, b)] s))
      "ERASE_FAILURE" := enterFault_faults (by show s.evs.activity ≠ _; rw [flight]; nofun) _
  have row := exec_erase_stuck flight inside within listed
  cases state : s.evs.state
  case scanning =>
    rw [state] at row
    rw [if_pos (outside.resolve_left (absurd state))] at row
    exact ⟨_, row, fun _ => rfl, fun h => absurd rfl h⟩
  all_goals
    rw [state] at row
    exact ⟨_, row, nofun, fun _ => faults⟩

end

end Sys2Proof.Machine
end

section
/-! ERASE_COMPLETE, settled (O44). -/

namespace Sys2Proof.Machine

theorem completed_table {u : State} (plain : u.PlainCompletion) : TableChosen u.evs (completed u).evs := by
  rw [completed_plain plain]
  obtain ⟨choice⟩ := mediumChoice_table { u with evs := { u.evs with activity := .idle } }
  exact ⟨choice⟩

/-- Of the sector table a choice of the medium closes no sector that is ERASED, and in FAULT it changes nothing. -/
theorem TableChosen.condition {e f : Evs} (h : TableChosen e f) (n : Nat) :
    ((sectorAt e n).condition = .erased → (sectorAt f n).condition ≠ .closed) ∧ (e.state = .fault → f.sectors = e.sectors) := by
  obtain ⟨choice⟩ := h
  rcases choice with ⟨same, _⟩ | ⟨running, _, opens, _⟩
  · refine ⟨fun erased => ?_, fun _ => same⟩
    unfold sectorAt at erased ⊢
    rw [same, erased]
    nofun
  · refine ⟨fun erased => ?_, fun fault => absurd fault running⟩
    unfold sectorAt
    rw [opens]
    rcases openSector_condition e n with same | ⟨_, _, writing⟩ | writing
    · rw [same, erased]
      nofun
    · rw [writing]
      nofun
    · rw [erased] at writing
      cases writing

theorem sectorFreed_evs (sector : Nat) (s : State) : (sectorFreed sector s).evs = { s.evs with
    medium := s.evs.medium.eraseSector sector
    sectors := s.evs.sectors.set sector ⟨.erased, none, 0, []⟩
    due := if s.evs.due = some sector then none else s.evs.due
    oldest := (sectorFreed sector s).evs.oldest
    oldestSequence := (sectorFreed sector s).evs.oldestSequence } :=
  Evs.erased_frame { s.evs with medium := s.evs.medium.eraseSector sector } sector

section
variable {s : State} {sector : Nat} (flight : s.evs.activity = .erase sector) (plain : s.PlainCompletion)
  (sized : s.evs.sectors.length = 1024) (inside : sector < 1024) (outside : s.evs.state ≠ .scanning)
include flight plain sized inside outside

/-- With nothing but the next operation waiting, a sector that reads back as erased (R152, R162). -/
theorem erase_freed_plain : ∃ t, exec (.eraseComplete []) s = .next t ∧ t = { s with tmb := t.tmb, evs := t.evs, hlk := t.hlk } ∧
    (∀ a, t.evs.medium.read a = if a / 4096 = sector then 0xFF#8 else s.evs.medium.read a) ∧
    (sectorAt t.evs sector).first = none ∧ (sectorAt t.evs sector).valid = 0 ∧ (sectorAt t.evs sector).voids = [] ∧
    (sectorAt t.evs sector).condition ≠ .closed ∧ t.evs.lastStored = s.evs.lastStored ∧
    t.evs.lastCheck = s.evs.lastCheck ∧ t.evs.writePosition = s.evs.writePosition ∧
    (t.evs.oldest = (sectorFreed sector s).evs.oldest ∧ t.evs.oldestSequence = (sectorFreed sector s).evs.oldestSequence) ∧
    (s.evs.state ≠ .erasingAll → t.evs.state = s.evs.state ∧ t.evs.pwq = s.evs.pwq) ∧
    (s.evs.state = .erasingAll → s.evs.erasedCount < 1023 → t.evs.state = .erasingAll ∧ t.evs.pwq = s.evs.pwq ∧
      t.evs.erasedCount = s.evs.erasedCount + 1 ∧ t.evs.front = (s.evs.front + 1) % 1024) ∧
    (s.evs.state = .erasingAll → 1023 ≤ s.evs.erasedCount → s.evs.pwq.length < 32 → t.evs.state = .ready ∧
      t.evs.due = some ((s.evs.writePosition / 32 + 1) % 1024) ∧ ∃ x, t.evs.pwq = s.evs.pwq ++ [x] ∧ x.kind = .sto ∧
        x.payload = erasedPayload s.evs.erasedRange (s.evs.erasedCount + 1) true) := by
  obtain ⟨u, ends, frame, _, elsewhere, all⟩ := erase_freed flight (.inl outside)
  obtain ⟨x, freed⟩ : ∃ x, sectorFreed sector s = x := ⟨_, rfl⟩
  have xForm : x.evs = { s.evs with
      medium := s.evs.medium.eraseSector sector
      sectors := s.evs.sectors.set sector ⟨.erased, none, 0, []⟩
      due := if s.evs.due = some sector then none else s.evs.due
      oldest := x.evs.oldest
      oldestSequence := x.evs.oldestSequence } := by
    rw [← freed]
    exact sectorFreed_evs sector s
  have busy : x.evs.activity ≠ .idle := by rw [xForm]; show s.evs.activity ≠ _; rw [flight]; nofun
  rw [freed] at elsewhere all ⊢
  have common : u.evs = { x.evs with
      state := u.evs.state
      due := u.evs.due
      erasedCount := u.evs.erasedCount
      front := u.evs.front
      pwq := u.evs.pwq
      lastIssued := u.evs.lastIssued
      gapCount := u.evs.gapCount
      mode := u.evs.mode
      surveyDrops := u.evs.surveyDrops
      coldDrops := u.evs.coldDrops } := by
    by_cases erasing : s.evs.state = .erasingAll
    · rw [all erasing]
      by_cases more : x.evs.erasedCount < 1023
      · rw [frontAdvances_further more]
        rfl
      · obtain ⟨v, done, _, store, _⟩ := frontAdvances_ends busy (not_lt.mp more)
        rw [done, store]
        rfl
    · rw [elsewhere erasing]
  obtain ⟨t, chosen, frame', store', entries⟩ := completed_chooses (u := u) (by
    rw [frame, common, xForm]
    exact ⟨plain.ste, plain.commit, plain.committed, plain.abort⟩)
  have table : TableChosen u.evs t.evs := by
    rw [← chosen]
    exact completed_table (by
      rw [frame, common, xForm]
      exact ⟨plain.ste, plain.commit, plain.committed, plain.abort⟩)
  have entry : sectorAt u.evs sector = ⟨.erased, none, 0, []⟩ :=
    sectorAt_set_same (e := s.evs) (by rw [common, xForm]) (by omega)
  obtain ⟨first, valid, voids⟩ := entries sector
  rw [entry] at first valid voids
  have state : t.evs.state = u.evs.state := by rw [store']
  have queue : t.evs.pwq = u.evs.pwq := by rw [store']
  have count : t.evs.erasedCount = u.evs.erasedCount := by rw [store']
  have front : t.evs.front = u.evs.front := by rw [store']
  have old : x.evs.state = s.evs.state ∧ x.evs.pwq = s.evs.pwq ∧ x.evs.erasedCount = s.evs.erasedCount ∧
      x.evs.front = s.evs.front ∧ x.evs.writePosition = s.evs.writePosition ∧ x.evs.erasedRange = s.evs.erasedRange := by
    rw [xForm]
    exact ⟨rfl, rfl, rfl, rfl, rfl, rfl⟩
  obtain ⟨xState, xQueue, xCount, xFront, xPosition, xRange⟩ := old
  refine ⟨t, ends.trans (congrArg _ chosen), by rw [frame', frame], fun a => ?_, first, valid, voids,
    (table.condition sector).1 (by rw [entry]), ?_, ?_, ?_, ⟨?_, ?_⟩, fun other => ?_, fun erasing more => ?_, fun erasing last room => ?_⟩
  · have medium : t.evs.medium = s.evs.medium.eraseSector sector := by rw [store', common, xForm]
    rw [medium]
    exact Memory.read_eraseSector_any _ _ _
  · rw [store', common, xForm]
  · rw [store', common, xForm]
  · rw [store', common, xForm]
  · rw [store', common]
  · rw [store', common]
  · rw [state, queue, elsewhere other]
    exact ⟨xState, xQueue⟩
  · rw [state, queue, count, front, all erasing, frontAdvances_further (by rw [xCount]; exact more)]
    exact ⟨xState.trans erasing, xQueue, congrArg (· + 1) xCount, congrArg (fun n => (n + 1) % 1024) xFront⟩
  · obtain ⟨v, done, _, store, record⟩ := frontAdvances_ends busy (by rw [xCount]; exact last)
    have same : u = v := (all erasing).trans done
    rw [← same] at store record
    have due : u.evs.due = some ((s.evs.writePosition / 32 + 1) % 1024) := by
      rw [store, xPosition]
    have position : u.evs.writePosition = s.evs.writePosition := by rw [common, xPosition]
    rw [xQueue, xRange, xCount] at record
    refine ⟨by rw [state, store], ?_, by rw [queue]; exact record room⟩
    obtain ⟨choice⟩ := table
    rcases choice with ⟨_, kept⟩ | ⟨_, _, _, kept | next⟩
    · rw [kept, due]
    · rw [kept, due]
    · rw [next, position]

/-- With nothing but the next operation waiting, a sector that reads back with a residue (R152, R155). -/
theorem erase_stuck_plain {offset : Nat} {b : Byte} (within : offset < 4096) (listed : b ≠ 0xFF#8) :
    ∃ t, exec (.eraseComplete [(offset, b)]) s = .next t ∧
      t = { s with tmb := t.tmb, evs := t.evs, hlk := t.hlk } ∧ t.evs.medium.read (4096 * sector + offset) = b ∧
      (∀ a, a / 4096 ≠ sector → t.evs.medium.read a = s.evs.medium.read a) ∧ t.evs.state = .fault ∧
      (sectorAt t.evs sector).condition = .closed ∧ (sectorAt t.evs sector).first = (sectorAt s.evs sector).first ∧
      (sectorAt t.evs sector).valid = (sectorAt s.evs sector).valid ∧ t.evs.oldest = s.evs.oldest ∧
      t.evs.oldestSequence = s.evs.oldestSequence := by
  obtain ⟨u, ends, _, faults⟩ := erase_stuck flight (.inl outside) inside within listed
  obtain ⟨frame, _, _, store, _, _⟩ := faults outside
  have waits : u.PlainCompletion := by
    rw [frame, store]
    exact ⟨plain.ste, plain.commit, plain.committed, plain.abort⟩
  obtain ⟨t, chosen, frame', store', entries⟩ := completed_chooses waits
  have table : TableChosen u.evs t.evs := by
    rw [← chosen]
    exact completed_table waits
  have sectors : u.evs.sectors = s.evs.sectors.set sector { sectorAt s.evs sector with condition := .closed } := by rw [store]; rfl
  have entry : sectorAt u.evs sector = { sectorAt s.evs sector with condition := .closed } :=
    sectorAt_set_same (e := s.evs) sectors (by omega)
  have still : t.evs.sectors = u.evs.sectors := (table.condition sector).2 (by rw [store])
  have entry' : sectorAt t.evs sector = { sectorAt s.evs sector with condition := .closed } := by
    rw [← entry]
    unfold sectorAt
    rw [still]
  have medium : t.evs.medium = s.evs.medium.erasedLeaving sector [(offset, b)] := by rw [store', store]; rfl
  refine ⟨t, ends.trans (congrArg _ chosen), by rw [frame', frame]; rfl, ?_, fun a other => ?_, ?_, by rw [entry'], by rw [entry'],
    by rw [entry'], ?_, ?_⟩
  · rw [medium, Memory.read_residue inside within listed, if_pos rfl]
  · rw [medium, Memory.read_residue inside within listed, if_neg (by omega), if_neg other]
  · rw [store', store]
  · rw [store', store]
    rfl
  · rw [store', store]
    rfl

end

/-- The end of a scan after an erase within it: what is told and restored (R119, R120, R167, R180). -/
theorem endScan_afterErase (failed : Bool) {s h : State} (frame : h = { s with evs := h.evs }) (kept : h.evs = { s.evs with
    medium := h.evs.medium
    sectors := h.evs.sectors
    due := h.evs.due
    oldest := h.evs.oldest
    oldestSequence := h.evs.oldestSequence }) (queue : s.evs.pwq = []) : ∃ t, endScan failed h = t ∧
    t.spm.power = .run ∧ t.evs.state = stateAfterScan failed h.evs ∧ t.pins = s.pins ∧ t.pending = s.pending ∧
    t.evs.medium = h.evs.medium ∧ t.evs.oldest = h.evs.oldest ∧ t.evs.protectionStart = s.evs.protectionStart ∧
    (stateAfterScan failed h.evs = .fault → t.evs.sectors = h.evs.sectors) ∧
    (t.hlk.settings.mask = s.hlk.settings.mask ∨ s.hlk.transmitter ≠ .idle ∨ scanNotices (scanLeft failed h) = [] →
      Posts s t (scanNotices (scanLeft failed h) ++ surveyCut s.evs.recovery.survey (nextSequence s.evs) ++ [coldNotice s t])) ∧
    Restored s t s.evs.recovery.settings s.evs.recovery.measurement s.evs.recovery.survey ∧
    t.evd.counter = s.evd.counter ∧ t.evs.lastStored = s.evs.lastStored ∧ t.evs.lastCheck = s.evs.lastCheck ∧
    t.evs.writePosition = s.evs.writePosition ∧ t.evs.voidFound = s.evs.voidFound ∧
    t.evs.breaksFound = s.evs.breaksFound ∧
    ∃ x, t.evs.pwq.getLast? = some x ∧ x.kind = .pwr ∧ fieldAt x.payload 0 1 = 3 ∧ t.evs.lastIssued = some x.sequence ∧
      x.generation = t.svc.generation ∧
      x.payload = coldPayload (s.spm.coldReason.getD .powerUp) s.spm.abortedRestarts s.evs.voidFound s.evs.breaksFound
        t.evs.oldestSequence t.evs.lastStored t.svc.measuring t.svc.survey.state s.spm.backup := by
  have empty : h.evs.pwq = [] := by rw [kept]; exact queue
  obtain ⟨spm, pins, pending, store, counter, told, restored, record, _⟩ := endScan_ends failed empty
  obtain ⟨t, whole⟩ : ∃ t, endScan failed h = t := ⟨_, rfl⟩
  rw [whole] at spm pins pending store counter told restored record
  have found : h.evs.recovery = s.evs.recovery := by rw [kept]
  have next : nextSequence h.evs = nextSequence s.evs := by rw [kept]; rfl
  have link : h.hlk = s.hlk := by rw [frame]
  have power : h.spm = s.spm := by rw [frame]
  have svc : h.svc = s.svc := by rw [frame]
  have cyt : h.cyt = s.cyt := by rw [frame]
  have clock : h.tmb = s.tmb := by rw [frame]
  have notice : coldNotice h t = coldNotice s t := by
    unfold coldNotice reading
    rw [power, clock]
  have lost : h.evs.voidFound = s.evs.voidFound ∧ h.evs.breaksFound = s.evs.breaksFound := by
    rw [kept]
    exact ⟨rfl, rfl⟩
  obtain ⟨stored, _, _, fault⟩ := store
  rw [found, next, notice, link] at told
  rw [found] at restored
  rw [power, lost.1, lost.2] at record
  obtain ⟨x, last, kind, issued, generation, payload⟩ := record
  refine ⟨t, whole, by rw [spm]; rfl, by rw [stored]; rfl, by rw [pins, frame], by rw [pending, frame], by rw [stored]; rfl,
    by rw [stored]; rfl, ?_, fun down => fault down, fun together => (told together).of_links link.symm rfl,
    restored.of_like svc cyt ⟨by rw [clock], by rw [clock]⟩ fun _ => link, by rw [counter, frame], ?_, ?_, ?_, ?_, ?_,
    x, last, kind, ?_, issued, generation, payload⟩
  · rw [stored]
    show h.evs.protectionStart = _
    rw [kept]
  · rw [stored]
    show h.evs.lastStored = _
    rw [kept]
  · rw [stored]
    show h.evs.lastCheck = _
    rw [kept]
  · rw [stored]
    show h.evs.writePosition = _
    rw [kept]
  · rw [stored]
    exact lost.1
  · rw [stored]
    exact lost.2
  · rw [payload]
    rfl

/-- Settles O44. -/
theorem eraseCompletionFreesTheSector : Obligations.EraseCompletionFreesTheSector := by
  refine ⟨fun s sector flight sized inside outside => ⟨?_, fun offset b within listed => ?_⟩,
    fun s sector flight plain sized inside outside => ⟨?_, fun offset b within listed =>
      erase_stuck_plain flight plain sized.sectors inside outside within listed⟩,
    fun s sector flight scanning going queue due sized inside => ?_⟩
  · obtain ⟨u, ends, frame, progress, elsewhere, all⟩ := erase_freed flight outside
    refine ⟨u, ends, frame, progress, fun other => ?_, fun erasing => ?_⟩
    · rw [elsewhere other]
      have store := sectorFreed_evs sector s
      have whole : sectorFreed sector s = { s with evs := (sectorFreed sector s).evs } := rfl
      obtain ⟨x, freed⟩ : ∃ x, sectorFreed sector s = x := ⟨_, rfl⟩
      rw [freed] at store whole ⊢
      have medium : x.evs.medium = s.evs.medium.eraseSector sector := by rw [store]
      rw [medium]
      conv_lhs => rw [whole, store]
    · have store := sectorFreed_evs sector s
      have busy : (sectorFreed sector s).evs.activity ≠ .idle := by
        rw [store]
        show s.evs.activity ≠ _
        rw [flight]
        nofun
      have count : (sectorFreed sector s).evs.erasedCount = s.evs.erasedCount := by rw [store]
      have front : (sectorFreed sector s).evs.front = s.evs.front := by rw [store]
      have state : (sectorFreed sector s).evs.state = s.evs.state := by rw [store]
      rw [all erasing]
      by_cases more : s.evs.erasedCount < 1023
      · rw [frontAdvances_further (by rw [count]; exact more), if_pos more]
        exact ⟨congrArg (· + 1) count, congrArg (fun n => (n + 1) % 1024) front, state.trans erasing⟩
      · obtain ⟨v, done, _, store, _⟩ := frontAdvances_ends busy (by rw [count]; exact not_lt.mp more)
        rw [done, store, if_neg more]
        exact ⟨congrArg (· + 1) count, congrArg (fun n => (n + 1) % 1024) front, rfl⟩
  · obtain ⟨u, ends, scans, faults⟩ := erase_stuck flight outside inside within listed
    refine ⟨u, ends, ?_⟩
    by_cases scanning : s.evs.state = .scanning
    · rw [scans scanning]
      exact ⟨rfl, rfl, rfl, fun _ => ⟨scanning, rfl⟩, fun h => absurd scanning h⟩
    · obtain ⟨frame, progress, posts, store, _, _⟩ := faults scanning
      exact ⟨by rw [frame]; rfl, progress, by rw [store]; rfl, fun h => absurd h scanning, fun _ => ⟨by rw [store],
        posts.of_links rfl rfl⟩⟩
  · obtain ⟨t, ends, frame, medium, first, valid, voids, condition, lastStored, lastCheck, position, ⟨oldest, sequence⟩,
      elsewhere, further, ended⟩ := erase_freed_plain flight plain sized.sectors inside outside
    refine ⟨t, ends, frame, medium, first, valid, voids, condition, lastStored, lastCheck, position, ?_, elsewhere, further, ended⟩
    rw [oldest, sequence]
    split
    case isTrue here => exact Evs.erased_oldest (e := { s.evs with medium := s.evs.medium.eraseSector sector }) here
    case isFalse other => exact Evs.erased_elsewhere (e := { s.evs with medium := s.evs.medium.eraseSector sector }) other
  · intro told restores
    refine ⟨?_, fun offset b within listed => ?_⟩
    · have row := exec_erase_freed flight
      rw [scanning] at row
      dsimp only at row
      rw [if_neg (by rw [going]; nofun)] at row
      have form := sectorFreed_evs sector s
      obtain ⟨h, freed⟩ : ∃ h, sectorFreed sector s = h := ⟨_, rfl⟩
      have frame : h = { s with evs := h.evs } := by rw [← freed]; rfl
      rw [freed] at row form
      have medium : h.evs.medium = s.evs.medium.eraseSector sector := by rw [form]
      have ready : stateAfterScan false h.evs = .ready := by
        have none' : h.evs.due = none := by rw [form]; exact if_pos due
        refine (if_neg nofun).trans (if_neg fun held => ?_)
        unfold atHeldSector at held
        rw [none'] at held
        simp at held
      have quiet : scanNotices (scanLeft false h) = [] := by
        unfold scanNotices
        rw [show (scanLeft false h).evs.state = .ready from ready]
      obtain ⟨t, ends, power, state, pins, pending, kept, _, protection, _, posts, restored, counter, lastStored, lastCheck, position,
        voids, breaks, record⟩ := endScan_afterErase false frame (by rw [form]) queue
      rw [quiet] at posts
      refine ⟨t, row.trans (congrArg _ ends), power, state.trans ready, pins, pending, fun a => ?_, fun _ => ?_, protection,
        restored, counter, lastStored, lastCheck, position, voids, breaks, record⟩
      · rw [kept, medium]
        exact Memory.read_eraseSector_any _ _ _
      · exact posts (.inr (.inr rfl))
    · have row := exec_erase_stuck flight inside within listed
      rw [scanning] at row
      dsimp only at row
      rw [if_neg (by rw [going]; nofun)] at row
      have fault : stateAfterScan true (sectorStuck sector [(offset, b)] s).evs = .fault := if_pos rfl
      have stn : scanNotices (scanLeft true (sectorStuck sector [(offset, b)] s)) = [⟨.stn, ["ENTER".toList, "FAULT".toList,
          "ERASE_FAILURE".toList, num 0, num s.evs.coldDrops, timeText (reading s)]⟩] := by
        have zero : s.evs.pwq.length = 0 := by rw [queue]; rfl
        unfold scanNotices
        rw [show (scanLeft true (sectorStuck sector [(offset, b)] s)).evs.state = .fault from fault]
        dsimp only
        rw [← zero]
        rfl
      obtain ⟨t, ends, power, state, pins, pending, _, oldest, _, sectors, posts, restored⟩ :=
        endScan_afterErase true (s := s) (h := sectorStuck sector [(offset, b)] s) rfl rfl queue
      rw [stn] at posts
      refine ⟨t, row.trans (congrArg _ ends), power, state.trans fault, pins, pending, ?_, oldest, fun together => ?_, restored⟩
      · have entry : sectorAt t.evs sector = { sectorAt s.evs sector with condition := .closed } :=
          sectorAt_set_same (e := s.evs) (sectors fault) (by rw [sized.sectors]; exact inside)
        rw [entry]
      · exact posts (together.imp_right fun h => h.imp_right fun h => nomatch h)

end Sys2Proof.Machine
end

section
/-! The walk of a scan over the ring (R165). -/

namespace Sys2Proof.Machine

theorem recordKindOf_isSome (code : Nat) : (recordKindOf code).isSome = true ↔ ∃ k : RecordKind, code = k.code := by
  unfold recordKindOf
  rw [List.find?_isSome]
  constructor
  · rintro ⟨k, _, same⟩
    exact ⟨k, (beq_iff_eq.mp same).symm⟩
  · rintro ⟨k, rfl⟩
    exact ⟨k, by cases k <;> decide, beq_iff_eq.mpr rfl⟩

/-- A programmed slot is well formed: a kind, a quality, a length and flags within their lists and ranges (R165). -/
def WellFormed (m : Memory) (n : Nat) : Prop := (∃ k : RecordKind, fieldAt (m.slot n) 4 1 = k.code) ∧
  fieldAt (m.slot n) 6 1 ≤ 3 ∧ fieldAt (m.slot n) 7 1 ≤ 104 ∧ fieldAt (m.slot n) 5 1 ≤ 1

theorem slotWellFormed_iff (m : Memory) (n : Nat) : slotWellFormed (m.slot n) = true ↔ WellFormed m n := by
  unfold slotWellFormed WellFormed
  rw [Bool.and_eq_true, Bool.and_eq_true, Bool.and_eq_true, recordKindOf_isSome, decide_eq_true_eq, decide_eq_true_eq,
    decide_eq_true_eq, and_assoc, and_assoc]

/-! ## The anchor (R165) -/

/-- The better of two anchors: the one of lower sequence, the first of equals. -/
def anchorStep (m : Memory) (best : Option (Nat × Nat)) (n : Nat) : Option (Nat × Nat) :=
  if best.all (fun b => slotSequence (m.slot n) < b.1) then some (slotSequence (m.slot n), n) else best

/-- The best anchor of some slots is one of them, of the lowest sequence. -/
theorem foldl_anchorStep (m : Memory) (slots : List Nat) (q a : Nat) : ∃ q' a', slots.foldl (anchorStep m) (some (q, a)) = some (q', a') ∧
    (a' = a ∧ q' = q ∨ a' ∈ slots ∧ q' = slotSequence (m.slot a')) ∧ q' ≤ q ∧ ∀ n ∈ slots, q' ≤ slotSequence (m.slot n) := by
  induction slots generalizing q a with
  | nil => exact ⟨q, a, rfl, .inl ⟨rfl, rfl⟩, le_rfl, nofun⟩
  | cons n rest ih =>
    rw [List.foldl_cons]
    by_cases lower : slotSequence (m.slot n) < q
    · have step : anchorStep m (some (q, a)) n = some (slotSequence (m.slot n), n) := if_pos (by simpa using lower)
      obtain ⟨q', a', done, from', le, all⟩ := ih (slotSequence (m.slot n)) n
      refine ⟨q', a', by rw [step]; exact done, .inr ?_, by omega, fun k mem => ?_⟩
      · rcases from' with ⟨rfl, rfl⟩ | ⟨mem, same⟩
        · exact ⟨List.mem_cons_self .., rfl⟩
        · exact ⟨List.mem_cons_of_mem _ mem, same⟩
      · rcases List.mem_cons.mp mem with rfl | mem
        · exact le
        · exact all k mem
    · have step : anchorStep m (some (q, a)) n = some (q, a) := if_neg (by simpa using lower)
      obtain ⟨q', a', done, from', le, all⟩ := ih q a
      refine ⟨q', a', by rw [step]; exact done, from'.imp_right fun h => ⟨List.mem_cons_of_mem _ h.1, h.2⟩, le, fun k mem => ?_⟩
      rcases List.mem_cons.mp mem with rfl | mem
      · omega
      · exact all k mem

theorem anchorOf_none {m : Memory} {slots : List Nat} (none' : ∀ n ∈ slots, ¬ WellFormed m n) : anchorOf m slots = none := by
  have empty : slots.filter (fun n => slotWellFormed (m.slot n)) = [] :=
    List.filter_eq_nil_iff.mpr fun n mem formed => none' n mem ((slotWellFormed_iff m n).mp formed)
  unfold anchorOf
  rw [empty]
  rfl

/-- The walk begins at a well-formed slot of the lowest sequence (R165). -/
theorem anchorOf_lowest {m : Memory} {slots : List Nat} (some' : ∃ n ∈ slots, WellFormed m n) : ∃ a ∈ slots, WellFormed m a ∧
    (∀ n ∈ slots, WellFormed m n → slotSequence (m.slot a) ≤ slotSequence (m.slot n)) ∧ anchorOf m slots = some a := by
  have form : anchorOf m slots =
      ((slots.filter (fun n => slotWellFormed (m.slot n))).foldl (anchorStep m) none).map Prod.snd := rfl
  have mem_formed : ∀ n, n ∈ slots.filter (fun n => slotWellFormed (m.slot n)) ↔ n ∈ slots ∧ WellFormed m n := fun n => by
    rw [List.mem_filter, slotWellFormed_iff]
  cases formed : slots.filter (fun n => slotWellFormed (m.slot n)) with
  | nil =>
    obtain ⟨n, mem, well⟩ := some'
    have := (mem_formed n).mpr ⟨mem, well⟩
    rw [formed] at this
    cases this
  | cons n rest =>
    rw [formed] at form mem_formed
    obtain ⟨q', a', done, from', le, all⟩ := foldl_anchorStep m rest (slotSequence (m.slot n)) n
    have chosen : anchorOf m slots = some a' := by
      rw [form, List.foldl_cons]
      show (rest.foldl (anchorStep m) (some (slotSequence (m.slot n), n))).map Prod.snd = _
      rw [done]
      rfl
    have own : a' ∈ n :: rest ∧ q' = slotSequence (m.slot a') := by
      rcases from' with ⟨rfl, same⟩ | ⟨mem, same⟩
      · exact ⟨List.mem_cons_self .., same⟩
      · exact ⟨List.mem_cons_of_mem _ mem, same⟩
    obtain ⟨mem, well⟩ := (mem_formed a').mp own.1
    refine ⟨a', mem, well, fun k mem' well' => ?_, chosen⟩
    rw [← own.2]
    rcases List.mem_cons.mp ((mem_formed k).mpr ⟨mem', well'⟩) with rfl | later
    · exact le
    · exact all k later

/-! ## The walk (R165) -/

theorem walkRing_none {m : Memory} {slots : List Nat} (none' : ∀ n ∈ slots, ¬ WellFormed m n) :
    walkRing m slots = ⟨[], slots, 0, 0xFFFFFFFF#32, none⟩ := by
  unfold walkRing
  rw [anchorOf_none none']

theorem walkRing_from {m : Memory} {slots : List Nat} {a : Nat} (anchor : anchorOf m slots = some a) :
    walkRing m slots = (slots.filter (fun n => a < n) ++ slots.filter (fun n => n < a)).foldl (Walk.judge m)
      ⟨[a], [], 0, BitVec.ofNat 32 (fieldAt (m.slot a) 124 4), none⟩ := by
  unfold walkRing
  rw [anchor]
  rfl

section
variable {m : Memory} {w : Walk} {n : Nat}

theorem judge_malformed (form : ¬ WellFormed m n) :
    w.judge m n = { w with voids := n :: w.voids, voidCheck := some (BitVec.ofNat 32 (fieldAt (m.slot n) 124 4)) } :=
  if_pos (mt (slotWellFormed_iff m n).mp form)

theorem judge_formed (form : WellFormed m n) : w.judge m n =
    if slotCheck (m.slot n) = crc32 w.check ((m.slot n).take 124) then w.accept n (slotCheck (m.slot n)) 0
    else if w.voidCheck.any (fun preset => slotCheck (m.slot n) == crc32 preset ((m.slot n).take 124)) then
      w.accept n (slotCheck (m.slot n)) 1
    else w.reject n (slotCheck (m.slot n)) := if_neg (not_not.mpr ((slotWellFormed_iff m n).mpr form))

theorem voidChains_iff : w.voidCheck.any (fun preset => slotCheck (m.slot n) == crc32 preset ((m.slot n).take 124)) = true ↔
    ∃ v, w.voidCheck = some v ∧ slotCheck (m.slot n) = crc32 v ((m.slot n).take 124) := by
  rw [Option.any_iff_exists]
  simp only [beq_iff_eq]

end

/-! ## The sequences that the scan finds missing (R156) -/

/-- A sequence is missing where it lies between the sequences of two neighbours. -/
theorem missingRuns_any (sequences : List Nat) (q : Nat) : (missingRuns sequences).any (fun run => run.1 ≤ q && q ≤ run.2) = true ↔
    ∃ (i : Nat) (later earlier : Nat), sequences[i]? = some later ∧ sequences[i + 1]? = some earlier ∧ earlier < q ∧ q < later := by
  induction sequences with
  | nil => exact iff_of_false (by simp [missingRuns]) fun ⟨i, later, _, here, _⟩ => by simp at here
  | cons later rest ih =>
    cases rest with
    | nil => exact iff_of_false (by simp [missingRuns]) fun ⟨i, _, earlier, _, here, _⟩ => by simp at here
    | cons earlier more =>
      have split : (missingRuns (later :: earlier :: more)).any (fun run => run.1 ≤ q && q ≤ run.2) = true ↔
          (earlier < q ∧ q < later) ∨ (missingRuns (earlier :: more)).any (fun run => run.1 ≤ q && q ≤ run.2) = true := by
        have form : missingRuns (later :: earlier :: more) = if earlier + 1 < later then
            (earlier + 1, later - 1) :: missingRuns (earlier :: more) else missingRuns (earlier :: more) := rfl
        have inside (gap : earlier + 1 < later) : earlier + 1 ≤ q ∧ q ≤ later - 1 ↔ earlier < q ∧ q < later :=
          ⟨fun h => ⟨by omega, by omega⟩, fun h => ⟨by omega, by omega⟩⟩
        rw [form]
        by_cases gap : earlier + 1 < later
        · rw [if_pos gap, List.any_cons, Bool.or_eq_true, Bool.and_eq_true, decide_eq_true_eq, decide_eq_true_eq]
          exact or_congr_left (inside gap)
        · rw [if_neg gap]
          exact (or_iff_right (fun h => by omega)).symm
      rw [split, ih]
      constructor
      · rintro (between | ⟨i, x, y, first, second, between⟩)
        · exact ⟨0, later, earlier, rfl, rfl, between⟩
        · exact ⟨i + 1, x, y, first, second, between⟩
      · rintro ⟨i, x, y, first, second, between⟩
        cases i with
        | zero =>
          cases first
          cases second
          exact .inl between
        | succ i => exact .inr ⟨i, x, y, first, second, between⟩

end Sys2Proof.Machine
end

section
/-! What the scan finds of the ring: the slots, the sector table, the write position and the due erase (R166, R167). -/

namespace Sys2Proof.Machine

/-! ## The slots of a scan (R140) -/

theorem programmedSlots_mem {m : Memory} {n : Nat} (mem : n ∈ programmedSlots m) : ∃ c ∈ m, n = c.1 / 128 := by
  induction m with
  | nil => cases mem
  | cons c rest ih =>
    have later : n ∈ programmedSlots rest → ∃ d ∈ c :: rest, n = d.1 / 128 := fun h =>
      (ih h).imp fun d hd => ⟨List.mem_cons_of_mem c hd.1, hd.2⟩
    have here : n = c.1 / 128 → ∃ d ∈ c :: rest, n = d.1 / 128 := fun h => ⟨c, List.mem_cons_self .., h⟩
    unfold programmedSlots at mem
    split at mem
    case h_1 => exact here (List.mem_singleton.mp mem)
    case h_2 k more found =>
      rw [found] at later
      split at mem
      · exact later mem
      · rcases List.mem_cons.mp mem with first | mem
        · exact here first
        · exact later mem

theorem programmedSlots_lt {m : Memory} (canonical : m.wf = true) {n : Nat} (mem : n ∈ programmedSlots m) : n < 32768 := by
  obtain ⟨c, hc, rfl⟩ := programmedSlots_mem mem
  have inside : c.1 < 4194304 := (Memory.wfFrom_mem canonical hc).2.1
  omega

/-! ## The write position (R166) -/

/-- The write position follows the last programmed slot in the sector of the newest valid record, or begins the next sector. -/
theorem scannedWritePosition_follows (slots : List Nat) (newest : Nat) :
    let p := scannedWritePosition slots newest
    p / 32 = newest / 32 ∧ newest < p ∧ (∀ k ∈ slots, k / 32 = newest / 32 → k < p) ∧ (p - 1 = newest ∨ p - 1 ∈ slots) ∨
    p = 32 * ((newest / 32 + 1) % 1024) ∧ (newest % 32 = 31 ∨ 32 * (newest / 32) + 31 ∈ slots) := by
  intro p
  obtain ⟨mem, top⟩ := foldl_max_spec (slots.filter (fun n => sectorOf n = sectorOf newest)) newest
  obtain ⟨last, whole⟩ : ∃ last, (slots.filter (fun n => sectorOf n = sectorOf newest)).foldl max newest = last := ⟨_, rfl⟩
  have form : p = if sectorOf (last + 1) = sectorOf newest then last + 1 else 32 * nextSector (sectorOf newest) := by
    rw [← whole]
    rfl
  rw [whole] at mem top
  have above : newest ≤ last := top newest (List.mem_cons_self ..)
  have listed : last = newest ∨ last ∈ slots ∧ last / 32 = newest / 32 := by
    rcases List.mem_cons.mp mem with same | mem
    · exact .inl same
    · obtain ⟨inside, here⟩ := List.mem_filter.mp mem
      exact .inr ⟨inside, of_decide_eq_true here⟩
  have sector : last / 32 = newest / 32 := listed.elim (fun h => by rw [h]) fun h => h.2
  rw [form]
  unfold sectorOf nextSector
  split
  case isTrue room =>
    refine .inl ⟨room, by omega, fun k mem' same => ?_, ?_⟩
    · have := top k (List.mem_cons_of_mem _ (List.mem_filter.mpr ⟨mem', decide_eq_true same⟩))
      omega
    · exact listed.imp id And.left
  case isFalse full =>
    refine .inr ⟨rfl, ?_⟩
    rcases listed with same | ⟨mem', same⟩
    · exact .inl (by omega)
    · have final : last = 32 * (newest / 32) + 31 := by omega
      exact .inr (final ▸ mem')

/-! ## The sector table (R166) -/

theorem foldl_set_at (f : Nat → Sector) (sectors : List Nat) (table : List Sector) (n : Nat) (inside : n < table.length) :
    (sectors.foldl (fun table sector => table.set sector (f sector)) table)[n]? = if n ∈ sectors then some (f n) else table[n]? := by
  induction sectors generalizing table with
  | nil => rfl
  | cons k rest ih =>
    rw [List.foldl_cons, ih _ (by rw [List.length_set]; exact inside)]
    by_cases later : n ∈ rest
    · rw [if_pos later, if_pos (List.mem_cons_of_mem k later)]
    · rw [if_neg later]
      by_cases here : n = k
      · subst here
        rw [if_pos (List.mem_cons_self ..), List.getElem?_set_self inside]
      · rw [if_neg (by simp [here, later]), List.getElem?_set_ne (Ne.symm here)]

section
variable {m : Memory} {slots : List Nat} {w : Walk} {p n : Nat}

/-- A sector without a programmed slot has an empty entry. -/
theorem scannedSector_none (none' : ∀ k ∈ slots, k / 32 ≠ n) : scannedSector m slots w p n = Sector.empty := by
  have empty : slots.filter (fun k => sectorOf k = n) = [] := by
    rw [List.filter_eq_nil_iff]
    exact fun k mem here => none' k mem (of_decide_eq_true here)
  unfold scannedSector
  rw [empty]
  rfl

/-- The table holds the entry that the walk gives of each sector. -/
theorem scannedSectors_at (inside : ∀ k ∈ slots, k < 32768) :
    ((scannedSectors m slots w p)[n]?).getD Sector.empty = scannedSector m slots w p n := by
  by_cases small : n < 1024
  · have entry := foldl_set_at (scannedSector m slots w p) (slots.map sectorOf).dedup (List.replicate 1024 Sector.empty) n
      (by rw [List.length_replicate]; exact small)
    show (List.foldl _ _ _)[n]?.getD _ = _
    rw [entry]
    split
    case isTrue => rfl
    case isFalse outside =>
      rw [scannedSector_none fun k mem here => outside (List.mem_dedup.mpr (List.mem_map.mpr ⟨k, mem, here⟩)),
        List.getElem?_replicate, if_pos small]
      rfl
  · rw [List.getElem?_eq_none (by rw [scannedSectors_length]; omega),
      scannedSector_none fun k mem here => by have := inside k mem; omega]
    rfl

theorem scannedSector_erased : (scannedSector m slots w p n).condition = .erased ↔ ∀ k ∈ slots, k / 32 ≠ n := by
  refine ⟨fun erased k mem here => ?_, fun none' => by rw [scannedSector_none none']; rfl⟩
  have some' : slots.filter (fun k => sectorOf k = n) ≠ [] :=
    List.ne_nil_of_mem (List.mem_filter.mpr ⟨mem, decide_eq_true here⟩)
  unfold scannedSector at erased
  dsimp only at erased
  rw [if_neg some'] at erased
  split at erased <;> cases erased

/-- A sector that is not erased and does not hold the write position behind its first slot is CLOSED (log entry 16). -/
theorem scannedSector_closed (some' : ∃ k ∈ slots, k / 32 = n) (start : p % 32 = 0) :
    (scannedSector m slots w p n).condition = .closed := by
  obtain ⟨k, mem, here⟩ := some'
  have some' : slots.filter (fun k => sectorOf k = n) ≠ [] :=
    List.ne_nil_of_mem (List.mem_filter.mpr ⟨mem, decide_eq_true here⟩)
  unfold scannedSector
  dsimp only
  rw [if_neg some', if_neg fun h => h.2 start]

end

end Sys2Proof.Machine
end

section
/-! What a scan over a programmed medium hands over (R166, R167). -/

namespace Sys2Proof.Machine

theorem scanHanded_others (s : State) : scanHanded s = { s with evd := (scanHanded s).evd, evs := (scanHanded s).evs } := rfl

section
variable {s : State} {newest : Nat} {older : List Nat}

/-- The findings of a walk with valid records. -/
theorem scanHanded_found (valid : (walkRing s.evs.medium (programmedSlots s.evs.medium)).valid = newest :: older) :
    let m := s.evs.medium
    let slots := programmedSlots m
    let w := walkRing m slots
    (scanHanded s).evs = { s.evs with
      voidFound := w.voids.length
      breaksFound := w.breaks
      lastStored := some (slotSequence (m.slot newest))
      lastIssued := some (slotSequence (m.slot newest))
      lastCheck := w.check
      oldest := w.valid.getLast?
      oldestSequence := (w.valid.map (fun n => slotSequence (m.slot n))).getLast?
      missing := missingRuns (w.valid.map (fun n => slotSequence (m.slot n)))
      writePosition := scannedWritePosition slots newest
      sectors := scannedSectors m slots w (scannedWritePosition slots newest)
      recovery := ⟨newestOf m w.valid [.cfg], newestOf m w.valid [.mea], newestOf m w.valid [.svy, .vdt]⟩
      protectionStart := recoveredProtection (newestOf m w.valid [.svy, .vdt])
      due := (scanHanded s).evs.due } ∧
    (scanHanded s).evs.due = scannedDue (scanHanded s).evs ∧
    (scanHanded s).evd.counter = BitVec.ofNat 32 (fieldAt (m.slot newest) 8 4) := by
  intro m slots w
  have found : scanned s.evs slots w = { s.evs with
      voidFound := w.voids.length
      breaksFound := w.breaks
      lastStored := some (slotSequence (m.slot newest))
      lastIssued := some (slotSequence (m.slot newest))
      lastCheck := w.check
      oldest := w.valid.getLast?
      oldestSequence := (w.valid.map (fun n => slotSequence (m.slot n))).getLast?
      missing := missingRuns (w.valid.map (fun n => slotSequence (m.slot n)))
      writePosition := scannedWritePosition slots newest
      sectors := scannedSectors m slots w (scannedWritePosition slots newest) } := by
    unfold scanned
    rw [show w.valid = newest :: older from valid]
  have medium : (scanned s.evs slots w).medium = m := by rw [found]
  have handed : scanHanded s = handOverScan w { s with evs := scanned s.evs slots w } := rfl
  have counter : (scanHanded s).evd.counter = recoveredCounter (scanned s.evs slots w).medium w.valid := rfl
  refine ⟨?_, rfl, ?_⟩
  · rw [handed]
    unfold handOverScan
    dsimp only
    rw [medium, found]
  · rw [counter, medium, show w.valid = newest :: older from valid]
    rfl

/-- The protection start that the newest survey or verdict record gives (R120). -/
theorem recoveredProtection_bind (m : Memory) (valid : List Nat) :
    recoveredProtection (newestOf m valid [.svy, .vdt]) = (newestOf m valid [.svy, .vdt]).bind (fun r =>
      if r.kind = .vdt then some (fieldAt r.payload 1 4)
      else if fieldAt r.payload 0 1 = 1 then some r.sequence
      else none) := by
  cases found : newestOf m valid [.svy, .vdt] with
  | none => rfl
  | some r =>
    have kind : r.kind = .svy ∨ r.kind = .vdt := by
      have := List.find?_some found
      simpa using this
    unfold recoveredProtection
    rw [Option.bind_some]
    dsimp only
    by_cases verdict : r.kind = .vdt
    · rw [if_pos verdict, if_pos verdict]
    · have survey : r.kind = .svy := kind.resolve_right verdict
      rw [if_neg verdict, if_neg verdict]
      refine if_congr ?_ rfl rfl
      rw [isStart_iff]
      exact and_iff_right survey

/-- The erase due, from the programmed slots (R167, step 4). -/
theorem scannedDue_eq {e : Evs} {slots : List Nat}
    (table : ∀ n, (sectorAt e n).condition = .erased ↔ ∀ k ∈ slots, k / 32 ≠ n) : scannedDue e =
      if e.writePosition % 32 = 0 ∧ ∃ k ∈ slots, k / 32 = e.writePosition / 32 then some (e.writePosition / 32)
      else if ∃ k ∈ slots, k / 32 = (e.writePosition / 32 + 1) % 1024 then some ((e.writePosition / 32 + 1) % 1024)
      else none := by
  have holds : ∀ n, (sectorAt e n).condition ≠ .erased ↔ ∃ k ∈ slots, k / 32 = n := fun n => by
    rw [Ne, table, not_forall]
    simp
  unfold scannedDue sectorOf nextSector
  dsimp only
  exact if_congr (and_congr_right fun _ => holds _) rfl (if_congr (holds _) rfl rfl)

/-- The store is FULL exactly where the write position begins a due sector that is held. -/
theorem atHeldSector_scanned {e : Evs} {slots : List Nat} (due : e.due = scannedDue e)
    (table : ∀ n, (sectorAt e n).condition = .erased ↔ ∀ k ∈ slots, k / 32 ≠ n)
    (closed : ∀ n, (∃ k ∈ slots, k / 32 = n) → e.writePosition % 32 = 0 → (sectorAt e n).condition = .closed)
    (held : ∀ n, e.due = some n → eraseHeld e n = true) :
    atHeldSector e = true ↔ e.writePosition % 32 = 0 ∧ e.due = some (e.writePosition / 32) := by
  unfold atHeldSector sectorOf
  simp only [Bool.and_eq_true, beq_iff_eq, and_assoc]
  refine ⟨fun ⟨start, _, here, _⟩ => ⟨start, here⟩, fun ⟨start, here⟩ => ⟨start, ?_, here, held _ here⟩⟩
  refine closed _ ?_ start
  rw [due, scannedDue_eq table] at here
  split at here
  case isTrue own => exact own.2
  case isFalse =>
    split at here
    case isTrue =>
      have same := Option.some.inj here
      omega
    case isFalse => cases here

/-- After a scan, an erase within it or the end of the cold start leaves of the store what it found (R167, R180). -/
theorem exec_scan_frame (scan : s.evs.activity = .scan) (queue : s.evs.pwq = []) :
    ∃ t, exec .scanReadComplete s = .next t ∧
      StoreFrame { (scanHanded s).evs with state := t.evs.state } t.evs ∧ t.evd.counter = (scanHanded s).evd.counter ∧
      (∀ n, freeErase (scanHanded s).evs = some n → t = startErase n (scanHanded s)) ∧
      (freeErase (scanHanded s).evs = none → ScanEnded false (scanHanded s) t) := by
  have row : exec .scanReadComplete s = .next (scanDelivered s) := congrArg Host.Outcome.next (if_pos scan)
  have queue' : (scanHanded s).evs.pwq = [] := (scanned_medium _ _ _).2.trans queue
  rw [scanDelivered_eq] at row
  cases free : freeErase (scanHanded s).evs with
  | some n =>
    rw [free] at row
    exact ⟨_, row, ⟨rfl, fun _ => ⟨rfl, rfl, rfl⟩, fun _ _ h => h, fun _ => rfl⟩, rfl,
      fun k same => by rw [Option.some.inj same], nofun⟩
  | none =>
    rw [free] at row
    have ended := endScan_ends false queue'
    have store := ended.store
    have counter := ended.counter
    obtain ⟨t, whole⟩ : ∃ t, endScan false (scanHanded s) = t := ⟨_, rfl⟩
    rw [whole] at ended store counter
    rw [show endScan false (scanHanded s) = t from whole] at row
    have left : t.evs.state = stateAfterScan false (scanHanded s).evs := by rw [store.frame]; rfl
    refine ⟨t, row, ?_, counter, nofun, fun _ => ended⟩
    rw [left]
    exact ⟨store.frame, store.entries, store.erased, store.fault⟩

end

end Sys2Proof.Machine
end

section
/-! The end of a scan over a programmed medium (R119, R120, R165 to R167, R180). -/

namespace Sys2Proof.Machine

/-- The SVN notice of a survey that a cold start cuts short carries the sequence of the record at the head of the queue. -/
theorem surveyCut_head {survey : Option StoredRecord} {next : Nat} {t : State} :
    (∀ n, surveyCut survey n ≠ [] → t.evs.pwq.head?.map Record.sequence = some next) → surveyCut survey next = (match survey with
      | some r => if r.kind = .svy ∧ fieldAt r.payload 0 1 = 1 then [⟨.svn, [num r.sequence, "COLD".toList,
          "INCONCLUSIVE".toList, optText num (t.evs.pwq.head?.map Record.sequence)]⟩] else []
      | none => []) := by
  intro head
  cases survey with
  | none => rfl
  | some r =>
    unfold surveyCut at head ⊢
    dsimp only at head ⊢
    by_cases begun : r.kind = .svy ∧ fieldAt r.payload 0 1 = 1
    · simp only [if_pos begun] at head ⊢
      rw [head 0 nofun]
      rfl
    · simp only [if_neg begun]

section
variable {s : State} {newest : Nat} {older : List Nat}

theorem scan_overProgrammed (scan : s.evs.activity = .scan) (state : s.evs.state = .scanning) (queue : s.evs.pwq = [])
    (canonical : s.evs.medium.wf = true)
    (valid : (walkRing s.evs.medium (programmedSlots s.evs.medium)).valid = newest :: older) :
    let m := s.evs.medium
    let slots := programmedSlots m
    let w := walkRing m slots
    let number (n : Nat) : Nat := fieldAt (m.slot n) 0 4
    let found (kinds : List RecordKind) : Option StoredRecord :=
      (w.valid.filterMap (storedRecord m)).find? (fun r => kinds.contains r.kind)
    ∃ t, exec .scanReadComplete s = .next t ∧
      t.evs.lastStored = some (number newest) ∧ t.evs.lastCheck = w.check ∧ t.evs.oldest = w.valid.getLast? ∧
      t.evs.oldestSequence = w.valid.getLast?.map number ∧ t.evs.voidFound = w.voids.length ∧
      t.evs.breaksFound = w.breaks ∧ t.evd.counter = BitVec.ofNat 32 (fieldAt (m.slot newest) 8 4) ∧
      (∀ q, isMissing t.evs q = true ↔ ∃ (i : Nat) (later earlier : Nat), w.valid[i]? = some later ∧
        w.valid[i + 1]? = some earlier ∧ number earlier < q ∧ q < number later) ∧
      (let p := t.evs.writePosition
       p / 32 = newest / 32 ∧ newest < p ∧ (∀ k ∈ slots, k / 32 = newest / 32 → k < p) ∧ (p - 1 = newest ∨ p - 1 ∈ slots) ∨
       p = 32 * ((newest / 32 + 1) % 1024) ∧ (newest % 32 = 31 ∨ 32 * (newest / 32) + 31 ∈ slots)) ∧
      (∀ n, n < 1024 → ∀ (inside : List Nat), inside = slots.filter (fun k => k / 32 = n) →
        (sectorAt t.evs n).first = (inside.find? w.valid.contains).map number ∧
        (sectorAt t.evs n).valid = (inside.filter w.valid.contains).length ∧
        (sectorAt t.evs n).voids = (inside.filter w.voids.contains).map (fun k => k % 32) ∧
        (inside = [] → t.evs.writePosition / 32 ≠ n → (sectorAt t.evs n).condition = .erased)) ∧
      t.evs.protectionStart = (found [.svy, .vdt]).bind (fun r =>
        if r.kind = .vdt then some (fieldAt r.payload 1 4)
        else if fieldAt r.payload 0 1 = 1 then some r.sequence
        else none) ∧
      let sector := t.evs.writePosition / 32
      let next := (sector + 1) % 1024
      let due : Option Nat :=
        if t.evs.writePosition % 32 = 0 ∧ ∃ k ∈ slots, k / 32 = sector then some sector
        else if ∃ k ∈ slots, k / 32 = next then some next
        else none
      let held (n : Nat) : Prop := ∃ p f, t.evs.protectionStart = some p ∧ (sectorAt t.evs n).first = some f ∧
        0 < (sectorAt t.evs n).valid ∧ p ≤ f + (sectorAt t.evs n).valid - 1
      (∀ n, due = some n → ¬ held n → t.evs.activity = .erase n ∧ t.evs.state = s.evs.state ∧ t.spm = s.spm ∧ t.svc = s.svc) ∧
      ((∀ n, due = some n → held n) → t.spm.power = .run ∧
        t.evs.state = (if t.evs.writePosition % 32 = 0 ∧ due = some sector then .full else .ready) ∧
        Restored s t (found [.cfg]) (found [.mea]) (found [.svy, .vdt]) ∧
        (let entered : List Notice := if t.evs.state = .full then [⟨.stn, ["ENTER".toList, "FULL".toList,
           "PROTECTION".toList, num 0, num s.evs.coldDrops, timeText (reading s)]⟩] else []
         t.hlk.settings.mask = s.hlk.settings.mask ∨ s.hlk.transmitter ≠ .idle ∨ entered = [] → Posts s t (entered ++
           (match found [.svy, .vdt] with
             | some r => if r.kind = .svy ∧ fieldAt r.payload 0 1 = 1 then [⟨.svn, [num r.sequence, "COLD".toList,
                 "INCONCLUSIVE".toList, optText num (t.evs.pwq.head?.map Record.sequence)]⟩] else []
             | none => []) ++
           [⟨.pwn, ["COLD".toList, timeText (reading s), s.spm.backup.text, num t.evs.pwq.length,
             optText ColdReason.text s.spm.coldReason, num s.spm.abortedRestarts, optText num t.evs.lastIssued]⟩])) ∧
        ∃ x, t.evs.pwq.getLast? = some x ∧ x.kind = .pwr ∧ t.evs.lastIssued = some x.sequence ∧
          x.generation = t.svc.generation ∧
          x.payload = coldPayload (s.spm.coldReason.getD .powerUp) s.spm.abortedRestarts w.voids.length w.breaks
            t.evs.oldestSequence t.evs.lastStored t.svc.measuring t.svc.survey.state s.spm.backup) := by
  intro m slots w number found
  obtain ⟨evs, due, counter⟩ := scanHanded_found valid
  obtain ⟨t, row, frame, counter', erases, ends⟩ := exec_scan_frame scan queue
  have others := scanHanded_others s
  obtain ⟨h, handed⟩ : ∃ h, scanHanded s = h := ⟨_, rfl⟩
  rw [handed] at evs due counter frame counter' erases ends others
  have inside : ∀ k ∈ slots, k < 32768 := fun k mem => programmedSlots_lt canonical mem
  have position : t.evs.writePosition = h.evs.writePosition := by rw [frame.frame]
  have protection : t.evs.protectionStart = h.evs.protectionStart := by rw [frame.frame]
  have entry : ∀ n, sectorAt h.evs n = scannedSector m slots w (scannedWritePosition slots newest) n := fun n => by
    rw [evs]
    exact scannedSectors_at inside
  have entries : ∀ n, (sectorAt t.evs n).first = (sectorAt h.evs n).first ∧ (sectorAt t.evs n).valid = (sectorAt h.evs n).valid ∧
      (sectorAt t.evs n).voids = (sectorAt h.evs n).voids := frame.entries
  have erased : ∀ n, (sectorAt h.evs n).condition = .erased ↔ ∀ k ∈ slots, k / 32 ≠ n := fun n => by
    rw [entry]
    exact scannedSector_erased
  have closed : ∀ n, (∃ k ∈ slots, k / 32 = n) → h.evs.writePosition % 32 = 0 → (sectorAt h.evs n).condition = .closed :=
    fun n some' start => by
      rw [entry]
      rw [evs] at start
      exact scannedSector_closed some' start
  have state' : h.evs.state = .scanning := by rw [evs]; exact state
  refine ⟨t, row, by rw [frame.frame, evs]; rfl, by rw [frame.frame, evs], by rw [frame.frame, evs], ?_,
    by rw [frame.frame, evs], by rw [frame.frame, evs], counter'.trans counter, fun q => ?_, ?_, ?_, ?_, ?_⟩
  · rw [frame.frame, evs]
    exact List.getLast?_map
  · have runs : t.evs.missing = missingRuns (w.valid.map number) := by
      rw [frame.frame, evs]
      rfl
    unfold isMissing
    rw [runs, missingRuns_any]
    constructor
    · rintro ⟨i, x, y, first, second, low, high⟩
      rw [List.getElem?_map, Option.map_eq_some_iff] at first second
      obtain ⟨later, here, rfl⟩ := first
      obtain ⟨earlier, there, rfl⟩ := second
      exact ⟨i, later, earlier, here, there, low, high⟩
    · rintro ⟨i, later, earlier, first, second, low, high⟩
      exact ⟨i, number later, number earlier, by rw [List.getElem?_map, first]; rfl, by rw [List.getElem?_map, second]; rfl,
        low, high⟩
  · rw [frame.frame, evs]
    exact scannedWritePosition_follows slots newest
  · rintro n small _ rfl
    obtain ⟨first, valid', voids⟩ := entries n
    rw [first, valid', voids, entry]
    refine ⟨?_, rfl, rfl, fun none' away => ?_⟩
    · show Option.map _ (List.head? (List.filter _ _)) = _
      rw [List.head?_filter]
      rfl
    · refine frame.erased n (by rw [position] at away; exact Ne.symm away) ((erased n).mpr fun k mem here => ?_)
      exact List.filter_eq_nil_iff.mp none' k mem (decide_eq_true here)
  · rw [protection, evs]
    exact recoveredProtection_bind m w.valid
  · intro sector next due' held
    have dueSame : h.evs.due = due' := by
      show _ = if t.evs.writePosition % 32 = 0 ∧ ∃ k ∈ slots, k / 32 = t.evs.writePosition / 32 then _ else _
      rw [due, scannedDue_eq erased, ← position]
    have isHeld : ∀ n, eraseHeld h.evs n = true ↔ held n := fun n => by
      obtain ⟨first, valid', _⟩ := entries n
      show _ ↔ ∃ p f, t.evs.protectionStart = some p ∧ (sectorAt t.evs n).first = some f ∧
        0 < (sectorAt t.evs n).valid ∧ p ≤ f + (sectorAt t.evs n).valid - 1
      rw [eraseHeld_iff, protection, first, valid']
    refine ⟨fun n begins free => ?_, fun holds => ?_⟩
    · have := erases n ((freeErase_iff _ n).mpr ⟨dueSame.trans begins, Bool.eq_false_iff.mpr fun stays => free ((isHeld n).mp stays),
        by rw [state']; nofun⟩)
      rw [this]
      exact ⟨rfl, state'.trans state.symm, by rw [others]; rfl, by rw [others]; rfl⟩
    · have quiet : freeErase h.evs = none := by
        cases free : freeErase h.evs with
        | none => rfl
        | some n =>
          obtain ⟨begins, loose, _⟩ := (freeErase_iff _ n).mp free
          rw [(isHeld n).mpr (holds n (dueSame.symm.trans begins))] at loose
          cases loose
      obtain ⟨spm, _, _, store, _, told, restored, record, cut⟩ := ends quiet
      have spm' : h.spm = s.spm := by rw [others]
      have link : h.hlk = s.hlk := by rw [others]
      have clock : h.tmb = s.tmb := by rw [others]
      have recovery : h.evs.recovery = ⟨found [.cfg], found [.mea], found [.svy, .vdt]⟩ := by rw [evs]; rfl
      have lost : h.evs.voidFound = w.voids.length ∧ h.evs.breaksFound = w.breaks := by
        rw [evs]
        exact ⟨rfl, rfl⟩
      rw [recovery] at told restored cut
      rw [spm', lost.1, lost.2] at record
      have full := atHeldSector_scanned due erased closed (fun n begins => (isHeld n).mpr (holds n (dueSame.symm.trans begins)))
      rw [dueSame, ← position] at full
      have state'' : t.evs.state = stateAfterScan false h.evs := by rw [store.frame]; rfl
      have judged : t.evs.state = if t.evs.writePosition % 32 = 0 ∧ due' = some sector then .full else .ready := by
        rw [state'']
        exact (if_neg nofun).trans (if_congr full rfl rfl)
      have notice : coldNotice h t = coldNotice s t := by
        unfold coldNotice Machine.reading
        rw [spm', clock]
      have entered : scanNotices (scanLeft false h) = if t.evs.state = .full then [⟨.stn, ["ENTER".toList, "FULL".toList,
          "PROTECTION".toList, num 0, num s.evs.coldDrops, timeText (reading s)]⟩] else [] := by
        have left : (scanLeft false h).evs.state = t.evs.state := state''.symm
        have texts : num (scanLeft false h).evs.pwq.length = num 0 ∧ num (scanLeft false h).evs.coldDrops = num s.evs.coldDrops ∧
            reading (scanLeft false h) = reading s := by
          refine ⟨?_, ?_, ?_⟩
          · show num h.evs.pwq.length = _
            rw [evs]
            show num s.evs.pwq.length = _
            rw [queue]
            rfl
          · show num h.evs.coldDrops = _
            rw [evs]
          · show h.tmb.handedOut = s.tmb.handedOut
            rw [clock]
        unfold scanNotices
        rw [left, texts.1, texts.2.1, texts.2.2, judged]
        by_cases isFull : t.evs.writePosition % 32 = 0 ∧ due' = some sector
        · rw [if_pos isFull, if_pos rfl]
        · rw [if_neg isFull, if_neg nofun]
      refine ⟨by rw [spm]; rfl, judged, restored.of_like (by rw [others]) (by rw [others]) ⟨by rw [clock], by rw [clock]⟩
        fun _ => link, ?_, record⟩
      rw [link, entered, notice, surveyCut_head cut] at told
      dsimp only at told
      exact fun together => (told together).of_links link.symm rfl

end

end Sys2Proof.Machine
end

section
/-! SCAN_READ_COMPLETE (R165 to R167, R180). -/

namespace Sys2Proof.Machine

/-! ## What the end of a scan leaves (R140, R180) -/

/-- The pins, the queue of commands and the medium are as they were. -/
structure KeepsWorld (s t : State) : Prop where
  pins : t.pins = s.pins
  pending : t.pending = s.pending
  medium : t.evs.medium = s.evs.medium

theorem KeepsWorld.trans {s t u : State} (h : KeepsWorld s t) (k : KeepsWorld t u) : KeepsWorld s u :=
  ⟨k.pins.trans h.pins, k.pending.trans h.pending, k.medium.trans h.medium⟩

theorem mediumChoice_world (s : State) : KeepsWorld s (mediumChoice s) := by
  obtain ⟨others, store, _⟩ := mediumChoice_chooses s
  exact ⟨by rw [others], by rw [others], by rw [store]⟩

theorem offer_world (kind : RecordKind) (payload : List Byte) (s : State) : KeepsWorld s (offer kind payload s) :=
  ⟨by rw [offer_others], by rw [offer_others], (offer_queues kind payload s).medium⟩

theorem announceCold_world (s : State) : KeepsWorld s (announceCold s) := by
  refine (offer_world .pwr (coldRecord s) s).trans ?_
  unfold announceCold
  exact ⟨by rw [postPower_others], by rw [postPower_others], by rw [postPower_others]⟩

theorem recoverSurvey_world (s : State) : KeepsWorld s (recoverSurvey s) := by
  have concluded : ∀ u : State, KeepsWorld u (concludeSurvey .cold .aborted u) := fun u =>
    ⟨by rw [concludeSurvey_others], by rw [concludeSurvey_others], (concludeSurvey_queues .cold .aborted u).medium⟩
  unfold recoverSurvey
  split
  · dsimp only
    split
    · exact ⟨rfl, rfl, rfl⟩
    · split
      case isTrue r _ _ _ =>
        obtain ⟨pins, pending, medium⟩ := concluded { s with svc := { s.svc with survey := contextOfStart r } }
        exact ⟨pins, pending, medium⟩
      case isFalse => exact ⟨rfl, rfl, rfl⟩
  · exact ⟨rfl, rfl, rfl⟩

theorem endScan_world (failed : Bool) (h : State) : KeepsWorld h (endScan failed h) ∧ (endScan failed h).spm.power = .run := by
  have told : KeepsWorld h (postScanState (scanLeft failed h)) := by
    obtain ⟨frame, _⟩ := postScanState_posts (scanLeft failed h)
    exact ⟨by rw [frame]; rfl, by rw [frame]; rfl, by rw [frame]; rfl⟩
  rw [endScan_eq]
  obtain ⟨p, whole⟩ : ∃ p, postScanState (scanLeft failed h) = p := ⟨_, rfl⟩
  rw [whole] at told ⊢
  have restored : KeepsWorld p (restore p) := ⟨rfl, rfl, rfl⟩
  have recovered := restored.trans (recoverSurvey_world (restore p))
  have announced := recovered.trans (announceCold_world (recoverSurvey (restore p)))
  have runs : KeepsWorld (announceCold (recoverSurvey (restore p))) (finishColdStart p) := ⟨rfl, rfl, rfl⟩
  have spm : (mediumChoice (finishColdStart p)).spm = (finishColdStart p).spm := by rw [(mediumChoice_chooses _).others]
  exact ⟨((told.trans announced).trans runs).trans (mediumChoice_world _), by rw [spm]; rfl⟩

theorem scan_keepsWorld {s : State} (scan : s.evs.activity = .scan) : ∃ t, exec .scanReadComplete s = .next t ∧
    t.evs.medium = s.evs.medium ∧ t.pins = s.pins ∧ t.pending = s.pending ∧
    (t.spm.power = .run ∨ (∃ n, t.evs.activity = .erase n) ∧ t.spm = s.spm ∧ t.evs.state = s.evs.state) := by
  have row : exec .scanReadComplete s = .next (scanDelivered s) := congrArg Host.Outcome.next (if_pos scan)
  have state : (scanHanded s).evs.state = s.evs.state := by
    show (scanned _ _ _).state = _
    unfold scanned
    dsimp only
    split <;> rfl
  have handed : KeepsWorld s (scanHanded s) := ⟨rfl, rfl, (scanned_medium _ _ _).1⟩
  rw [scanDelivered_eq] at row
  cases free : freeErase (scanHanded s).evs with
  | some n =>
    rw [free] at row
    exact ⟨_, row, handed.medium, handed.pins, handed.pending, .inr ⟨⟨n, rfl⟩, rfl, state⟩⟩
  | none =>
    rw [free] at row
    obtain ⟨ended, power⟩ := endScan_world false (scanHanded s)
    obtain ⟨pins, pending, medium⟩ := handed.trans ended
    exact ⟨_, row, medium, pins, pending, .inl power⟩

/-! ## Over an erased medium (R166, R180) -/

/-- A record taken by a ready store whose medium is idle, with nothing due and nothing waiting, is programmed at once. -/
theorem offer_programs {s : State} (takes : recordTaken s = true) (kind : RecordKind) (payload : List Byte)
    (usable : mediumUsable s = true) (ready : s.evs.state = .ready) (empty : s.evs.pwq = []) (none' : s.evs.due = none)
    (quiet : s.evs.waitingRead = none) (opens : (sectorAt s.evs (s.evs.writePosition / 32)).condition ≠ .closed) :
    ∃ x, (offer kind payload s).evs.pwq = [x] ∧ x.sequence = nextSequence s.evs ∧
      (offer kind payload s).evs.activity =
        .program s.evs.writePosition (x.image (x.check s.evs.lastCheck)) (x.check s.evs.lastCheck) := by
  obtain ⟨x, record⟩ : ∃ x, completeRecord kind payload (reading s) s.tmb.quality s = x := ⟨_, rfl⟩
  have form := offer_taken takes kind payload
  rw [record] at form
  obtain ⟨u, queued⟩ : ∃ u : State, { s with tmb := s.tmb.afterReading, evs := s.evs.queued x } = u := ⟨_, rfl⟩
  rw [queued] at form
  have queue : u.evs.pwq = [x] := by
    rw [← queued]
    show s.evs.pwq ++ [x] = _
    rw [empty]
    rfl
  have free : freeErase u.evs = none := by
    cases found : freeErase u.evs with
    | none => rfl
    | some n =>
      have due := ((freeErase_iff _ n).mp found).1
      rw [← queued] at due
      cases none'.symm.trans due
  have programs : canProgram u.evs = true := by
    rw [canProgram_iff, queue, ← queued]
    exact ⟨by rw [show (s.evs.queued x).state = .ready from ready]; nofun, nofun, opens⟩
  have rests : startableRead u = none := by
    have waits : u.evs.waitingRead = none := by rw [← queued]; exact quiet
    unfold startableRead
    split
    · rfl
    · exact waits
  have usable' : mediumUsable u = true := by
    rw [mediumUsable_iff] at usable ⊢
    rw [← queued]
    exact usable
  have ready' : u.evs.state = .ready := by rw [← queued]; exact ready
  have begun := startProgram_begins queue
  rw [form, mediumChoice_ordinary usable' (.inl ready'), ordinaryChoice_programs free programs (.inr rests), begun.whole]
  refine ⟨x, queue, by rw [← record]; rfl, ?_⟩
  rw [← queued]
  rfl

/-- Over an erased medium the scan finds nothing. -/
theorem scanHanded_erased {s : State} (cold : s.evs = { Evs.cold [] with activity := .scan }) : scanHanded s = { s with
    evd := { s.evd with counter := 0 } } := by
  have medium : s.evs.medium = [] := by rw [cold]; rfl
  have found : scanned s.evs [] (walkRing [] []) = s.evs := by
    rw [cold]
    rfl
  have kept : { s.evs with
      recovery := (⟨none, none, none⟩ : Recovery)
      protectionStart := none } = s.evs := by
    rw [cold]
    rfl
  have due : scannedDue s.evs = none := by
    rw [cold]
    rfl
  have none' : s.evs.due = none := by
    rw [cold]
    rfl
  unfold scanHanded
  rw [medium]
  show handOverScan (walkRing [] []) { s with evs := scanned s.evs [] (walkRing [] []) } = _
  rw [found]
  show ({ s with
    evd := { s.evd with counter := 0 }
    evs := { { s.evs with recovery := (⟨none, none, none⟩ : Recovery), protectionStart := none } with
      due := scannedDue { s.evs with recovery := (⟨none, none, none⟩ : Recovery), protectionStart := none } } } : State) = _
  rw [kept, due, ← none']

/-- The store at the end of a scan over an erased medium: the COLD record, number 1, is in its queue and being programmed. -/
theorem endScan_programs {s : State} (cold : s.evs = { Evs.cold [] with activity := .scan }) (power : s.spm.power = .starting)
    (kind : s.spm.startKind = some .cold) (going : s.spm.abortPending = false) :
    ∃ x, (endScan false s).evs.pwq = [x] ∧ x.sequence = 1 ∧
      (endScan false s).evs.activity = .program 0 (x.image (x.check 0xFFFFFFFF#32)) (x.check 0xFFFFFFFF#32) := by
  have left : (scanLeft false s).evs = { Evs.cold [] with state := .ready } := by
    show { s.evs with activity := .idle, state := stateAfterScan false s.evs } = _
    rw [cold]
    rfl
  have quiet : scanNotices (scanLeft false s) = [] := by
    unfold scanNotices
    rw [left]
  have told : postScanState (scanLeft false s) = scanLeft false s := (postScanState_posts _).2.2.2.2.2.2 quiet
  obtain ⟨r, restored⟩ : ∃ r, restore (scanLeft false s) = r := ⟨_, rfl⟩
  have evs : r.evs = { Evs.cold [] with state := .ready } := by rw [← restored]; exact left
  have spm : r.spm = s.spm := by rw [← restored]; rfl
  have recovered : recoverSurvey r = r := by
    unfold recoverSurvey
    rw [evs]
    rfl
  have usable : mediumUsable r = true := (mediumUsable_iff r).mpr (by
    rw [evs, spm]
    exact ⟨rfl, going, .inr (.inr ⟨power, kind, nofun⟩)⟩)
  have takes : recordTaken r = true := (recordTaken_iff r).mpr (by rw [evs]; exact ⟨nofun, by decide⟩)
  obtain ⟨x, queue, sequence, programs⟩ := offer_programs takes .pwr (coldRecord r) usable (by rw [evs]) (by rw [evs]; rfl) (by rw [evs]; rfl)
    (by rw [evs]; rfl) (by rw [evs]; decide)
  have position : r.evs.writePosition = 0 := by rw [evs]; rfl
  have preset : r.evs.lastCheck = 0xFFFFFFFF#32 := by rw [evs]; rfl
  rw [position, preset] at programs
  have announced : (runAfterCold (announceCold r)).evs = (offer .pwr (coldRecord r) r).evs := by
    show (announceCold r).evs = _
    unfold announceCold
    rw [postPower_others]
  have busy : mediumUsable (runAfterCold (announceCold r)) = false := by
    rw [Bool.eq_false_iff, Ne, mediumUsable_iff, announced, programs]
    exact fun h => nomatch h.1
  have whole : endScan false s = runAfterCold (announceCold r) := by
    rw [endScan_eq, told]
    unfold finishColdStart
    rw [restored, recovered, mediumChoice_busy busy]
  rw [whole, announced]
  exact ⟨x, queue, sequence.trans (by rw [evs]; rfl), programs⟩

theorem scan_overErased (s : State) (reason : ColdReason) (cold : s.evs = { Evs.cold [] with activity := .scan })
    (power : s.spm.power = .starting) (starts : s.spm.startKind = some .cold) (because : s.spm.coldReason = some reason) (going : s.spm.abortPending = false) :
    ∃ t x, exec .scanReadComplete s = .next t ∧ t.spm.power = .run ∧ t.spm.abortedRestarts = 0 ∧ t.spm.coldReason = none ∧
      t.evs.state = .ready ∧ t.evs.pwq = [x] ∧ t.evs.lastIssued = some 1 ∧ t.evs.lastStored = none ∧ t.evs.oldest = none ∧
      t.evs.writePosition = 0 ∧ t.evs.protectionStart = none ∧ t.evs.activity = .program 0 (x.image (x.check 0xFFFFFFFF#32))
        (x.check 0xFFFFFFFF#32) ∧
      x.sequence = 1 ∧ x.kind = .pwr ∧ x.generation = 0#16 ∧
      x.payload = coldPayload reason s.spm.abortedRestarts 0 0 none none false s.svc.survey.state s.spm.backup ∧
      t.svc.active = Settings.default ∧ t.svc.generation = 0#16 ∧ t.svc.staged = [] ∧ t.svc.measuring = false ∧
      t.evd.counter = 0#32 ∧ t.tmb.enabled = s.tmb.enabled ∧
      Posts s t [⟨.pwn, ["COLD".toList, timeText (reading s), s.spm.backup.text, num 1, reason.text,
        num s.spm.abortedRestarts, num 1]⟩] := by
  have row : exec .scanReadComplete s = .next (scanDelivered s) :=
    congrArg Host.Outcome.next (if_pos (by rw [cold]))
  have handed := scanHanded_erased cold
  obtain ⟨h, whole⟩ : ∃ h, scanHanded s = h := ⟨_, rfl⟩
  rw [scanDelivered_eq, whole] at row
  rw [whole] at handed
  have evs : h.evs = { Evs.cold [] with activity := .scan } := by rw [handed]; exact cold
  have free : freeErase h.evs = none := by rw [evs]; rfl
  rw [free] at row
  obtain ⟨x, queue, sequence, programs⟩ := endScan_programs evs (by rw [handed]; exact power) (by rw [handed]; exact starts)
    (by rw [handed]; exact going)
  have ended := endScan_ends false (h := h) (by rw [evs]; rfl)
  obtain ⟨t, ends⟩ : ∃ t, endScan false h = t := ⟨_, rfl⟩
  rw [ends] at queue programs ended
  replace row : exec .scanReadComplete s = .next t := by rw [row, ← ends]
  obtain ⟨spm, _, _, store, counter, told, restored, ⟨y, last, kind, issued, generation, payload⟩, _⟩ := ended
  have spm' : h.spm = s.spm := by rw [handed]
  have left : (scanLeft false h).evs = { Evs.cold [] with state := .ready } := by
    show { h.evs with activity := .idle, state := stateAfterScan false h.evs } = _
    rw [evs]
    rfl
  have quiet : scanNotices (scanLeft false h) = [] := by
    unfold scanNotices
    rw [left]
  have recovery : h.evs.recovery = ⟨none, none, none⟩ := by rw [evs]; rfl
  have kept := store.frame
  rw [left] at kept
  have same : y = x := by
    rw [queue] at last
    exact (Option.some.inj last).symm
  subst same
  rw [recovery] at told restored
  rw [spm', because] at payload
  have silent := told (.inr (.inr quiet))
  have notice : coldNotice h t = ⟨.pwn, ["COLD".toList, timeText (reading s), s.spm.backup.text, num 1, reason.text,
      num s.spm.abortedRestarts, num 1]⟩ := by
    unfold coldNotice Machine.reading
    rw [spm', because, queue, issued, sequence, handed]
    rfl
  rw [quiet, notice] at silent
  have survey : t.svc.survey = s.svc.survey := by
    rw [restored.survey.1, handed]
  have measuring : t.svc.measuring = false := restored.measuring
  have oldest : t.evs.oldestSequence = none ∧ t.evs.lastStored = none := by
    rw [kept]
    exact ⟨rfl, rfl⟩
  have found : h.evs.voidFound = 0 ∧ h.evs.breaksFound = 0 := by
    rw [evs]
    exact ⟨rfl, rfl⟩
  rw [found.1, found.2, oldest.1, oldest.2, measuring, survey] at payload
  have enabled : t.tmb.enabled = s.tmb.enabled := by
    rw [(restored.noReference rfl).1, handed]
  refine ⟨t, y, row, by rw [spm]; rfl, by rw [spm], by rw [spm]; rfl, by rw [kept], queue, by rw [issued, sequence],
    by rw [kept]; rfl, by rw [kept]; rfl, by rw [kept]; rfl, by rw [kept]; rfl, programs, sequence, kind,
    generation.trans restored.generation, payload, restored.active, restored.generation, restored.staged, measuring,
    by rw [counter, handed]; rfl, enabled, ?_⟩
  exact silent.of_links (by rw [handed]) rfl

/-- Settles O47. -/
theorem scanEndsTheColdStart : Obligations.ScanEndsTheColdStart := by
  refine ⟨fun s scan => scan_keepsWorld scan, fun s reason cold power starts because going =>
    scan_overErased s reason cold power starts because going, fun m slots => ?_, fun s newest older scan state queue _ canonical => ?_⟩
  case refine_2 =>
    intro m slots w number found valid
    exact scan_overProgrammed scan state queue canonical valid
  intro formed
  refine ⟨fun none' => walkRing_none none', fun some' => ?_, fun w n => ?_⟩
  · obtain ⟨a, mem, well, lowest, anchor⟩ := anchorOf_lowest some'
    exact ⟨a, mem, well, lowest, walkRing_from anchor⟩
  · intro check body void
    refine ⟨judge_malformed, fun well chains => ?_, fun well other breaks => ?_, fun well other none' => ?_⟩
    · exact (judge_formed well).trans (if_pos chains)
    · exact (judge_formed well).trans ((if_neg other).trans (if_pos (voidChains_iff.mpr breaks)))
    · refine (judge_formed well).trans ((if_neg other).trans (if_neg fun chains => ?_))
      obtain ⟨v, preset, same⟩ := voidChains_iff.mp chains
      exact none' v preset same

end Sys2Proof.Machine
end

section
/-! The reading of a frame (R187, R190). -/

namespace Sys2Proof.Machine

theorem isHex_iff (c : Char) : isHex c = true ↔ c ∈ "0123456789ABCDEF".toList := by
  constructor
  · intro h
    have range : 48 ≤ c.toNat ∧ c.toNat ≤ 57 ∨ 65 ≤ c.toNat ∧ c.toNat ≤ 70 := by simpa [isHex, isDigit] using h
    rw [← Char.ofNat_toNat c]
    generalize c.toNat = n at *
    rcases range with ⟨low, high⟩ | ⟨low, high⟩ <;> interval_cases n <;> decide
  · intro h
    have all : "0123456789ABCDEF".toList.all isHex = true := by rfl
    exact List.all_eq_true.mp all c h

/-- Two digits are the number that they spell (R187). -/
theorem twoDigits_digitsValue {a b : Char} (first : isDigit a = true) (second : isDigit b = true) :
    twoDigits (digitsValue [a, b]) = [a, b] := by
  obtain ⟨low, high⟩ : 48 ≤ a.toNat ∧ a.toNat ≤ 57 := by simpa [isDigit] using first
  obtain ⟨low', high'⟩ : 48 ≤ b.toNat ∧ b.toNat ≤ 57 := by simpa [isDigit] using second
  have value : digitsValue [a, b] = (a.toNat - 48) * 10 + (b.toNat - 48) := by simp [digitsValue]
  have digit : ∀ c : Char, 48 ≤ c.toNat → ∀ n, n = c.toNat - 48 → digitChar n = c := fun c bound n same => by
    unfold digitChar
    rw [same, Nat.add_sub_cancel' bound, Char.ofNat_toNat]
  unfold twoDigits
  rw [value, digit a low _ (by omega), digit b low' _ (by omega)]

/-- A body ends with a bar and two hexadecimal digits, and all of it is printable (R187). -/
def FrameEnds (body content : Text) (d e : Char) : Prop := body = content ++ ['|', d, e] ∧
  d ∈ "0123456789ABCDEF".toList ∧ e ∈ "0123456789ABCDEF".toList ∧ ∀ c ∈ body, 0x20 ≤ c.toNat ∧ c.toNat ≤ 0x7E

/-- A content is a command of three letters, with nothing or a space and something after it (R187). -/
def ContentForm (content command fields : Text) : Prop := content = command ++ fields ∧
  command.length = 3 ∧ command.all isUpper = true ∧ (fields = [] ∨ ∃ c more, fields = ' ' :: c :: more)

theorem all_isPrintable (t : Text) : t.all isPrintable = true ↔ ∀ c ∈ t, 0x20 ≤ c.toNat ∧ c.toNat ≤ 0x7E := by
  rw [List.all_eq_true]
  refine forall₂_congr fun c _ => ?_
  unfold isPrintable
  rw [Bool.and_eq_true, decide_eq_true_eq, decide_eq_true_eq]

theorem commandCharacters_eq (body : Text) : commandCharacters body = match body with
    | c :: d :: e :: _ => if [c, d, e].all isUpper then [c, d, e] else "???".toList
    | _ => "???".toList := by
  match body with
  | c :: d :: e :: rest =>
    show (if (3 = 3 ∧ [c, d, e].all isUpper) then _ else _) = _
    simp only [true_and]
    rfl
  | [] => rfl
  | [_] => rfl
  | [_, _] => rfl

section
variable {f : Frame} {content : Text} {d e : Char}

theorem readFrame_overLong (long : f.overLong = true) : readFrame f = .refused .len "???".toList := if_pos long

/-- What the first check of the form asks of a body is that it ends as a frame does. -/
theorem frameEnds_iff (body : Text) : ((body.drop (body.length - 3)).length = 3 ∧ (body.drop (body.length - 3)).head? = some '|' ∧
    ((body.drop (body.length - 3)).drop 1).all isHex ∧ body.all isPrintable) ↔ ∃ content d e, FrameEnds body content d e := by
  constructor
  · rintro ⟨length, bar, hex, prints⟩
    have whole : body = body.take (body.length - 3) ++ body.drop (body.length - 3) := (List.take_append_drop _ _).symm
    generalize body.drop (body.length - 3) = tail at *
    match tail, length with
    | [x, d, e], _ =>
      obtain rfl : x = '|' := Option.some.inj bar
      have digits : isHex d = true ∧ isHex e = true := by simpa using hex
      exact ⟨_, d, e, whole, (isHex_iff d).mp digits.1, (isHex_iff e).mp digits.2, (all_isPrintable _).mp prints⟩
  · rintro ⟨content, d, e, rfl, first, second, prints⟩
    have back : (content ++ ['|', d, e]).drop ((content ++ ['|', d, e]).length - 3) = ['|', d, e] :=
      List.drop_left' (by simp)
    rw [back]
    refine ⟨rfl, rfl, ?_, (all_isPrintable _).mpr prints⟩
    simp [(isHex_iff d).mpr first, (isHex_iff e).mpr second]

theorem readFrame_open (short : f.overLong = false) (opens : ∀ content d e, ¬ FrameEnds f.body content d e) :
    readFrame f = .refused .syn (commandCharacters f.body) := by
  unfold readFrame
  dsimp only
  rw [if_neg (by simp [short]), if_pos]
  exact fun closed => by
    obtain ⟨content, d, e, ends⟩ := (frameEnds_iff f.body).mp closed
    exact opens content d e ends

/-- The checks on a frame that ends as a frame does: its check, its command's letters, its fields and its command. -/
theorem readFrame_ends (short : f.overLong = false) (ends : FrameEnds f.body content d e) : readFrame f =
    if [d, e] ≠ frameCheck (twoDigits f.station ++ content ++ ['|']) then .refused .chk (commandCharacters f.body)
    else if ¬ ((content.take 3).length = 3 ∧ (content.take 3).all isUpper) then .refused .syn (commandCharacters f.body)
    else match readFields (content.drop 3) with
      | none => .refused .syn (commandCharacters f.body)
      | some fields =>
        match commandOf (content.take 3) with
        | none => .refused .unk (commandCharacters f.body)
        | some c => .request c fields := by
  have closed := (frameEnds_iff f.body).mpr ⟨content, d, e, ends⟩
  obtain ⟨body, _⟩ := ends
  have front : f.body.take (f.body.length - 3) = content := by
    rw [body]
    exact List.take_left' (by simp)
  have back : f.body.drop (f.body.length - 3) = ['|', d, e] := by
    rw [body]
    exact List.drop_left' (by simp)
  unfold readFrame
  dsimp only
  rw [if_neg (by simp [short]), if_neg (not_not.mpr closed), front, back]
  rfl

/-- The text after a command has the form where it is empty or a space and something (R190). -/
theorem readFields_iff (t : Text) : (readFields t).isSome = true ↔ t = [] ∨ ∃ c more, t = ' ' :: c :: more := by
  unfold readFields
  split
  case h_1 => exact iff_of_true rfl (.inl rfl)
  case h_2 => exact iff_of_false nofun (by simp)
  case h_3 t nonempty =>
    refine iff_of_true rfl (.inr ?_)
    cases t with
    | nil => exact absurd rfl nonempty
    | cons c more => exact ⟨c, more, rfl⟩
  case h_4 t empty other space =>
    refine iff_of_false nofun ?_
    rintro (rfl | ⟨c, more, rfl⟩)
    · exact empty rfl
    · exact space (c :: more) rfl

theorem readFrame_checkFails (short : f.overLong = false) (ends : FrameEnds f.body content d e)
    (differs : [d, e] ≠ frameCheck (twoDigits f.station ++ content ++ ['|'])) :
    readFrame f = .refused .chk (commandCharacters f.body) := by
  rw [readFrame_ends short ends, if_pos differs]

theorem readFrame_malformed (short : f.overLong = false) (ends : FrameEnds f.body content d e)
    (agrees : [d, e] = frameCheck (twoDigits f.station ++ content ++ ['|']))
    (malformed : ∀ command fields, ¬ ContentForm content command fields) :
    readFrame f = .refused .syn (commandCharacters f.body) := by
  rw [readFrame_ends short ends, if_neg (not_not.mpr agrees)]
  by_cases letters : (content.take 3).length = 3 ∧ (content.take 3).all isUpper
  · rw [if_neg (not_not.mpr letters)]
    cases reads : readFields (content.drop 3) with
    | none => rfl
    | some fields =>
      have form := (readFields_iff _).mp (by rw [reads]; rfl)
      exact absurd ⟨(List.take_append_drop 3 content).symm, letters.1, letters.2, form⟩ (malformed _ _)
  · rw [if_pos letters]

/-- A frame whose content has the form is read as its command, or refused where there is none of that name. -/
theorem readFrame_formed {command fields : Text} (short : f.overLong = false) (ends : FrameEnds f.body content d e)
    (agrees : [d, e] = frameCheck (twoDigits f.station ++ content ++ ['|'])) (form : ContentForm content command fields) :
    (∀ c : Command, c.text = command → ∃ given, readFrame f = .request c given) ∧
    ((∀ c : Command, c.text ≠ command) → readFrame f = .refused .unk command) := by
  obtain ⟨whole, length, upper, after⟩ := form
  have front : content.take 3 = command := by
    rw [whole]
    exact List.take_left' length
  have back : content.drop 3 = fields := by
    rw [whole]
    exact List.drop_left' length
  have characters : commandCharacters f.body = command := by
    have first : f.body.take 3 = command := by
      rw [ends.1, whole, List.append_assoc]
      exact List.take_left' length
    unfold commandCharacters
    dsimp only
    rw [first, if_pos ⟨length, upper⟩]
  obtain ⟨given, reads⟩ := Option.isSome_iff_exists.mp ((readFields_iff fields).mpr after)
  have row := readFrame_ends short ends
  rw [if_neg (not_not.mpr agrees), front, back, if_neg (not_not.mpr ⟨length, upper⟩), reads, characters] at row
  refine ⟨fun c name => ⟨given, ?_⟩, fun unknown => ?_⟩
  · rw [row, ← name, (command_text c).2.2.2]
  · have none' : commandOf command = none := by
      unfold commandOf
      rw [List.find?_eq_none]
      exact fun c _ same => unknown c (beq_iff_eq.mp same)
    rw [row, none']

end

end Sys2Proof.Machine
end

section
/-! The reception of a frame (R188 to R190). -/

namespace Sys2Proof.Machine

theorem charOf_code_iff (code : BitVec 8) (c : Char) (small : c.toNat < 256) :
    Char.ofNat code.toNat = c ↔ code = BitVec.ofNat 8 c.toNat := by
  have valid : (Char.ofNat code.toNat).toNat = code.toNat := by
    have : code.toNat < 256 := code.isLt
    rw [Char.toNat_ofNat, if_pos (.inl (by omega))]
  constructor
  · rintro rfl
    rw [valid, BitVec.ofNat_toNat]
    exact (BitVec.setWidth_eq code).symm
  · rintro rfl
    rw [BitVec.toNat_ofNat, Nat.mod_eq_of_lt (by omega), Char.ofNat_toNat]

theorem exec_character {s : State} (on : linkOn s = true) (code : BitVec 8) (error : Bool) :
    exec (.characterReceived code error) s =
      .next (if error = true then badCharacter s else goodCharacter (Char.ofNat code.toNat) s) :=
  congrArg Host.Outcome.next (if_pos on)

section
variable {s : State}

theorem goodCharacter_begins : goodCharacter '>' s = { s with hlk := { s.hlk with
    reception := some ⟨s.tmb.tick, ['>'], 1, false, false⟩ } } := if_pos rfl

theorem goodCharacter_outside {c : Char} (other : c ≠ '>') (none' : s.hlk.reception = none) : goodCharacter c s = s := by
  unfold goodCharacter
  rw [if_neg other, none']

theorem goodCharacter_adds {c : Char} {r : Reception} (other : c ≠ '>') (inside : s.hlk.reception = some r) (goes : c ≠ '\n') :
    goodCharacter c s = { s with hlk := { s.hlk with reception := some (r.add c) } } := by
  unfold goodCharacter
  rw [if_neg other, inside]
  exact if_neg goes

theorem goodCharacter_ends {r : Reception} (inside : s.hlk.reception = some r) : goodCharacter '\n' s = frameCompletes r s := by
  unfold goodCharacter
  rw [if_neg (by decide), inside]
  exact if_pos rfl

/-! ## A frame that completes (R189) -/

theorem receptionStation_digits {r : Reception} {x a b : Char} {rest : Text} (chars : r.chars = x :: a :: b :: rest)
    (first : isDigit a = true) (second : isDigit b = true) : r.station = some (digitsValue [a, b]) := by
  unfold Reception.station
  rw [chars]
  exact if_pos (by rw [first, second]; rfl)

theorem receptionStation_some {r : Reception} {n : Nat} (station : r.station = some n) :
    ∃ x a b rest, r.chars = x :: a :: b :: rest ∧ isDigit a = true ∧ isDigit b = true ∧ n = digitsValue [a, b] := by
  unfold Reception.station at station
  split at station
  case h_1 x a b rest chars =>
    split at station
    case isTrue digits =>
      rw [Bool.and_eq_true] at digits
      exact ⟨x, a, b, rest, chars, digits.1, digits.2, (Option.some.inj station).symm⟩
    case isFalse => cases station
  case h_2 => cases station

theorem frameCompletes_discards {r : Reception} (bad : r.framingError = true ∨ ∀ n, r.station = some n →
    n ≠ s.hlk.settings.station ∧ n ≠ 0) : frameCompletes r s = { s with hlk := { s.hlk with reception := none } } := by
  unfold frameCompletes
  dsimp only
  rcases bad with error | other
  · rw [if_pos error]
  · split
    · rfl
    · split
      · rfl
      case h_2 n station =>
        obtain ⟨own, all⟩ := other n station
        exact if_neg (not_or.mpr ⟨own, all⟩)

theorem frameCompletes_keeps {r : Reception} {n : Nat} (clean : r.framingError = false) (station : r.station = some n)
    (here : n = s.hlk.settings.station ∨ n = 0) : frameCompletes r s =
      frameKept ⟨n, if r.overLong then [] else r.chars.drop 3, r.overLong⟩ { s with hlk := { s.hlk with reception := none } } := by
  unfold frameCompletes
  dsimp only
  rw [if_neg (by simp [clean]), station]
  exact if_pos here

/-! ## The receive buffer (R189, R190) -/

/-- No command is in progress and the reply slot is empty. -/
theorem canTake_iff (s : State) : canTake s = true ↔ s.hlk.inProgress = none ∧ s.hlk.reply = none := by
  unfold canTake
  rw [Bool.and_eq_true, Option.isNone_iff_eq_none, Option.isNone_iff_eq_none]

/-- While a frame may not be taken, none is. -/
theorem takeWaiting_holds (outstanding : canTake s = false) : takeWaiting s = s := by
  unfold takeWaiting
  cases s.hlk.buffer.length with
  | zero => rfl
  | succ n =>
    unfold takeFrames
    split
    · rfl
    · exact if_neg (by simp [outstanding])

theorem takeWaiting_empty (empty : s.hlk.buffer = []) : takeWaiting s = s := by
  unfold takeWaiting
  rw [empty]
  rfl

/-- With nothing outstanding and no frame waiting, a frame is taken as it completes. -/
theorem frameKept_taken (free : s.hlk.inProgress = none) (slot : s.hlk.reply = none) (empty : s.hlk.buffer = []) (f : Frame) :
    frameKept f s = takeFrame f s := by
  have room : s.hlk.buffer.length < 2 := by rw [empty]; decide
  have joined : s.hlk.buffer ++ [f] = [f] := by rw [empty]; rfl
  have can : canTake { s with hlk := { s.hlk with buffer := [f] } } = true := (canTake_iff _).mpr ⟨free, slot⟩
  unfold frameKept
  rw [if_pos room, joined]
  show takeFrames 1 { s with hlk := { s.hlk with buffer := [f] } } = _
  unfold takeFrames
  dsimp only
  rw [if_pos can, ← empty]
  rfl

theorem frameKept_waits (outstanding : s.hlk.inProgress ≠ none ∨ s.hlk.reply ≠ none) (f : Frame) : frameKept f s = { s with hlk :=
    if s.hlk.buffer.length < 2 then { s.hlk with buffer := s.hlk.buffer ++ [f] } else { s.hlk with overrun := true } } := by
  have cannot : canTake s = false := by
    rw [Bool.eq_false_iff, Ne, canTake_iff]
    rintro ⟨free, slot⟩
    rcases outstanding with busy | full
    · exact busy free
    · exact full slot
  unfold frameKept
  split
  · exact takeWaiting_holds cannot
  · rfl

/-! ## A refusal (R190) -/

/-- A refusal changes the link alone: the reply with the status and the command characters, and no field. -/
theorem placeReply_refuses (free : s.hlk.inProgress = none) (command : Text) (status : Status) :
    let t := placeReply command status [] none { s with hlk := { s.hlk with reception := none } }
    t = { s with hlk := t.hlk } ∧ t.hlk.inProgress = none ∧ LinkKept s t ∧
      ∃ eligible, t.hlk.reply = some ⟨command, status, [], s.tmb.tick, (s.hlk.settings.delay * 32768 + 999) / 1000,
        eligible, none⟩ := by
  intro t
  let placed : State := { s with hlk := { s.hlk with
    reception := none
    inProgress := none
    reply := some ⟨command, status, [], s.tmb.tick, delayTicks s.hlk.settings.delay, false, none⟩ } }
  have whole : t = transmit placed := rfl
  obtain ⟨eligible, reply⟩ := transmit_reply (s := placed) rfl
  obtain ⟨settings, mark, adoption, buffer, reception, inProgress, notices, _⟩ := transmit_link placed
  have others := transmit_others placed
  rw [whole]
  refine ⟨others, inProgress, ⟨settings, mark, adoption, buffer, reception, notices, fun h => ?_⟩, eligible, reply⟩
  rw [transmit_busy (s := placed) h]
  show ({ s.hlk with reception := none, inProgress := none, reply := _ } : Hlk) = _
  rw [← free]

/-- A frame that is refused: to the station in force it is answered, to 00 it is discarded. -/
theorem takeFrame_refuses (free : s.hlk.inProgress = none) {f : Frame} {status : Status} {command : Text}
    (reads : readFrame f = .refused status command) :
    let t := takeFrame f { s with hlk := { s.hlk with reception := none } }
    if f.station = 0 then t = { s with hlk := { s.hlk with reception := none } }
    else t = { s with hlk := t.hlk } ∧ t.hlk.inProgress = none ∧ LinkKept s t ∧
      ∃ eligible, t.hlk.reply = some ⟨command, status, [], s.tmb.tick, (s.hlk.settings.delay * 32768 + 999) / 1000,
        eligible, none⟩ := by
  intro t
  have row : t = if f.station = 0 then { s with hlk := { s.hlk with reception := none } }
      else placeReply command status [] none { s with hlk := { s.hlk with reception := none } } := by
    show takeFrame f _ = _
    unfold takeFrame
    rw [reads]
  by_cases broadcast : f.station = 0
  · rw [if_pos broadcast] at row ⊢
    exact row
  · rw [if_neg broadcast] at row ⊢
    rw [row]
    exact placeReply_refuses free command status

end

/-- Settles O52. -/
theorem charactersFormFrames : Obligations.CharactersFormFrames := by
  intro s on
  have goes : ∀ code, exec (.characterReceived code false) s = .next (goodCharacter (Char.ofNat code.toNat) s) :=
    fun code => exec_character on code false
  have ends : exec (.characterReceived 0x0A#8 false) s = .next (goodCharacter '\n' s) := goes _
  have starts : ∀ {code : BitVec 8}, code ≠ 0x3E#8 → Char.ofNat code.toNat ≠ '>' := fun other same =>
    other ((charOf_code_iff _ '>' (by decide)).mp same)
  have stops : ∀ {code : BitVec 8}, code ≠ 0x0A#8 → Char.ofNat code.toNat ≠ '\n' := fun other same =>
    other ((charOf_code_iff _ '\n' (by decide)).mp same)
  refine ⟨fun r x a b rest inside clean chars first second here free slot empty => ?_, fun code => exec_character on code true,
    (goes _).trans (congrArg Host.Outcome.next goodCharacter_begins), fun code other none' =>
    (goes _).trans (congrArg Host.Outcome.next (goodCharacter_outside (starts other) none')), fun code r other more inside => ?_,
    fun r inside bad => ?_, fun r x a b rest inside clean chars first second here outstanding => ?_, fun r inside late => ?_⟩
  · let f : Frame := ⟨digitsValue [a, b], if r.overLong then [] else r.chars.drop 3, r.overLong⟩
    obtain ⟨u, cleared⟩ : ∃ u : State, { s with hlk := { s.hlk with reception := none } } = u := ⟨_, rfl⟩
    have taken : goodCharacter '\n' s = takeFrame f u := by
      rw [goodCharacter_ends inside, frameCompletes_keeps clean (receptionStation_digits chars first second) here, cleared]
      exact frameKept_taken (by rw [← cleared]; exact free) (by rw [← cleared]; exact slot) (by rw [← cleared]; exact empty) f
    obtain ⟨t, whole⟩ : ∃ t, takeFrame f u = t := ⟨_, rfl⟩
    refine ⟨t, by rw [ends, taken, whole], ?_⟩
    intro characters refused finishes agrees formed
    have refuses : ∀ {status command}, readFrame f = .refused status command → refused status command := fun reads => by
      have := takeFrame_refuses free reads
      rw [cleared, whole, ← cleared] at this
      exact this
    have body : r.overLong = false → f.body = rest := fun short => by
      show (if r.overLong = true then _ else _) = _
      rw [if_neg (by simp [short]), chars]
      rfl
    have digits : twoDigits f.station = [a, b] := twoDigits_digitsValue first second
    have letters : r.overLong = false → commandCharacters f.body = characters := fun short => by
      rw [body short, commandCharacters_eq]
      rfl
    refine ⟨fun long => refuses (readFrame_overLong long), fun short => ⟨fun opens => ?_, fun content d e closes => ?_⟩⟩
    · rw [← letters short]
      refine refuses (readFrame_open short ?_)
      rw [body short]
      exact opens
    · have closes' : FrameEnds f.body content d e := by
        rw [body short]
        exact closes
      have check : agrees content d e ↔ [d, e] = frameCheck (twoDigits f.station ++ content ++ ['|']) := by
        rw [digits]
        rfl
      refine ⟨fun differs => ?_, fun same => ⟨fun malformed => ?_, fun command fields form => ⟨fun unknown => ?_,
        fun c name other broadcast => ?_⟩⟩⟩
      · rw [← letters short]
        exact refuses (readFrame_checkFails short closes' (mt check.mpr differs))
      · rw [← letters short]
        exact refuses (readFrame_malformed short closes' (check.mp same) malformed)
      · exact refuses ((readFrame_formed short closes' (check.mp same) form).2 unknown)
      · obtain ⟨given, reads⟩ := (readFrame_formed short closes' (check.mp same) form).1 c name
        rw [← whole, cleared]
        unfold takeFrame
        rw [reads]
        exact (if_pos broadcast).trans (if_neg fun h => other h.1)
  · rw [goes, goodCharacter_adds (starts other) inside (stops more)]
    have added : r.add (Char.ofNat code.toNat) = if r.overLong = true ∨ 119 ≤ r.received then
        { r with received := r.received + 1, overLong := true, chars := r.chars.take 3 }
        else { r with received := r.received + 1, chars := r.chars ++ [Char.ofNat code.toNat] } :=
      if_congr (or_congr_right Nat.lt_succ_iff) rfl rfl
    rw [added]
  · rw [ends, goodCharacter_ends inside, frameCompletes_discards]
    refine bad.imp_right fun other n station => ?_
    obtain ⟨x, a, b, rest, chars, first, second, rfl⟩ := receptionStation_some station
    rcases other x a b rest chars with no | no | away
    · rw [first] at no
      cases no
    · rw [second] at no
      cases no
    · exact away
  · rw [ends, goodCharacter_ends inside, frameCompletes_keeps clean (receptionStation_digits chars first second) here,
      frameKept_waits (by exact outstanding), chars]
    rfl
  · have due : frameTimeoutDue s = true := by
      unfold frameTimeoutDue
      rw [on, inside]
      exact decide_eq_true late
    exact congrArg Host.Outcome.next (if_pos due)

end Sys2Proof.Machine
end

section
/-! A request on the line, character by character (R187 to R190). -/

namespace Sys2Proof.Machine

/-! ## The characters of a request frame (R187) -/

theorem joinText_length {sep : Char} {parts : List Text} (some' : parts ≠ []) :
    (joinText sep parts).length + 1 = (parts.map (fun t => t.length + 1)).sum := by
  induction parts with
  | nil => exact absurd rfl some'
  | cons t rest ih =>
    cases rest with
    | nil =>
      show t.length + 1 = _
      simp
    | cons u more =>
      have cut : joinText sep (t :: u :: more) = t ++ sep :: joinText sep (u :: more) := rfl
      have later := ih (List.cons_ne_nil u more)
      rw [cut, List.length_append, List.length_cons, List.map_cons, List.sum_cons, ← later]
      omega

/-- The characters of a request frame but its LF are as many as its length says. -/
theorem requestFrame_length (station : Nat) (c : Command) (fields : List Text) :
    (requestFrame station c fields).body.length + 3 = requestLength fields := by
  obtain ⟨letters, _⟩ := command_text c
  have check : ∀ t, (frameCheck t).length = 2 := fun t => (frameCheck_form t).1
  unfold requestFrame requestContent
  dsimp only
  rw [List.length_append, check, List.length_append, List.length_append, letters]
  by_cases empty : fields = []
  · rw [if_pos empty, empty]
    rfl
  · have size := joinText_length (sep := ',') empty
    rw [if_neg empty, List.length_cons, size, List.length_singleton]
    unfold requestLength
    omega

/-- A character that a frame in reception takes: it begins no frame and ends none, and the line carries it. -/
def Receivable (c : Char) : Prop := c ≠ '>' ∧ c ≠ '\n' ∧ c.toNat < 256

theorem receivable_of_upper {c : Char} (upper : isUpper c = true) : Receivable c := by
  obtain ⟨low, high⟩ : 65 ≤ c.toNat ∧ c.toNat ≤ 90 := by simpa [isUpper] using upper
  refine ⟨fun same => ?_, fun same => ?_, by omega⟩
  · rw [same] at low
    exact absurd low (by decide)
  · rw [same] at low
    exact absurd low (by decide)

theorem receivable_of_hex {c : Char} (hex : isHex c = true) : Receivable c := by
  obtain range : 48 ≤ c.toNat ∧ c.toNat ≤ 57 ∨ 65 ≤ c.toNat ∧ c.toNat ≤ 70 := by simpa [isHex, isDigit] using hex
  refine ⟨fun same => ?_, fun same => ?_, by omega⟩
  · rw [same] at range
    exact absurd range (by decide)
  · rw [same] at range
    exact absurd range (by decide)

theorem receivable_of_field {c : Char} (h : fieldChar c = true) : Receivable c := by
  simp only [Bool.and_eq_true, decide_eq_true_eq, bne_iff_ne] at h
  obtain ⟨⟨⟨low, high⟩, _⟩, start⟩ := h
  refine ⟨start, fun same => ?_, by omega⟩
  rw [same] at low
  exact absurd low (by decide)

theorem requestFrame_receivable {fields : List Text} (wf : wellFormedFields fields = true) (station : Nat) (c : Command) :
    ∀ x ∈ (requestFrame station c fields).body, Receivable x := by
  obtain ⟨_, upper, _⟩ := command_text c
  simp only [Bool.and_eq_true] at wf
  obtain ⟨⟨chars, _⟩, _⟩ := wf
  have each : ∀ f ∈ fields, ∀ x ∈ f, fieldChar x = true := fun f h x hx =>
    List.all_eq_true.mp (List.all_eq_true.mp chars f h) x hx
  intro x mem
  have split : x ∈ c.text ∨ x ∈ (if fields = [] then ([] : Text) else ' ' :: joinText ',' fields) ∨ x ∈ ['|'] ∨
      x ∈ frameCheck (twoDigits station ++ (requestContent c fields ++ ['|'])) := by
    rcases List.mem_append.mp mem with content | check
    · rcases List.mem_append.mp content with content | bar
      · rcases List.mem_append.mp content with name | after
        · exact .inl name
        · exact .inr (.inl after)
      · exact .inr (.inr (.inl bar))
    · exact .inr (.inr (.inr check))
  have signs : Receivable ' ' ∧ Receivable '|' ∧ Receivable ',' := by
    unfold Receivable
    decide
  rcases split with name | after | bar | check
  · exact receivable_of_upper (List.all_eq_true.mp upper x name)
  · split at after
    · cases after
    · rcases List.mem_cons.mp after with space | field
      · exact space ▸ signs.1
      · rcases joinText_mem field with comma | ⟨f, hf, hx⟩
        · exact comma ▸ signs.2.2
        · exact receivable_of_field (each f hf x hx)
  · exact List.mem_singleton.mp bar ▸ signs.2.1
  · exact receivable_of_hex (List.all_eq_true.mp (frameCheck_form _).2.1 x check)

/-- The digits of a station number (R187). -/
theorem twoDigits_station {n : Nat} (small : n ≤ 99) : ∃ a b, twoDigits n = [a, b] ∧ isDigit a = true ∧ isDigit b = true ∧
    digitsValue [a, b] = n := by
  have digit : ∀ k < 10, isDigit (digitChar k) = true ∧ (digitChar k).toNat - 48 = k := fun k below => by
    have code : (digitChar k).toNat = 48 + k := by
      unfold digitChar
      rw [Char.toNat_ofNat, if_pos (.inl (by omega))]
    refine ⟨?_, by omega⟩
    unfold isDigit
    rw [code, Bool.and_eq_true, decide_eq_true_eq, decide_eq_true_eq]
    omega
  obtain ⟨first, tens⟩ := digit (n / 10 % 10) (by omega)
  obtain ⟨second, ones⟩ := digit (n % 10) (by omega)
  refine ⟨_, _, rfl, first, second, ?_⟩
  have value : digitsValue [digitChar (n / 10 % 10), digitChar (n % 10)] =
      ((digitChar (n / 10 % 10)).toNat - 48) * 10 + ((digitChar (n % 10)).toNat - 48) := by simp [digitsValue]
  rw [value, tens, ones]
  omega

/-! ## Characters received (R188) -/

theorem exec_char {s : State} (on : linkOn s = true) {c : Char} (small : c.toNat < 256) :
    exec (.characterReceived (BitVec.ofNat 8 c.toNat) false) s = .next (goodCharacter c s) := by
  rw [exec_character on, if_neg nofun, (charOf_code_iff _ c small).mpr rfl]

theorem receiveAll_cons {s : State} (on : linkOn s = true) {c : Char} (small : c.toNat < 256) (rest : Text) :
    receiveAll (c :: rest) s = receiveAll rest (goodCharacter c s) := by
  conv_lhs => unfold receiveAll
  rw [exec_char on small]

/-- Characters received within a frame that stays short enough are added to it. -/
theorem receiveAll_adds {s : State} (on : linkOn s = true) (t rest : Text) {r : Reception} (inside : s.hlk.reception = some r)
    (short : r.overLong = false) (room : r.received + t.length ≤ 119) (chars : ∀ c ∈ t, Receivable c) :
    receiveAll (t ++ rest) s = receiveAll rest { s with hlk := { s.hlk with
      reception := some { r with received := r.received + t.length, chars := r.chars ++ t } } } := by
  induction t generalizing s r with
  | nil =>
    rw [List.nil_append, List.append_nil]
    show _ = receiveAll rest { s with hlk := { s.hlk with reception := some r } }
    rw [← inside]
  | cons c more ih =>
    obtain ⟨start, stop, small⟩ := chars c (List.mem_cons_self ..)
    rw [List.length_cons] at room
    have added : r.add c = { r with received := r.received + 1, chars := r.chars ++ [c] } :=
      if_neg (by rw [short]; simp only [Bool.false_eq_true, false_or, not_lt]; omega)
    rw [List.cons_append, receiveAll_cons on small, goodCharacter_adds start inside stop, added]
    rw [ih (s := { s with hlk := { s.hlk with reception := some { r with received := r.received + 1, chars := r.chars ++ [c] } } })
      on rfl short (by show r.received + 1 + more.length ≤ 119; omega) fun d hd => chars d (List.mem_cons_of_mem c hd)]
    have count : r.received + 1 + more.length = r.received + (c :: more).length := by
      rw [List.length_cons]
      omega
    have text : r.chars ++ [c] ++ more = r.chars ++ c :: more := by rw [List.append_assoc]; rfl
    rw [← count, ← text]

/-- A whole request frame received on a free link is taken as it completes. -/
theorem receiveAll_lineFrame {s : State} (on : linkOn s = true) (free : s.hlk.inProgress = none) (slot : s.hlk.reply = none)
    (empty : s.hlk.buffer = []) {fields : List Text} (wf : wellFormedFields fields = true) (c : Command) {n : Nat} (small : n ≤ 99)
    (here : n = s.hlk.settings.station ∨ n = 0) :
    receiveAll (lineFrame n c fields) s = .next (takeFrame (requestFrame n c fields) (dropReception s)) := by
  obtain ⟨a, b, digits, first, second, value⟩ := twoDigits_station small
  have size := requestFrame_length n c fields
  have bound : requestLength fields ≤ 119 := by
    rw [Bool.and_eq_true] at wf
    exact of_decide_eq_true wf.2
  have line : lineFrame n c fields = '>' :: ((a :: b :: (requestFrame n c fields).body) ++ ['\n']) := by
    unfold lineFrame
    rw [digits]
    rfl
  rw [line, receiveAll_cons on (by decide), goodCharacter_begins]
  obtain ⟨u, begun⟩ : ∃ u : State, { s with hlk := { s.hlk with reception := some ⟨s.tmb.tick, ['>'], 1, false, false⟩ } } = u :=
    ⟨_, rfl⟩
  have digitTaken : ∀ {d : Char}, isDigit d = true → Receivable d := fun h =>
    receivable_of_hex (by unfold isHex; rw [h]; rfl)
  rw [begun, receiveAll_adds (r := ⟨s.tmb.tick, ['>'], 1, false, false⟩) (by rw [← begun]; exact on)
    (a :: b :: (requestFrame n c fields).body) ['\n'] (by rw [← begun]) rfl
    (by show 1 + ((requestFrame n c fields).body.length + 1 + 1) ≤ 119; omega)
    fun x mem => by
      rcases List.mem_cons.mp mem with rfl | mem
      · exact digitTaken first
      · rcases List.mem_cons.mp mem with rfl | mem
        · exact digitTaken second
        · exact requestFrame_receivable wf n c x mem]
  rw [receiveAll_cons (by rw [← begun]; exact on) (by decide), goodCharacter_ends rfl,
    frameCompletes_keeps (n := n) rfl ((receptionStation_digits rfl first second).trans (congrArg some value))
      (by rw [← begun]; exact here)]
  rw [frameKept_taken (by rw [← begun]; exact free) (by rw [← begun]; exact slot) (by rw [← begun]; exact empty), ← begun]
  rfl

/-- Settles O56. -/
theorem requestRowDoesWhatItsCharactersDo : Obligations.RequestRowDoesWhatItsCharactersDo := by
  have takenOnce : ∀ {s : State} {fields : List Text}, s.hlk.inProgress = none → s.hlk.reply = none → s.hlk.buffer = [] →
      wellFormedFields fields = true → takenAtOnce fields s = true := fun free slot empty wf => by
    simp [takenAtOnce, canTake, free, slot, empty, wf]
  have addressed : ∀ {s : State} {c : Command} {fields : List Text}, linkOn s = true → takenAtOnce fields s = true →
      request c fields s = handOver c fields (dropReception s) := fun on once =>
    (if_neg (by simp [on])).trans (if_pos once)
  have toAll : ∀ {s : State} {fields : List Text}, linkOn s = true → takenAtOnce fields s = true →
      exec (.tis true fields) s = .next (handBroadcast .tis fields (dropReception s)) := fun {s fields} on once => by
    have row : broadcastTis fields s = handBroadcast .tis fields (dropReception s) :=
      (if_neg (by simp [on])).trans (if_pos once)
    exact congrArg Host.Outcome.next row
  refine ⟨fun s fields on free slot empty wf low high => ⟨fun i c form => ?_, ?_⟩, fun i s c fields form wf =>
    ⟨fun power other free slot empty => ⟨?_, ?_⟩, fun power => ?_⟩⟩
  · rw [receiveAll_lineFrame on free slot empty wf c high (.inl rfl), exec_request form,
      addressed on (takenOnce free slot empty wf)]
    refine congrArg Host.Outcome.next ?_
    have reads : readFrame (requestFrame s.hlk.settings.station c fields) = .request c fields := requestFrameReadsBack _ c fields wf
    unfold takeFrame
    rw [reads]
    exact if_neg (by show s.hlk.settings.station ≠ 0; omega)
  · rw [receiveAll_lineFrame on free slot empty wf .tis (Nat.zero_le _) (.inr rfl), toAll on (takenOnce free slot empty wf)]
    refine congrArg Host.Outcome.next ?_
    have reads : readFrame (requestFrame 0 .tis fields) = .request .tis fields := requestFrameReadsBack 0 .tis fields wf
    unfold takeFrame
    rw [reads]
    exact if_pos rfl
  · have on : linkOn s = true := by
      unfold linkOn
      rw [power]
      rfl
    refine ⟨_, ?_, answer_only .bsy [] free⟩
    rw [exec_request form, addressed on (takenOnce free slot empty wf)]
    exact congrArg Host.Outcome.next (if_pos ⟨power, other⟩)
  · have on : linkOn s = true := by
      unfold linkOn
      rw [power]
      rfl
    rw [toAll on (takenOnce free slot empty wf)]
    exact congrArg Host.Outcome.next (if_neg fun h => h.2 power)
  · have off : linkOn s = false := by
      unfold linkOn
      rcases power with h | h <;> rw [h] <;> rfl
    refine ⟨?_, ?_⟩
    · rw [exec_request form]
      exact congrArg Host.Outcome.next (if_pos (by simp [off]))
    · have row : broadcastTis fields s = s := if_pos (by simp [off])
      exact congrArg Host.Outcome.next row

end Sys2Proof.Machine
end

section
/-! The frames of replies and notices (R187, R193, R202). -/

namespace Sys2Proof.Machine

/-- A digit of a sum below 256, or of a station, in the alphabet of R187. -/
theorem hexDigit_eq {n : Nat} (small : n < 16) : hexDigit n = "0123456789ABCDEF".toList[n]! := by
  have all : ∀ n < 16, hexDigit n = "0123456789ABCDEF".toList[n]! := by decide
  exact all n small

theorem twoDigits_eq {n : Nat} (small : n ≤ 99) :
    twoDigits n = ["0123456789ABCDEF".toList[n / 10]!, "0123456789ABCDEF".toList[n % 10]!] := by
  have digit : ∀ k < 10, digitChar k = "0123456789ABCDEF".toList[k]! := by decide
  unfold twoDigits
  rw [digit _ (by omega), digit _ (by omega), Nat.mod_eq_of_lt (by omega : n / 10 < 10)]

theorem closeFrame_eq (start : Char) (content : Text) {sum : Nat} (total : ((content ++ ['|']).map Char.toNat).sum % 256 = sum) :
    closeFrame start content = [start] ++ content ++
      ['|', "0123456789ABCDEF".toList[sum / 16]!, "0123456789ABCDEF".toList[sum % 16]!, '\n'] := by
  have below : sum < 256 := total ▸ Nat.mod_lt _ (by decide)
  have check : frameCheck (content ++ ['|']) = ["0123456789ABCDEF".toList[sum / 16]!, "0123456789ABCDEF".toList[sum % 16]!] := by
    unfold frameCheck hexByte
    rw [total, Nat.mod_eq_of_lt (by omega : sum / 16 < 16), hexDigit_eq (by omega), hexDigit_eq (by omega)]
  unfold closeFrame
  dsimp only
  rw [check]
  simp

theorem commaFields_eq (fields : List Text) : commaFields fields = fields.flatMap (fun f => ',' :: f) := rfl

/-! ## The division of a reply (R202) -/

section
variable (station : Nat) (command : Text) (status : Status)

/-- The length of a reply frame with these fields and marks. -/
def replyLength (fields : List Text) (marks : Text) : Nat := (replyFrame station command status fields marks).length

/-- What fills a frame: the fields at its front, one at least, short enough each on its own and so together, and no room for
the next. -/
theorem fillFrame_fills (taken rest : List Text) (single : ∀ f ∈ rest, replyLength station command status [f] ['+'] ≤ 320)
    (fits : taken = [] ∨ replyLength station command status taken ['+'] ≤ 320) :
    let filled := fillFrame station command status taken rest
    filled.1 ++ filled.2 = taken ++ rest ∧ (taken ++ rest ≠ [] → filled.1 ≠ []) ∧
      (filled.1 = [] ∨ replyLength station command status filled.1 ['+'] ≤ 320) ∧
      ∀ f more, filled.2 = f :: more → 320 < replyLength station command status (filled.1 ++ [f]) ['+'] := by
  induction rest generalizing taken with
  | nil => exact ⟨rfl, fun some' => by rwa [List.append_nil] at some', fits, nofun⟩
  | cons f rest ih =>
    unfold fillFrame
    split
    case isTrue room =>
      have fits' : taken ++ [f] = [] ∨ replyLength station command status (taken ++ [f]) ['+'] ≤ 320 := by
        rcases room with empty | room
        · subst empty
          exact .inr (single f (List.mem_cons_self ..))
        · exact .inr room
      have later := ih (taken ++ [f]) (fun g hg => single g (List.mem_cons_of_mem f hg)) fits'
      rw [List.append_assoc] at later
      exact later
    case isFalse full =>
      obtain ⟨some', long⟩ := not_or.mp full
      refine ⟨rfl, fun _ => some', fits, fun g more same => ?_⟩
      cases same
      exact not_le.mp long

/-- A long reply is a run of filled frames, and a last one with the marks. -/
theorem replyRun_divides (marks : Text) (closes : replyLength station command status [] marks ≤ 320) (fuel : Nat) (fields : List Text)
    (enough : fields.length < fuel) (single : ∀ f ∈ fields, replyLength station command status [f] ['+'] ≤ 320) :
    ∃ (groups : List (List Text)) (last : List Text),
      replyRun station command status marks fuel fields =
        groups.map (fun g => replyFrame station command status g ['+']) ++ [replyFrame station command status last marks] ∧
      groups.flatten ++ last = fields ∧
      (∀ frame ∈ replyRun station command status marks fuel fields, frame.length ≤ 320) ∧
      ∀ before g after, groups ++ [last] = before ++ g :: after → after ≠ [] →
        g ≠ [] ∧ 320 < replyLength station command status (g ++ after.flatten) marks ∧
        ∀ f rest, after.flatten = f :: rest → 320 < replyLength station command status (g ++ [f]) ['+'] := by
  induction fuel generalizing fields with
  | zero => omega
  | succ fuel ih =>
    by_cases whole : replyLength station command status fields marks ≤ 320
    · have one : replyRun station command status marks (fuel + 1) fields = [replyFrame station command status fields marks] :=
        if_pos whole
      refine ⟨[], fields, one, rfl, fun frame mem => ?_, fun before g after same more => ?_⟩
      · rw [one] at mem
        rw [List.mem_singleton.mp mem]
        exact whole
      · cases before with
        | nil => exact absurd (List.cons.inj same).2.symm more
        | cons x xs => exact absurd (List.cons.inj same).2 (by simp)
    · have fills := fillFrame_fills station command status [] fields single (.inl rfl)
      obtain ⟨⟨first, rest⟩, cut⟩ : ∃ pair, fillFrame station command status [] fields = pair := ⟨_, rfl⟩
      have row : replyRun station command status marks (fuel + 1) fields =
          replyFrame station command status first ['+'] :: replyRun station command status marks fuel rest := by
        refine (if_neg whole).trans ?_
        rw [cut]
      rw [cut] at fills
      obtain ⟨parts, some', short, full⟩ := fills
      rw [List.nil_append] at parts
      dsimp only at parts some' short full
      have nonempty : fields ≠ [] := fun none' => whole (none' ▸ closes)
      have begun : first ≠ [] := some' nonempty
      have fewer : rest.length < fuel := by
        have := congrArg List.length parts
        rw [List.length_append] at this
        have := List.length_pos_of_ne_nil begun
        omega
      obtain ⟨groups, last, run, flat, each, divided⟩ := ih rest fewer fun f hf =>
        single f (by rw [← parts]; exact List.mem_append_right _ hf)
      refine ⟨first :: groups, last, ?_, ?_, fun frame mem => ?_, fun before g after same more => ?_⟩
      · rw [row, run]
        rfl
      · rw [List.flatten_cons, List.append_assoc, flat, parts]
      · rw [row] at mem
        rcases List.mem_cons.mp mem with rfl | mem
        · exact short.resolve_left begun
        · exact each frame mem
      · cases before with
        | cons x xs => exact divided xs g after (List.cons.inj same).2 more
        | nil =>
          obtain ⟨rfl, tail⟩ := List.cons.inj same
          have left : after.flatten = rest := by
            rw [← tail]
            simp [flat]
          rw [left]
          refine ⟨begun, ?_, full⟩
          rw [parts]
          exact not_le.mp whole

end

/-- The frames of R187 and R202. -/
theorem frames_divide (station : Nat) (command : Text) (status : Status) (marks : Text) (fields : List Text) (small : station ≤ 99) :
    let hex := "0123456789ABCDEF".toList
    let digits := [hex[station / 10]!, hex[station % 10]!]
    let line (start : Char) (content : Text) : Text :=
      let sum := ((content ++ ['|']).map Char.toNat).sum % 256
      [start] ++ content ++ ['|', hex[sum / 16]!, hex[sum % 16]!, '\n']
    let form (part : List Text) (mark : Text) : Text :=
      line '<' (digits ++ command ++ [' '] ++ status.text ++ part.flatMap (fun f => ',' :: f) ++ [','] ++ mark)
    let run := replyRun station command status marks (fields.length + 1) fields
    (∀ n : Notice, noticeFrame station n = line '!' (digits ++ n.kind.text ++ n.fields.flatMap (fun f => ',' :: f))) ∧
    ((form fields marks).length ≤ 320 → run = [form fields marks]) ∧
    ((form [] marks).length ≤ 320 → (∀ f ∈ fields, (form [f] ['+']).length ≤ 320) →
      ∃ (groups : List (List Text)) (last : List Text),
        run = groups.map (fun g => form g ['+']) ++ [form last marks] ∧ groups.flatten ++ last = fields ∧
        (∀ frame ∈ run, frame.length ≤ 320) ∧
        ∀ before g after, groups ++ [last] = before ++ g :: after → after ≠ [] →
          g ≠ [] ∧ 320 < (form (g ++ after.flatten) marks).length ∧
          ∀ f rest, after.flatten = f :: rest → 320 < (form (g ++ [f]) ['+']).length) := by
  intro hex digits line form run
  have own : twoDigits station = digits := twoDigits_eq small
  have lined : ∀ start content, closeFrame start content = line start content := fun start content => closeFrame_eq start content rfl
  have formed : ∀ part mark, form part mark = replyFrame station command status part mark := fun part mark => by
    unfold replyFrame
    rw [lined, own, commaFields_eq]
    show line '<' _ = line '<' _
    congr 1
    simp
  refine ⟨fun n => ?_, fun whole => ?_, fun closes single => ?_⟩
  · unfold noticeFrame
    rw [lined, own, commaFields_eq]
  · rw [formed] at whole ⊢
    exact if_pos whole
  · rw [formed] at closes
    have divided := replyRun_divides station command status marks closes (fields.length + 1) fields (Nat.lt_succ_self _)
      fun f hf => by have := single f hf; rwa [formed] at this
    simp only [formed]
    exact divided

theorem linkMarks_eq (overrun framing overflow : Bool) :
    let letters := (if overrun then ['O'] else []) ++ (if framing then ['F'] else []) ++ (if overflow then ['N'] else [])
    linkMarks overrun framing overflow = if letters = [] then ['-'] else letters := by
  cases overrun <;> cases framing <;> cases overflow <;> rfl

end Sys2Proof.Machine
end

section
/-! A command does not look at the receive buffer: two runs of it on states that differ in the buffer alone end in such states,
and while one is outstanding no frame can be taken (R189, R190). -/

namespace Sys2Proof.Machine

/-- The second state is the first with another receive buffer, and a command or a reply is outstanding. -/
structure Twin (b : List Frame) (s t : State) : Prop where
  same : t = { s with hlk := { s.hlk with buffer := b } }
  held : canTake s = false

section
variable {b : List Frame} {s t : State}

/-! ## The link -/

theorem startReply_twin (h : Twin b s t) (r : Reply) : Twin b (startReply r s) (startReply r t) := by
  obtain ⟨rfl, _⟩ := h
  exact ⟨rfl, Bool.and_false _⟩

theorem startNotice_twin (h : Twin b s t) : Twin b (startNotice s) (startNotice t) := by
  obtain ⟨rfl, held⟩ := h
  unfold startNotice
  dsimp only
  split <;> exact ⟨rfl, held⟩

theorem transmit_twin (h : Twin b s t) : Twin b (transmit s) (transmit t) := by
  have on : linkOn t = linkOn s := by rw [h.same]; rfl
  unfold transmit
  rw [on]
  obtain ⟨rfl, held⟩ := h
  dsimp only
  split
  · split
    · split
      · exact startReply_twin ⟨rfl, by exact held⟩ _
      · exact startNotice_twin ⟨rfl, by exact held⟩
    · exact startNotice_twin ⟨rfl, by exact held⟩
  · exact ⟨rfl, held⟩

theorem placeReply_twin (h : Twin b s t) (command : Text) (status : Status) (fields : List Text) (link : Option LinkSettings) :
    Twin b (placeReply command status fields link s) (placeReply command status fields link t) := by
  obtain ⟨rfl, _⟩ := h
  exact transmit_twin ⟨rfl, rfl⟩

theorem answer_twin (h : Twin b s t) (status : Status) (fields : List Text) :
    Twin b (answer status fields s) (answer status fields t) := by
  obtain ⟨rfl, held⟩ := h
  unfold answer
  dsimp only
  split
  · exact placeReply_twin ⟨rfl, by exact held⟩ _ _ _ _
  · exact ⟨rfl, held⟩

theorem postNotice_twin (h : Twin b s t) (kind : NoticeKind) (fields : List Text) :
    Twin b (postNotice kind fields s) (postNotice kind fields t) := by
  obtain ⟨rfl, held⟩ := h
  unfold postNotice
  dsimp only
  split
  · exact ⟨rfl, held⟩
  · split
    · exact transmit_twin ⟨rfl, by exact held⟩
    · exact ⟨rfl, held⟩

theorem postWithReading_twin (h : Twin b s t) (kind : NoticeKind) (fields : Time → List Text) :
    Twin b (postWithReading kind fields s) (postWithReading kind fields t) := by
  obtain ⟨rfl, held⟩ := h
  unfold postWithReading
  exact postNotice_twin ⟨rfl, by exact held⟩ _ _

/-! ## The medium and the queue of records -/

theorem answerRead_twin (h : Twin b s t) (q : ReadRequest) (bytes : List Byte) (place : Text) (mismatch : Bool) :
    Twin b (answerRead q bytes place mismatch s) (answerRead q bytes place mismatch t) := by
  obtain ⟨rfl, held⟩ := h
  unfold answerRead
  exact answer_twin ⟨rfl, by exact held⟩ _ _

theorem answerUnavailable_twin (h : Twin b s t) : Twin b (answerUnavailable s) (answerUnavailable t) := by
  obtain ⟨rfl, held⟩ := h
  unfold answerUnavailable
  exact answer_twin ⟨rfl, by exact held⟩ _ _

theorem startProgram_twin (h : Twin b s t) : Twin b (startProgram s) (startProgram t) := by
  obtain ⟨rfl, held⟩ := h
  unfold startProgram
  dsimp only
  split
  · exact ⟨rfl, held⟩
  · split <;> exact ⟨rfl, held⟩

theorem startErase_twin (h : Twin b s t) (sector : Nat) : Twin b (startErase sector s) (startErase sector t) := by
  obtain ⟨rfl, held⟩ := h
  exact ⟨rfl, held⟩

theorem programOrRest_twin (h : Twin b s t) :
    Twin b (if canProgram s.evs then startProgram s else s) (if canProgram t.evs then startProgram t else t) := by
  have same : t.evs = s.evs := by rw [h.same]
  rw [same]
  split
  · exact startProgram_twin h
  · exact h

theorem startRead_twin (h : Twin b s t) (q : ReadRequest) : Twin b (startRead q s) (startRead q t) := by
  obtain ⟨rfl, held⟩ := h
  unfold startRead
  dsimp only
  split
  · exact ⟨rfl, held⟩
  · have answered := answerRead_twin (b := b) (s := { s with evs := { s.evs with waitingRead := none } }) ⟨rfl, by exact held⟩ q
    exact programOrRest_twin (answered _ _ _)
  · exact programOrRest_twin (answerUnavailable_twin (s := { s with evs := { s.evs with waitingRead := none } }) ⟨rfl, by exact held⟩)

theorem ordinaryChoice_twin (h : Twin b s t) : Twin b (ordinaryChoice s) (ordinaryChoice t) := by
  have reads : startableRead t = startableRead s := by rw [h.same]; rfl
  unfold ordinaryChoice
  rw [reads]
  obtain ⟨rfl, held⟩ := h
  dsimp only
  split
  · exact startErase_twin ⟨rfl, by exact held⟩ _
  · exact startRead_twin ⟨rfl, by exact held⟩ _
  · exact programOrRest_twin ⟨rfl, by exact held⟩
  · split
    · exact startProgram_twin ⟨rfl, by exact held⟩
    · exact startRead_twin ⟨rfl, by exact held⟩ _
  · exact programOrRest_twin ⟨rfl, by exact held⟩

theorem eraseAllChoice_twin (h : Twin b s t) : Twin b (eraseAllChoice s) (eraseAllChoice t) := by
  obtain ⟨rfl, held⟩ := h
  unfold eraseAllChoice
  dsimp only
  split
  · exact startProgram_twin ⟨rfl, by exact held⟩
  · split
    · exact startErase_twin ⟨rfl, by exact held⟩ _
    · exact ⟨rfl, held⟩

theorem mediumChoice_twin (h : Twin b s t) : Twin b (mediumChoice s) (mediumChoice t) := by
  have usable : mediumUsable t = mediumUsable s := by rw [h.same]; rfl
  unfold mediumChoice
  rw [usable]
  obtain ⟨rfl, held⟩ := h
  dsimp only
  split
  · exact ⟨rfl, held⟩
  · split
    · exact ⟨rfl, held⟩
    · exact eraseAllChoice_twin ⟨rfl, by exact held⟩
    all_goals exact ordinaryChoice_twin ⟨rfl, by exact held⟩

theorem takeRecord_twin (h : Twin b s t) (r : Record) : Twin b (takeRecord r s) (takeRecord r t) := by
  obtain ⟨rfl, held⟩ := h
  unfold takeRecord
  exact mediumChoice_twin ⟨rfl, by exact held⟩

theorem Twin.recordTaken (h : Twin b s t) : recordTaken t = Machine.recordTaken s := by rw [h.same]; rfl

theorem offer_twin (h : Twin b s t) (kind : RecordKind) (payload : List Byte) :
    Twin b (offer kind payload s) (offer kind payload t) := by
  unfold offer
  rw [h.recordTaken]
  obtain ⟨rfl, held⟩ := h
  split
  · exact takeRecord_twin ⟨rfl, by exact held⟩ _
  · exact ⟨rfl, held⟩

theorem offerTimeRecord_twin (h : Twin b s t) (payload : List Byte) (time : Time) (quality : Quality) :
    Twin b (offerTimeRecord payload time quality s) (offerTimeRecord payload time quality t) := by
  unfold offerTimeRecord
  rw [h.recordTaken]
  obtain ⟨rfl, held⟩ := h
  split
  · exact takeRecord_twin ⟨rfl, by exact held⟩ _
  · exact ⟨rfl, held⟩

theorem offerSettings_twin (h : Twin b s t) (cause : SettingsCause) : Twin b (offerSettings cause s) (offerSettings cause t) := by
  obtain ⟨rfl, held⟩ := h
  unfold offerSettings
  exact offer_twin ⟨rfl, by exact held⟩ _ _

theorem postStore_twin (h : Twin b s t) (direction : String) (state : StoreState) (reason : String) :
    Twin b (postStore direction state reason s) (postStore direction state reason t) := by
  obtain ⟨rfl, held⟩ := h
  unfold postStore
  exact postWithReading_twin ⟨rfl, by exact held⟩ _ _

theorem clearProtection_twin (h : Twin b s t) : Twin b (clearProtection s) (clearProtection t) := by
  obtain ⟨rfl, held⟩ := h
  unfold clearProtection
  dsimp only
  split
  · exact mediumChoice_twin (postStore_twin ⟨rfl, by exact held⟩ _ _ _)
  · exact mediumChoice_twin ⟨rfl, by exact held⟩

/-! ## The bank -/

theorem cellTakes_twin (h : Twin b s t) (item : Item) (i : Nat) : Twin b (cellTakes item s i) (cellTakes item t i) := by
  obtain ⟨rfl, held⟩ := h
  unfold cellTakes
  dsimp only
  split
  · split
    · exact postWithReading_twin ⟨rfl, by exact held⟩ _ _
    · exact ⟨rfl, held⟩
  · exact ⟨rfl, held⟩

theorem cellsTake_twin (item : Item) (cells : List Nat) (h : Twin b s t) :
    Twin b (cells.foldl (cellTakes item) s) (cells.foldl (cellTakes item) t) := by
  induction cells generalizing s t with
  | nil => exact h
  | cons i rest ih => exact ih (cellTakes_twin h item i)

theorem surveyTakes_twin (h : Twin b s t) (item : Item) : Twin b (surveyTakes item s) (surveyTakes item t) := by
  obtain ⟨rfl, held⟩ := h
  unfold surveyTakes
  dsimp only
  split <;> exact ⟨rfl, held⟩

theorem matricesTake_twin (h : Twin b s t) (item : Item) : Twin b (matricesTake item s) (matricesTake item t) := by
  obtain ⟨rfl, held⟩ := h
  cases item <;> exact ⟨rfl, held⟩

theorem handItem_twin (h : Twin b s t) (item : Item) : Twin b (handItem item s) (handItem item t) :=
  matricesTake_twin (surveyTakes_twin (cellsTake_twin item _ h) item) item

/-! ## The settings and the survey -/

theorem concludeSurvey_twin (h : Twin b s t) (cause : VerdictCause) (after : SurveyState) :
    Twin b (concludeSurvey cause after s) (concludeSurvey cause after t) := by
  have verdict : formVerdict cause t = formVerdict cause s := by rw [h.same]; rfl
  unfold concludeSurvey
  rw [verdict]
  obtain ⟨same, held⟩ := offer_twin h .vdt (formVerdict cause s).payload
  dsimp only
  rw [same]
  exact postNotice_twin ⟨rfl, by exact held⟩ _ _

theorem applyStaged_twin (h : Twin b s t) : Twin b (applyStaged s) (applyStaged t) := by
  obtain ⟨rfl, held⟩ := h
  unfold applyStaged
  dsimp only
  split
  · exact ⟨rfl, held⟩
  · generalize (if s.svc.survey.state = .running then _ else s.svc.survey : SurveyContext) = survey
    have written : Twin b
        { activate s.svc.staged s with svc := { (activate s.svc.staged s).svc with staged := [], survey := survey } }
        { activate s.svc.staged { s with hlk := { s.hlk with buffer := b } } with
          svc := { (activate s.svc.staged { s with hlk := { s.hlk with buffer := b } }).svc with staged := [], survey := survey } } :=
      ⟨rfl, held⟩
    obtain ⟨same, held'⟩ := offerSettings_twin written .appliedAtClosure
    exact ⟨by rw [same]; rfl, held'⟩

/-- The survey RUNNING from its start record, over the state that its offer leaves (R108). -/
def surveyBegun (c : SurveyContext) (mark id : Nat) (dropped : Bool) (q : State) : State :=
  { q with
    svc := { q.svc with survey := { c with
        state := .running
        startMark := some mark
        endMark := some (mark + c.days.getD 0 * 86400)
        id := some id
        protectionStart := some id
        startDropped := some dropped
        generationsApplied := some 0 } }
    evs := { q.evs with protectionStart := some id } }

/-- The counts cleared for a survey that starts (R89). -/
def surveyCleared (s : State) : State := { clearSurveyCounts s with evs := { (clearSurveyCounts s).evs with surveyDrops := 0 } }

theorem startSurvey_eq (mark : Nat) (s : State) : startSurvey mark s = surveyBegun s.svc.survey mark
    (nextSequence (surveyCleared s).evs) (!recordTaken (surveyCleared s)) (offer .svy (surveyStartPayload
      (s.svc.survey.requestedStart.getD 0) (s.svc.survey.armedMark.getD 0) (s.svc.survey.days.getD 0) mark
      (mark + s.svc.survey.days.getD 0 * 86400)) (surveyCleared s)) := rfl

theorem startSurvey_twin (h : Twin b s t) (mark : Nat) : Twin b (startSurvey mark s) (startSurvey mark t) := by
  have cleared : Twin b (surveyCleared s) (surveyCleared t) := by
    obtain ⟨rfl, held⟩ := h
    exact ⟨rfl, held⟩
  have next : nextSequence (surveyCleared t).evs = nextSequence (surveyCleared s).evs := by rw [cleared.same]
  have survey : t.svc.survey = s.svc.survey := by rw [h.same]
  rw [startSurvey_eq, startSurvey_eq, next, cleared.recordTaken, survey]
  obtain ⟨same, held⟩ := offer_twin cleared .svy (surveyStartPayload (s.svc.survey.requestedStart.getD 0)
    (s.svc.survey.armedMark.getD 0) (s.svc.survey.days.getD 0) mark (mark + s.svc.survey.days.getD 0 * 86400))
  rw [same]
  exact ⟨rfl, held⟩

theorem countSkipped_twin (h : Twin b s t) (skipped : Nat) : Twin b (countSkipped skipped s) (countSkipped skipped t) := by
  obtain ⟨rfl, held⟩ := h
  unfold countSkipped
  dsimp only
  split <;> exact ⟨rfl, held⟩

theorem advanceSurvey_twin (h : Twin b s t) (k : Closure) : Twin b (advanceSurvey k s) (advanceSurvey k t) := by
  obtain ⟨rfl, held⟩ := h
  unfold advanceSurvey
  dsimp only
  split
  · split
    · split
      · exact startSurvey_twin ⟨rfl, by exact held⟩ _
      · exact ⟨rfl, held⟩
    · exact ⟨rfl, held⟩
  · split
    · exact concludeSurvey_twin (countSkipped_twin ⟨rfl, by exact held⟩ _) _ _
    · exact countSkipped_twin ⟨rfl, by exact held⟩ _
  all_goals exact ⟨rfl, held⟩

theorem takeClosure_twin (h : Twin b s t) (k : Closure) : Twin b (takeClosure k s) (takeClosure k t) :=
  advanceSurvey_twin (applyStaged_twin h) k

/-! ## The detector and the interval aggregator at a halt -/

theorem setContext_twin (h : Twin b s t) (kind : EventKind) (c : Option Context) :
    Twin b (setContext kind c s) (setContext kind c t) := by
  obtain ⟨rfl, held⟩ := h
  exact ⟨rfl, held⟩

theorem closeRecord_twin (h : Twin b s t) (c : Context) (k : CloseAt) : Twin b (closeRecord c k s) (closeRecord c k t) := by
  have sequence : offeredSequence t = offeredSequence s := by rw [h.same]; rfl
  have posted : Twin b (postClose c k (offeredSequence s) (offer .evt (c.record k).payload s))
      (postClose c k (offeredSequence s) (offer .evt (c.record k).payload t)) :=
    postNotice_twin (offer_twin h .evt (c.record k).payload) _ _
  unfold closeRecord
  rw [sequence]
  dsimp only
  split
  · exact setContext_twin posted _ _
  · exact setContext_twin (handItem_twin posted _) _ _

theorem stopRecord_twin (h : Twin b s t) (kind : EventKind) : Twin b (stopRecord s kind) (stopRecord t kind) := by
  obtain ⟨rfl, held⟩ := h
  unfold stopRecord
  dsimp only
  split
  · exact closeRecord_twin ⟨rfl, by exact held⟩ _ _
  · exact ⟨rfl, held⟩

theorem stopRecords_twin (h : Twin b s t) : Twin b (stopRecords s) (stopRecords t) :=
  stopRecord_twin (stopRecord_twin (stopRecord_twin h _) _) _

theorem endPeriod_twin (h : Twin b s t) : Twin b (endPeriod s) (endPeriod t) := by
  obtain ⟨rfl, held⟩ := h
  unfold endPeriod
  dsimp only
  split
  · exact handItem_twin ⟨rfl, by exact held⟩ _
  · exact ⟨rfl, held⟩

theorem endWindow_twin (h : Twin b s t) (endTime : Time) : Twin b (endWindow endTime s) (endWindow endTime t) := by
  obtain ⟨rfl, held⟩ := h
  unfold endWindow
  dsimp only
  split
  · exact handItem_twin ⟨rfl, by exact held⟩ _
  · exact ⟨rfl, held⟩

theorem noInterval_twin (h : Twin b s t) : Twin b { s with iva := { s.iva with interval := none } }
    { t with iva := { t.iva with interval := none } } := by
  obtain ⟨rfl, held⟩ := h
  exact ⟨rfl, held⟩

theorem intervalHanded_twin (h : Twin b s t) (i : Interval) (cause : ClosureCause) (closeTime : Time) :
    Twin b (intervalHanded i cause closeTime s) (intervalHanded i cause closeTime t) := by
  have sequence : offeredSequence t = offeredSequence s := by rw [h.same]; rfl
  have record : i.record closeTime (cause == .halt) t = i.record closeTime (cause == .halt) s := by
    rw [h.same]
    rfl
  unfold intervalHanded intervalItem intervalPosted
  rw [sequence, record]
  exact handItem_twin (postNotice_twin (offer_twin h _ _) _ _) _

theorem closeInterval_twin (h : Twin b s t) (cause : ClosureCause) (closeTime : Time) (opened : Option Nat) :
    Twin b (closeInterval cause closeTime opened s) (closeInterval cause closeTime opened t) := by
  have interval : t.iva.interval = s.iva.interval := by rw [h.same]
  cases held : s.iva.interval with
  | none =>
    rw [closeInterval_none held, closeInterval_none (interval.trans held)]
    exact h
  | some i =>
    have closure : closureOf i cause closeTime opened t = closureOf i cause closeTime opened s := by
      rw [h.same]
      rfl
    rw [closeInterval_some held, closeInterval_some (interval.trans held), closure]
    exact takeClosure_twin (noInterval_twin (intervalHanded_twin h i cause closeTime)) _

theorem haltPeriod_twin (h : Twin b s t) : Twin b (haltPeriod s) (haltPeriod t) := by
  obtain ⟨rfl, held⟩ := h
  unfold haltPeriod
  exact endPeriod_twin ⟨rfl, by exact held⟩

theorem haltOpened_twin (h : Twin b s t) : Twin b (haltOpened s) (haltOpened t) := by
  obtain ⟨rfl, held⟩ := h
  unfold haltOpened
  dsimp only
  split <;> exact ⟨rfl, held⟩

theorem addCloses_twin (h : Twin b s t) (n : Nat) : Twin b (addCloses n s) (addCloses n t) := by
  obtain ⟨rfl, held⟩ := h
  exact ⟨rfl, held⟩

theorem haltMarked_twin (h : Twin b s t) : Twin b (haltMarked s) (haltMarked t) := by
  obtain ⟨rfl, held⟩ := h
  exact ⟨rfl, held⟩

theorem haltIntervals_twin (h : Twin b s t) (stops : Nat) : Twin b (haltIntervals stops s) (haltIntervals stops t) := by
  have time : haltTime t = haltTime s := by rw [h.same]; rfl
  have closed := closeInterval_twin (haltMarked_twin (addCloses_twin (endWindow_twin (haltPeriod_twin (haltOpened_twin h))
    (haltTime s)) stops)) .halt (haltTime s) none
  unfold haltIntervals
  rw [time]
  dsimp only
  obtain ⟨same, held⟩ := closed
  rw [same]
  exact ⟨rfl, held⟩

theorem stopBlocks_twin (h : Twin b s t) : Twin b (stopBlocks s) (stopBlocks t) := by
  have open' : t.evd.openCount = s.evd.openCount := by rw [h.same]
  unfold stopBlocks
  rw [open']
  dsimp only
  obtain ⟨same, held⟩ := haltIntervals_twin (stopRecords_twin h) s.evd.openCount
  rw [same]
  exact ⟨rfl, held⟩

/-! ## The timebase -/

theorem postQuality_twin (h : Twin b s t) (before : Quality) (cause : QualityCause) :
    Twin b (postQuality before cause s) (postQuality before cause t) := by
  obtain ⟨rfl, held⟩ := h
  unfold postQuality
  dsimp only
  split
  · exact ⟨rfl, held⟩
  · exact postWithReading_twin ⟨rfl, by exact held⟩ _ _

theorem changeQuality_twin (h : Twin b s t) (after : Quality) (cause : QualityCause) :
    Twin b (changeQuality after cause s) (changeQuality after cause t) := by
  obtain ⟨rfl, held⟩ := h
  unfold changeQuality
  exact postQuality_twin ⟨rfl, by exact held⟩ _ _

theorem signalStep_twin (h : Twin b s t) : Twin b (signalStep s) (signalStep t) := by
  obtain ⟨rfl, held⟩ := h
  unfold signalStep
  dsimp only
  split <;> exact ⟨rfl, held⟩

theorem reportStep_twin (h : Twin b s t) (step : OwedStep) : Twin b (reportStep step s) (reportStep step t) := by
  have runs : blocksRun t = blocksRun s := by rw [h.same]; rfl
  unfold reportStep
  rw [runs]
  split
  · exact signalStep_twin (offerTimeRecord_twin h _ _ _)
  · obtain ⟨rfl, held⟩ := h
    exact ⟨rfl, held⟩

theorem timeStep_twin (h : Twin b s t) (cause : StepCause) (seconds sub : Nat) (after : Quality) (errors : List Int) :
    Twin b (timeStep cause seconds sub after errors s) (timeStep cause seconds sub after errors t) := by
  obtain ⟨rfl, held⟩ := h
  unfold timeStep
  exact postQuality_twin (reportStep_twin ⟨rfl, by exact held⟩ _) _ _

end

end Sys2Proof.Machine
end

section
/-! Each command does not look at the receive buffer (R189, R190). -/

namespace Sys2Proof.Machine

section
variable {b : List Frame} {s t : State}

/-! ## Commands that answer, with a change of their own block at most -/

/-- A command without fields that reads the state and answers. -/
theorem query_twin (h : Twin b s t) (fields : List Text) {given given' : List Text} (same : given' = given) :
    Twin b (if fields ≠ [] then answer .syn [] s else answer .ok given s)
      (if fields ≠ [] then answer .syn [] t else answer .ok given' t) := by
  rw [same]
  split <;> exact answer_twin h _ _

theorem runPhm_twin (h : Twin b s t) (fields : List Text) : Twin b (runPhm fields s) (runPhm fields t) := by
  obtain ⟨rfl, held⟩ := h
  unfold runPhm
  split <;> exact answer_twin ⟨rfl, by exact held⟩ _ _

theorem runTlf_twin (h : Twin b s t) (fields : List Text) : Twin b (runTlf fields s) (runTlf fields t) := by
  obtain ⟨rfl, held⟩ := h
  unfold runTlf
  split <;> exact answer_twin ⟨rfl, by exact held⟩ _ _

theorem runTlu_twin (h : Twin b s t) (fields : List Text) : Twin b (runTlu fields s) (runTlu fields t) := by
  obtain ⟨rfl, held⟩ := h
  unfold runTlu
  split <;> exact answer_twin ⟨rfl, by exact held⟩ _ _

theorem runTlm_twin (h : Twin b s t) (fields : List Text) : Twin b (runTlm fields s) (runTlm fields t) := by
  obtain ⟨rfl, held⟩ := h
  unfold runTlm
  dsimp only
  repeat' split
  all_goals exact answer_twin ⟨rfl, by exact held⟩ _ _

theorem runTlc_twin (h : Twin b s t) (fields : List Text) : Twin b (runTlc fields s) (runTlc fields t) := by
  obtain ⟨rfl, held⟩ := h
  unfold runTlc
  dsimp only
  repeat' split
  all_goals exact answer_twin ⟨rfl, by exact held⟩ _ _

theorem runTlr_twin (h : Twin b s t) (fields : List Text) : Twin b (runTlr fields s) (runTlr fields t) := by
  obtain ⟨rfl, held⟩ := h
  unfold runTlr
  dsimp only
  repeat' split
  all_goals exact answer_twin ⟨rfl, by exact held⟩ _ _

theorem runTlx_twin (h : Twin b s t) (fields : List Text) : Twin b (runTlx fields s) (runTlx fields t) := by
  obtain ⟨rfl, held⟩ := h
  unfold runTlx
  dsimp only
  repeat' split
  all_goals exact answer_twin ⟨rfl, by exact held⟩ _ _

theorem runTim_twin (h : Twin b s t) (fields : List Text) : Twin b (runTim fields s) (runTim fields t) := by
  obtain ⟨rfl, held⟩ := h
  unfold runTim
  dsimp only
  split <;> exact answer_twin ⟨rfl, by exact held⟩ _ _

theorem runLnk_twin (h : Twin b s t) (fields : List Text) : Twin b (runLnk fields s) (runLnk fields t) := by
  obtain ⟨rfl, held⟩ := h
  unfold runLnk
  dsimp only
  split
  · exact answer_twin ⟨rfl, by exact held⟩ _ _
  · split
    · exact answer_twin ⟨rfl, by exact held⟩ _ _
    · split
      · exact placeReply_twin ⟨rfl, by exact held⟩ _ _ _ _
      · exact answer_twin ⟨rfl, by exact held⟩ _ _

theorem runGet_twin (h : Twin b s t) (fields : List Text) : Twin b (runGet fields s) (runGet fields t) := by
  obtain ⟨rfl, held⟩ := h
  unfold runGet
  dsimp only
  repeat' split
  all_goals exact answer_twin ⟨rfl, by exact held⟩ _ _

/-! ## Commands on the settings, the measurement and the survey -/

theorem activate_twin (h : Twin b s t) (values : List (Setting × Int)) : Twin b (activate values s) (activate values t) := by
  obtain ⟨rfl, held⟩ := h
  exact ⟨rfl, held⟩

theorem applyAtOnce_twin (h : Twin b s t) (values : List (Setting × Int)) :
    Twin b (applyAtOnce values s) (applyAtOnce values t) := by
  have written := activate_twin h values
  have generation : (activate values t).svc.generation = (activate values s).svc.generation := by rw [written.same]
  unfold applyAtOnce
  dsimp only
  rw [generation]
  exact answer_twin (offerSettings_twin written _) _ _

theorem runSet_twin (h : Twin b s t) (fields : List Text) : Twin b (runSet fields s) (runSet fields t) := by
  have locks : surveyLocks t = surveyLocks s := by rw [h.same]; rfl
  unfold runSet
  rw [locks]
  obtain ⟨rfl, held⟩ := h
  dsimp only
  split
  · exact answer_twin ⟨rfl, by exact held⟩ _ _
  · split
    · exact answer_twin ⟨rfl, by exact held⟩ _ _
    · split
      · exact answer_twin ⟨rfl, by exact held⟩ _ _
      · split
        · unfold stage
          exact answer_twin ⟨rfl, by exact held⟩ _ _
        · exact applyAtOnce_twin ⟨rfl, by exact held⟩ _

theorem runGo_twin (h : Twin b s t) : Twin b (runGo s) (runGo t) := by
  obtain ⟨rfl, held⟩ := h
  unfold runGo startMeasurement
  dsimp only
  split
  · exact answer_twin ⟨rfl, by exact held⟩ _ _
  · exact answer_twin (offer_twin ⟨rfl, by exact held⟩ _ _) _ _

theorem runHalt_twin (h : Twin b s t) : Twin b (runHalt s) (runHalt t) := by
  have locks : surveyLocks t = surveyLocks s := by rw [h.same]; rfl
  have measuring : t.svc.measuring = s.svc.measuring := by rw [h.same]
  unfold runHalt stopMeasurement
  rw [locks, measuring]
  split
  · exact answer_twin h _ _
  · split
    · exact answer_twin h _ _
    · exact answer_twin (offer_twin (stopBlocks_twin h) _ _) _ _

theorem runMea_twin (h : Twin b s t) (fields : List Text) : Twin b (runMea fields s) (runMea fields t) := by
  unfold runMea
  split
  · exact runGo_twin h
  · split
    · exact runHalt_twin h
    · exact answer_twin h _ _

theorem runSvs_twin (h : Twin b s t) (fields : List Text) : Twin b (runSvs fields s) (runSvs fields t) := by
  have seconds : ∀ r : RequestedStart, r.seconds t = r.seconds s := fun r => by rw [h.same]; cases r <;> rfl
  have forbidden : svsForbidden t = svsForbidden s := by rw [h.same]; rfl
  unfold runSvs armSurvey
  dsimp only
  split
  · exact answer_twin h _ _
  · rename_i start days _
    rw [seconds, forbidden]
    split
    · exact answer_twin h _ _
    · split
      · exact answer_twin h _ _
      · obtain ⟨rfl, held⟩ := h
        cases start <;> exact answer_twin ⟨rfl, by exact held⟩ _ _

theorem runSva_twin (h : Twin b s t) (fields : List Text) : Twin b (runSva fields s) (runSva fields t) := by
  obtain ⟨rfl, held⟩ := h
  unfold runSva
  dsimp only
  split
  · exact answer_twin ⟨rfl, by exact held⟩ _ _
  · split
    case h_2 => exact answer_twin (concludeSurvey_twin ⟨rfl, by exact held⟩ _ _) _ _
    all_goals exact answer_twin ⟨rfl, by exact held⟩ _ _

theorem noSurvey_twin (h : Twin b s t) : Twin b { s with svc := { s.svc with survey := SurveyContext.idle } }
    { t with svc := { t.svc with survey := SurveyContext.idle } } := by
  obtain ⟨rfl, held⟩ := h
  exact ⟨rfl, held⟩

theorem releaseSurvey_twin (h : Twin b s t) : Twin b (releaseSurvey s) (releaseSurvey t) := by
  have survey : t.svc.survey = s.svc.survey := by rw [h.same]
  unfold releaseSurvey
  rw [survey]
  exact answer_twin (noSurvey_twin (clearProtection_twin (offer_twin h _ _))) _ _

theorem runSvr_twin (h : Twin b s t) (fields : List Text) : Twin b (runSvr fields s) (runSvr fields t) := by
  have survey : t.svc.survey = s.svc.survey := by rw [h.same]
  unfold runSvr
  rw [survey]
  split
  · exact answer_twin h _ _
  · split
    · exact releaseSurvey_twin h
    · exact releaseSurvey_twin h
    all_goals exact answer_twin h _ _

/-! ## Commands on the timebase and the store -/

theorem runTis_twin (h : Twin b s t) (broadcast : Bool) (fields : List Text) :
    Twin b (runTis broadcast fields s) (runTis broadcast fields t) := by
  have quality : t.tmb.quality = s.tmb.quality := by rw [h.same]
  unfold runTis setTime
  split
  · exact answer_twin h _ _
  · rename_i seconds ms _
    split
    · rw [quality]
      have stepped := timeStep_twin h (if broadcast then .broadcast else .host) seconds (msToSub ms) s.tmb.quality.afterTis []
      have clock := congrArg State.tmb stepped.same
      dsimp only at clock ⊢
      rw [clock]
      exact answer_twin stepped _ _
    · exact answer_twin h _ _

theorem withReference_twin (h : Twin b s t) (enabled : Bool) (polarity : Polarity) :
    Twin b { s with tmb := s.tmb.withReference enabled polarity } { t with tmb := t.tmb.withReference enabled polarity } := by
  obtain ⟨rfl, held⟩ := h
  exact ⟨rfl, held⟩

theorem runTrf_twin (h : Twin b s t) (fields : List Text) : Twin b (runTrf fields s) (runTrf fields t) := by
  have quality : t.tmb.quality = s.tmb.quality := by rw [h.same]
  have written := fun enabled polarity => withReference_twin h enabled polarity
  unfold runTrf setReference
  dsimp only
  split
  · exact answer_twin h _ _
  · rename_i enabled polarity _
    rw [quality]
    split
    · exact answer_twin (offerSettings_twin (changeQuality_twin (written enabled polarity) _ _) _) _ _
    · exact answer_twin (offerSettings_twin (written enabled polarity) _) _ _

theorem read_twin (h : Twin b s t) (q : ReadRequest) : Twin b (read q s) (read q t) := by
  obtain ⟨rfl, held⟩ := h
  unfold read
  dsimp only
  split
  · exact answerRead_twin ⟨rfl, by exact held⟩ _ _ _ _
  · exact mediumChoice_twin ⟨rfl, by exact held⟩
  · exact answerUnavailable_twin ⟨rfl, by exact held⟩

theorem runReadOf_twin (h : Twin b s t) (form : ReadForm) (fields : List Text) :
    Twin b (runReadOf form fields s) (runReadOf form fields t) := by
  unfold runReadOf
  split
  · split
    · split
      · exact read_twin h _
      · exact answer_twin h _ _
    · exact answer_twin h _ _
  · exact answer_twin h _ _

theorem runRdn_twin (h : Twin b s t) (fields : List Text) : Twin b (runRdn fields s) (runRdn fields t) := by
  have store : t.evs = s.evs := by rw [h.same]
  unfold runRdn
  rw [store]
  split
  · exact answer_twin h _ _
  · split
    · exact read_twin h _
    · exact answerUnavailable_twin h

theorem takeSte_twin (h : Twin b s t) : Twin b (takeSte s) (takeSte t) := by
  obtain ⟨rfl, held⟩ := h
  unfold takeSte
  dsimp only
  split
  · split <;> exact answer_twin ⟨rfl, by exact held⟩ _ _
  all_goals exact answer_twin ⟨rfl, by exact held⟩ _ _

theorem runSte_twin (h : Twin b s t) (fields : List Text) : Twin b (runSte fields s) (runSte fields t) := by
  obtain ⟨rfl, held⟩ := h
  unfold runSte
  dsimp only
  split
  · exact answer_twin ⟨rfl, by exact held⟩ _ _
  · split
    · split
      · exact mediumChoice_twin (takeSte_twin ⟨rfl, by exact held⟩)
      · exact takeSte_twin ⟨rfl, by exact held⟩
    · exact ⟨rfl, held⟩

/-- A command leaves of two such states two such states. -/
theorem runCommand_twin (h : Twin b s t) (c : Command) (fields : List Text) : Twin b (runCommand c fields s) (runCommand c fields t) :=
  match c with
  | .cal => query_twin h fields (by rw [h.same])
  | .mvh => query_twin h fields (by rw [h.same])
  | .phm => runPhm_twin h fields
  | .evl => query_twin h fields (by rw [h.same])
  | .mvw => query_twin h fields (by rw [h.same])
  | .mvf => query_twin h fields (by rw [h.same])
  | .tlc => runTlc_twin h fields
  | .tlr => runTlr_twin h fields
  | .tlx => runTlx_twin h fields
  | .tlf => runTlf_twin h fields
  | .tlu => runTlu_twin h fields
  | .tlm => runTlm_twin h fields
  | .set => runSet_twin h fields
  | .get => runGet_twin h fields
  | .mea => runMea_twin h fields
  | .svs => runSvs_twin h fields
  | .sva => runSva_twin h fields
  | .svr => runSvr_twin h fields
  | .svq => query_twin h fields (by rw [h.same]; rfl)
  | .svv => query_twin h fields (by rw [h.same])
  | .tis => runTis_twin h false fields
  | .trf => runTrf_twin h fields
  | .tim => runTim_twin h fields
  | .rdr => runReadOf_twin h .decoded fields
  | .rdx => runReadOf_twin h .raw fields
  | .rdn => runRdn_twin h fields
  | .stq => query_twin h fields (by rw [h.same])
  | .ste => runSte_twin h fields
  | .idn => query_twin h fields rfl
  | .lnk => runLnk_twin h fields
  | .sta => query_twin h fields (by rw [h.same]; rfl)

/-- A request reaches its owning block with another receive buffer, and leaves a command or a reply outstanding. -/
theorem handOver_twin (c : Command) (fields : List Text) (s : State) (b : List Frame) :
    Twin b (handOver c fields s) (handOver c fields { s with hlk := { s.hlk with buffer := b } }) := by
  unfold handOver
  dsimp only
  split
  · exact answer_twin ⟨rfl, rfl⟩ _ _
  · exact runCommand_twin ⟨rfl, rfl⟩ c fields

end

end Sys2Proof.Machine
end

section
/-! The transmitter (R186, R191 to R194, R197). -/

namespace Sys2Proof.Machine

section
variable {s : State}

/-! ## The choice of an IDLE transmitter (R192) -/

theorem transmit_rests (h : linkOn s = false ∨ s.hlk.transmitter ≠ .idle) : transmit s = s := by
  refine if_neg fun ⟨on, idle⟩ => ?_
  rcases h with off | busy
  · rw [off] at on
    cases on
  · exact busy idle

theorem transmit_replies {r : Reply} (on : linkOn s = true) (idle : s.hlk.transmitter = .idle) (reply : s.hlk.reply = some r)
    (due : r.due s.tmb.tick = true) : transmit s = startReply r s := by
  unfold transmit
  rw [if_pos ⟨on, idle⟩, reply]
  exact if_pos due

theorem transmit_notices (on : linkOn s = true) (idle : s.hlk.transmitter = .idle)
    (waits : ∀ r, s.hlk.reply = some r → r.due s.tmb.tick = false) : transmit s = startNotice s := by
  unfold transmit
  rw [if_pos ⟨on, idle⟩]
  split
  · rename_i r reply
    exact if_neg (by simp [waits r reply])
  · rfl

theorem replyDue_iff (r : Reply) (now : Tick) : r.due now = true ↔ r.eligible = true ∨ r.delay ≤ tickSpan r.formedAt now := by
  unfold Reply.due
  rw [Bool.or_eq_true, decide_eq_true_eq]

theorem replyWaits_iff (r : Reply) (now : Tick) : r.due now = false ↔ r.eligible = false ∧ tickSpan r.formedAt now < r.delay := by
  rw [Bool.eq_false_iff, Ne, replyDue_iff, not_or, not_le, Bool.not_eq_true]

theorem startNotice_eq (s : State) : startNotice s = match s.hlk.notices with
    | [] => s
    | n :: rest => { s with hlk := { s.hlk with
        transmitter := .notice n (noticeFrame s.hlk.settings.station n)
        notices := rest } } := rfl

/-- A reply is a run of one frame or more. -/
theorem replyRun_frames (station : Nat) (command : Text) (status : Status) (marks : Text) (fuel : Nat) (fields : List Text) :
    ∃ f rest, replyRun station command status marks fuel fields = f :: rest := by
  unfold replyRun
  split
  · exact ⟨_, _, rfl⟩
  · split <;> exact ⟨_, _, rfl⟩

/-! ## The end of a frame (R190 to R192) -/

theorem adopt_none {h : Hlk} (none' : h.adoption = none) : h.adopt = h := by
  unfold Hlk.adopt
  rw [none']

theorem adopt_some {h : Hlk} {l : LinkSettings} (some' : h.adoption = some l) : h.adopt =
    { h with settings := l, adoption := none, buffer := [], reception := none } := by
  unfold Hlk.adopt
  rw [some']
  rfl

theorem exec_frameSent_notice {n : Notice} {f : Text} (sends : s.hlk.transmitter = .notice n f) :
    exec .frameSent s = .next (transmitterIdle s) := by
  show Host.Outcome.next _ = _
  rw [sends]

theorem exec_frameSent_run {f next : Text} {rest : List Text} (sends : s.hlk.transmitter = .reply f (next :: rest)) :
    exec .frameSent s = .next { s with hlk := { s.hlk with transmitter := .reply next rest } } := by
  show Host.Outcome.next _ = _
  rw [sends]

theorem exec_frameSent_last {f : Text} (sends : s.hlk.transmitter = .reply f []) :
    exec .frameSent s = .next (transmitterIdle (endReply s)) := by
  show Host.Outcome.next _ = _
  rw [sends]

theorem endReply_plain {r : Reply} (reply : s.hlk.reply = some r) (link : r.link = none) :
    endReply s = { s with hlk := { s.hlk with reply := none } } := by
  unfold endReply
  rw [reply]
  dsimp only [Option.bind_some]
  rw [link]

theorem endReply_link {r : Reply} {l : LinkSettings} (reply : s.hlk.reply = some r) (link : r.link = some l) :
    endReply s = linkTakesEffect l { s with hlk := { s.hlk with reply := none } } := by
  unfold endReply
  rw [reply]
  dsimp only [Option.bind_some]
  rw [link]

/-- With no adoption and no frame that can be taken, the transmitter is IDLE and chooses. -/
theorem transmitterIdle_plain (adoption : s.hlk.adoption = none) (still : takeWaiting s = s) :
    transmitterIdle s = transmit { s with hlk := { s.hlk with transmitter := .idle } } := by
  unfold transmitterIdle
  rw [adopt_none adoption]
  dsimp only
  rw [still]

theorem transmitterIdle_adopts {l : LinkSettings} (adoption : s.hlk.adoption = some l) : transmitterIdle s =
    transmit { s with hlk := { s.hlk with
      settings := l
      adoption := none
      buffer := []
      reception := none
      transmitter := .idle } } := by
  unfold transmitterIdle
  rw [adopt_some adoption]
  dsimp only
  rw [takeWaiting_empty rfl]

/-- The first frame of the buffer is taken; while it is outstanding the others wait. -/
theorem takeWaiting_first {f : Frame} {later : List Frame} (buffer : s.hlk.buffer = f :: later) (can : canTake s = true)
    (holds : canTake (takeFrame f { s with hlk := { s.hlk with buffer := later } }) = false) :
    takeWaiting s = takeFrame f { s with hlk := { s.hlk with buffer := later } } := by
  have rests : ∀ n (u : State), canTake u = false → takeFrames n u = u := fun n u cannot => by
    cases n with
    | zero => rfl
    | succ n =>
      unfold takeFrames
      split
      · rfl
      · exact if_neg (by simp [cannot])
  unfold takeWaiting
  rw [buffer]
  show takeFrames (later.length + 1) s = _
  conv_lhs => unfold takeFrames
  rw [buffer]
  dsimp only
  rw [if_pos can]
  exact rests _ _ holds

/-- The next choice after a frame, with nothing more to send but notices. -/
theorem transmit_afterReply (on : linkOn s = true) (empty : s.hlk.reply = none) :
    transmit { s with hlk := { s.hlk with transmitter := .idle } } = { s with hlk := match s.hlk.notices with
      | [] => { s.hlk with transmitter := .idle }
      | n :: rest => { s.hlk with
          transmitter := .notice n (noticeFrame s.hlk.settings.station n)
          notices := rest } } := by
  have waits : ∀ r, s.hlk.reply = some r → r.due s.tmb.tick = false := fun r reply => by
    rw [reply] at empty
    cases empty
  rw [transmit_notices (by exact on) rfl (by exact waits), startNotice_eq]
  dsimp only
  cases s.hlk.notices <;> rfl

/-- After a last reply frame the frame that waits is taken, as its row would be, before the next choice (log entry 33). -/
theorem frameSent_takes {f : Text} {r : Reply} {i : Instr} {c : Command} {fields : List Text} {later : List Frame}
    (on : linkOn s = true) (adoption : s.hlk.adoption = none) (reception : s.hlk.reception = none)
    (free : s.hlk.inProgress = none) (sends : s.hlk.transmitter = .reply f []) (reply : s.hlk.reply = some r)
    (link : r.link = none) (form : requestForm i = some (c, fields)) (wf : wellFormedFields fields = true)
    (low : 1 ≤ s.hlk.settings.station) (buffer : s.hlk.buffer = requestFrame s.hlk.settings.station c fields :: later) :
    ∃ u, exec i { s with hlk := { s.hlk with reply := none, buffer := [] } } = .next u ∧
      exec .frameSent s = .next (transmit { u with hlk := { u.hlk with transmitter := .idle, buffer := later } }) := by
  obtain ⟨x, cleared⟩ : ∃ x : State, { s with hlk := { s.hlk with reply := none, buffer := [] } } = x := ⟨_, rfl⟩
  obtain ⟨y, emptied⟩ : ∃ y : State, { s with hlk := { s.hlk with reply := none } } = y := ⟨_, rfl⟩
  have once : takenAtOnce fields x = true := by
    rw [← cleared]
    simp [takenAtOnce, canTake, free, wf]
  have dropped : dropReception x = x := by
    rw [← cleared]
    unfold dropReception
    dsimp only
    rw [reception]
  have row : exec i x = .next (handOver c fields x) := by
    have taken : request c fields x = handOver c fields (dropReception x) :=
      (if_neg (by rw [← cleared]; exact fun off => off on)).trans (if_pos once)
    rw [exec_request form, taken, dropped]
  obtain ⟨same, held⟩ := handOver_twin c fields x later
  have reads : readFrame (requestFrame s.hlk.settings.station c fields) = .request c fields := requestFrameReadsBack _ c fields wf
  have next : takeFrame (requestFrame s.hlk.settings.station c fields) { y with hlk := { y.hlk with buffer := later } } =
      { handOver c fields x with hlk := { (handOver c fields x).hlk with buffer := later } } := by
    unfold takeFrame
    rw [reads, ← same, ← cleared, ← emptied]
    exact if_neg (by show s.hlk.settings.station ≠ 0; omega)
  have first := takeWaiting_first (s := y) (by rw [← emptied]; exact buffer)
    ((canTake_iff y).mpr (by rw [← emptied]; exact ⟨free, rfl⟩)) (by rw [next]; exact held)
  refine ⟨handOver c fields x, by rw [cleared]; exact row, ?_⟩
  rw [exec_frameSent_last sends, endReply_plain reply link, emptied]
  unfold transmitterIdle
  rw [adopt_none (by rw [← emptied]; exact adoption)]
  dsimp only
  rw [first, next]

/-- A reply that brings link settings puts them in force when it has been sent (R197). -/
theorem frameSent_links {f : Text} {r : Reply} {l : LinkSettings} (on : linkOn s = true) (one : s.OneRequest)
    (adoption : s.hlk.adoption = none) (sends : s.hlk.transmitter = .reply f []) (reply : s.hlk.reply = some r)
    (link : r.link = some l) : ∃ t, exec .frameSent s = .next t ∧ t = { s with tmb := t.tmb, evs := t.evs, hlk := t.hlk } ∧
      t.hlk.settings = l ∧ t.hlk.configMark = false ∧ t.hlk.buffer = [] ∧ t.hlk.reception = none ∧ t.hlk.reply = none ∧
      t.hlk.inProgress = none ∧ t.hlk.overrun = s.hlk.overrun ∧ t.hlk.framing = s.hlk.framing ∧
      t.hlk.overflow = s.hlk.overflow ∧ (t.hlk.notices = s.hlk.notices ∨ t.hlk.notices = s.hlk.notices.tail) ∧
      Queues s t .cfg (settingsPayload .link s.svc.active l s.tmb.enabled s.tmb.polarity) s.svc.generation := by
  have free : s.hlk.inProgress = none := by
    by_contra busy
    rw [one.slot busy] at reply
    cases reply
  have quiet : s.evs.waitingRead = none := one.no_read free
  obtain ⟨w, forced⟩ : ∃ w : State, { s with hlk := { s.hlk with
      reply := none
      buffer := []
      reception := none
      settings := l
      configMark := false } } = w := ⟨_, rfl⟩
  obtain ⟨payload, content⟩ : ∃ payload, settingsPayload .link s.svc.active l s.tmb.enabled s.tmb.polarity = payload := ⟨_, rfl⟩
  have ended : endReply s = offer .cfg payload w := by
    rw [endReply_link reply link, ← content, ← forced]
    rfl
  have others := offer_others .cfg payload w
  have unchanged := (offer_quiet .cfg payload (s := w) (by rw [← forced]; exact quiet)).1
  have queues := offer_queues .cfg payload w
  rw [exec_frameSent_last sends, ended]
  obtain ⟨q, whole⟩ : ∃ q, offer .cfg payload w = q := ⟨_, rfl⟩
  rw [whole] at others unchanged queues ⊢
  have on' : linkOn q = true := by
    rw [others, ← forced]
    exact on
  have reply' : q.hlk.reply = none := by rw [unchanged, ← forced]
  rw [transmitterIdle_plain (by rw [unchanged, ← forced]; exact adoption) (takeWaiting_empty (by rw [unchanged, ← forced])),
    transmit_afterReply on' reply', unchanged]
  refine ⟨_, rfl, ?_, ?_⟩
  · rw [others, ← forced]
  rw [content]
  have queued : Queues s q .cfg payload s.svc.generation := by
    rw [← forced] at queues
    exact queues.before (s' := s) rfl rfl rfl rfl
  rw [← forced]
  dsimp only
  cases notices : s.hlk.notices with
  | nil => exact ⟨rfl, rfl, rfl, rfl, rfl, free, rfl, rfl, rfl, .inl rfl, queued.after rfl⟩
  | cons n rest => exact ⟨rfl, rfl, rfl, rfl, rfl, free, rfl, rfl, rfl, .inr rfl, queued.after rfl⟩

end

/-- Settles O53. -/
theorem transmitterSendsRepliesBeforeNotices : Obligations.TransmitterSendsRepliesBeforeNotices := by
  refine ⟨fun station command status marks fields small => frames_divide station command status marks fields small,
    linkMarks_eq, fun s c status fields progress busy => ?_, fun s kind fields => ?_, fun s => ⟨transmit_rests, fun on idle => ?_⟩,
    fun s f r i c fields later on one adoption reception free sends reply link form wf low high buffer => ?_,
    fun s l on adoption => ?_, fun s on one adoption => ?_⟩
  · unfold answer placeReply
    rw [progress]
    exact transmit_rests (.inr busy)
  · intro admitted
    have mask : s.hlk.settings.mask.has kind = admitted := by cases kind <;> rfl
    unfold postNotice
    rw [mask]
    refine ⟨fun out => if_pos (by simp [out]), fun in' room => ?_, fun in' full => ?_⟩
    · rw [if_neg (by simp [in']), if_pos room]
    · rw [if_neg (by simp [in']), if_neg (not_lt.mpr full)]
  · intro waits
    refine ⟨fun r reply ready => ?_, fun waiting => ?_⟩
    · have due : r.due s.tmb.tick = true := by
        by_contra no
        refine ready fun x same => ?_
        obtain rfl := Option.some.inj (reply.symm.trans same)
        exact (replyWaits_iff r _).mp (Bool.not_eq_true _ ▸ no)
      obtain ⟨f, rest, run⟩ := replyRun_frames s.hlk.settings.station r.command r.status
        (linkMarks s.hlk.overrun s.hlk.framing s.hlk.overflow) (r.fields.length + 1) r.fields
      refine ⟨f, rest, run, ?_⟩
      rw [transmit_replies on idle reply due]
      unfold startReply
      dsimp only
      rw [run]
      rfl
    · rw [transmit_notices on idle fun r reply => (replyWaits_iff r _).mpr (waiting r reply)]
      rfl
  · exact frameSent_takes on adoption reception free sends reply link form wf low buffer
  · intro adopted
    refine ⟨fun f next rest sends => exec_frameSent_run sends, fun f r sends reply link => ?_, fun n f sends => ?_⟩
    · rw [exec_frameSent_last sends, endReply_plain reply link]
      exact congrArg Host.Outcome.next (transmitterIdle_adopts (s := { s with hlk := { s.hlk with reply := none } }) adoption)
    · rw [exec_frameSent_notice sends]
      exact congrArg Host.Outcome.next (transmitterIdle_adopts adoption)
  · intro started
    have plain : ∀ u : State, u.hlk.adoption = s.hlk.adoption → takeWaiting u = u →
        transmitterIdle u = transmit { u with hlk := { u.hlk with transmitter := .idle } } := fun u same still =>
      transmitterIdle_plain (same.trans adoption) still
    refine ⟨fun f next rest sends => exec_frameSent_run sends, fun f r sends reply link empty => ?_,
      fun f r l sends reply link => frameSent_links on one adoption sends reply link, fun n f r sends reply ready => ?_,
      fun n f sends reply empty => ?_, fun r reply early late => ?_⟩
    · rw [exec_frameSent_last sends, endReply_plain reply link,
        plain { s with hlk := { s.hlk with reply := none } } rfl (takeWaiting_empty empty)]
      exact congrArg Host.Outcome.next (transmit_afterReply (s := { s with hlk := { s.hlk with reply := none } }) on rfl)
    · have still : takeWaiting s = s := takeWaiting_holds (Bool.eq_false_iff.mpr fun can => by
        rw [((canTake_iff s).mp can).2] at reply
        cases reply)
      rw [exec_frameSent_notice sends, plain s rfl still, transmit_replies (by exact on) rfl (by exact reply)
        ((replyDue_iff r _).mpr (.inl ready))]
      rfl
    · rw [exec_frameSent_notice sends, plain s rfl (takeWaiting_empty empty)]
      exact congrArg Host.Outcome.next (transmit_afterReply on reply)
    · have due : replyEligibleDue s = true := by
        unfold replyEligibleDue
        rw [on, reply]
        show (!r.eligible && r.due s.tmb.tick) = true
        rw [early, (replyDue_iff r _).mpr (.inr late)]
        rfl
      have row : exec .replyEligible s = .next (makeEligible s) := congrArg Host.Outcome.next (if_pos due)
      have eligible : makeEligible s = transmit { s with hlk := { s.hlk with reply := some { r with eligible := true } } } := by
        unfold makeEligible
        rw [reply]
        rfl
      rw [row, eligible]
      by_cases idle : s.hlk.transmitter = .idle
      · rw [if_pos idle, transmit_replies (by exact on) (by exact idle) rfl ((replyDue_iff _ _).mpr (.inl rfl))]
        rfl
      · rw [if_neg idle, transmit_rests (.inr (by exact idle))]

end Sys2Proof.Machine
end

section
/-! Items handed to the bank do not depend on the interval aggregator, and what they leave of the clock (R77 to R83). -/

namespace Sys2Proof.Machine

/-- The same state with another interval aggregator. -/
def State.withIva (s : State) (v : Iva) : State := { s with iva := v }

theorem transmit_withIva (s : State) (v : Iva) : transmit (s.withIva v) = (transmit s).withIva v := by
  have on : linkOn (s.withIva v) = linkOn s := rfl
  have sends : ∀ r, startReply r (s.withIva v) = (startReply r s).withIva v := fun _ => rfl
  have tells : startNotice (s.withIva v) = (startNotice s).withIva v := by
    unfold startNotice State.withIva
    dsimp only
    split <;> rfl
  by_cases ready : linkOn s = true ∧ s.hlk.transmitter = .idle
  · obtain ⟨up, idle⟩ := ready
    by_cases due : ∃ r, s.hlk.reply = some r ∧ r.due s.tmb.tick = true
    · obtain ⟨r, reply, due⟩ := due
      rw [transmit_replies up idle reply due, transmit_replies (on.trans up) idle reply due, sends]
    · have waits : ∀ r, s.hlk.reply = some r → r.due s.tmb.tick = false := fun r reply =>
        Bool.eq_false_iff.mpr fun h => due ⟨r, reply, h⟩
      rw [transmit_notices up idle waits, transmit_notices (on.trans up) idle waits, tells]
  · have rests : linkOn s = false ∨ s.hlk.transmitter ≠ .idle := by
      rw [not_and_or, Bool.not_eq_true] at ready
      exact ready
    rw [transmit_rests rests, transmit_rests (s := s.withIva v) rests]

theorem postNotice_withIva (kind : NoticeKind) (fields : List Text) (s : State) (v : Iva) :
    postNotice kind fields (s.withIva v) = (postNotice kind fields s).withIva v := by
  have tells : ∀ notices, transmit { s.withIva v with hlk := { s.hlk with notices := notices } } =
      (transmit { s with hlk := { s.hlk with notices := notices } }).withIva v := fun notices =>
    transmit_withIva { s with hlk := { s.hlk with notices := notices } } v
  unfold postNotice
  show (if ¬ s.hlk.settings.mask.has kind then s.withIva v
    else if s.hlk.notices.length < 16 then
      transmit { s.withIva v with hlk := { s.hlk with notices := s.hlk.notices ++ [⟨kind, fields⟩] } }
    else { s.withIva v with hlk := { s.hlk with overflow := true } }) = _
  rw [tells]
  split
  · rfl
  · split <;> rfl

theorem cellTakes_withIva (item : Item) (s : State) (i : Nat) (v : Iva) :
    cellTakes item (s.withIva v) i = (cellTakes item s i).withIva v := by
  have tells : ∀ g, postMark i g (putCell i g (s.withIva v)) = (postMark i g (putCell i g s)).withIva v := fun g =>
    postNotice_withIva _ _ (takeReading (putCell i g s)) v
  unfold cellTakes
  dsimp only
  show (if (cellAt s.tlb i).config.takes item then
    if !s.tlb.frozen && (cellAt s.tlb i).wouldCount item && (cellAt s.tlb i).reachesMark then
      postMark i ((cellAt s.tlb i).after s.tlb.frozen item) (putCell i ((cellAt s.tlb i).after s.tlb.frozen item) (s.withIva v))
    else putCell i ((cellAt s.tlb i).after s.tlb.frozen item) (s.withIva v)
    else s.withIva v) = _
  rw [tells]
  split
  · split <;> rfl
  · rfl

theorem handItem_withIva (item : Item) (s : State) (v : Iva) : handItem item (s.withIva v) = (handItem item s).withIva v := by
  have cells : ∀ (l : List Nat) (s : State), l.foldl (cellTakes item) (s.withIva v) = (l.foldl (cellTakes item) s).withIva v := by
    intro l
    induction l with
    | nil => exact fun _ => rfl
    | cons i rest ih =>
      intro s
      rw [List.foldl_cons, List.foldl_cons, cellTakes_withIva, ih]
  have survey : ∀ s : State, surveyTakes item (s.withIva v) = (surveyTakes item s).withIva v := fun s => by
    unfold surveyTakes State.withIva
    dsimp only
    split <;> rfl
  have matrices : ∀ s : State, matricesTake item (s.withIva v) = (matricesTake item s).withIva v := fun s => by
    cases item <;> rfl
  unfold handItem
  rw [cells, survey, matrices]

/-! ## What an item leaves of the clock -/

/-- A reading after an item is the one before it, and of the clock only the readings given change. -/
theorem handItem_clock (item : Item) (s : State) : reading (handItem item s) = reading s ∧
    s.tmb.SameButReadings (handItem item s).tmb := by
  have cell : ∀ (s : State) (i : Nat), s.tmb.SameButReadings (cellTakes item s i).tmb := fun s i => by
    unfold cellTakes
    dsimp only
    split
    · split
      · unfold postMark
        rw [postWithReading_others]
        exact Tmb.afterReading_only s.tmb
      · exact rfl
    · exact rfl
  have cells : ∀ (l : List Nat) (s : State), reading (l.foldl (cellTakes item) s) = reading s ∧
      s.tmb.SameButReadings (l.foldl (cellTakes item) s).tmb := by
    intro l
    induction l with
    | nil => exact fun _ => ⟨rfl, rfl⟩
    | cons i rest ih =>
      intro s
      obtain ⟨read, clock⟩ := ih (cellTakes item s i)
      exact ⟨read.trans (cellTakes_reading item s i), (cell s i).trans clock⟩
  have survey : ∀ s : State, (surveyTakes item s).tmb = s.tmb := fun s => by
    unfold surveyTakes
    split <;> rfl
  have matrices : ∀ s : State, (matricesTake item s).tmb = s.tmb := fun s => by cases item <;> rfl
  obtain ⟨read, clock⟩ := cells (List.range 12) s
  have tmb : (handItem item s).tmb = ((List.range 12).foldl (cellTakes item) s).tmb := by
    unfold handItem
    rw [matrices, survey]
  refine ⟨?_, by rw [tmb]; exact clock⟩
  unfold Machine.reading at read ⊢
  rw [tmb]
  exact read

/-- An item that there may be. -/
def bankTakes (item : Option Item) (s : State) : State :=
  match item with
  | some x => handItem x s
  | none => s

theorem bankTakes_withIva (item : Option Item) (s : State) (v : Iva) :
    bankTakes item (s.withIva v) = (bankTakes item s).withIva v := by
  cases item with
  | none => rfl
  | some x => exact handItem_withIva x s v

theorem bankTakes_bankOnly (item : Option Item) (s : State) : BankOnly s (bankTakes item s) := by
  cases item with
  | none => exact BankOnly.refl s
  | some x => exact handItem_bankOnly x s

theorem bankTakes_clock (item : Option Item) (s : State) : reading (bankTakes item s) = reading s ∧
    s.tmb.SameButReadings (bankTakes item s).tmb := by
  cases item with
  | none => exact ⟨rfl, rfl⟩
  | some x => exact handItem_clock x s

end Sys2Proof.Machine
end

section
/-! A boundary in the interval aggregator: what it ends, what it leaves and what it hands to the bank (R53 to R57, R66 to R69). -/

namespace Sys2Proof.Machine

/-- The item of an ended period (R69). -/
def periodItem (f : FrequencyValue) : Item := .frq f.startMark f.value f.valid f.outOfRange

/-- The item of an ended window (R57). -/
def windowItem (l : LatestWindow) : Item := .win l.values l.flags.any l.startMark

/-- An interval with a frequency value there may be. -/
def Interval.takeEnded (i : Interval) (f : Option FrequencyValue) : Interval :=
  match f with
  | some x => i.takeFrequency x
  | none => i

/-- An interval with a window there may be. -/
def Interval.takeLast (i : Interval) (l : Option LatestWindow) : Interval :=
  match l with
  | some x => i.takeWindow x
  | none => i

/-- An interval with the closes of a boundary (R63). -/
def Interval.withCloses (i : Interval) (n : Nat) : Interval := { i with closes := saturate max16 (i.closes + n) }

/-- The frequency value that an ending period becomes. -/
def Iva.endedPeriod (v : Iva) (ends : Bool) (fn : NominalFrequency) : Option FrequencyValue :=
  if ends then v.period.map (fun p => p.value fn) else none

/-- The window in progress with a boundary (R54). -/
def Iva.windowNow (v : Iva) (fn : NominalFrequency) (r : Report) (anyOpen : Bool) : Window :=
  (v.window.getD (Window.begin fn)).take r anyOpen

/-- The latest window that it becomes, where it ends (R54, R57). -/
def Iva.endedWindow (v : Iva) (set : Settings) (r : Report) (anyOpen due : Bool) : Option LatestWindow :=
  if (v.windowNow set.fn r anyOpen).full ≤ (v.windowNow set.fn r anyOpen).count ∨ due = true then
    some ((v.windowNow set.fn r anyOpen).finish set r.time ((v.interval.map Interval.startMark).getD 0))
  else none

/-- The interval aggregator after the three steps of R53, before any closure. -/
def Iva.counted (v : Iva) (plan : BoundaryPlan) (r : Report) (ind : Indications) (cycle : Option Cycle) (due : Bool)
    (set : Settings) : Iva :=
  { v with
    window := match v.endedWindow set r ind.anyOpen due with
      | some _ => none
      | none => some (v.windowNow set.fn r ind.anyOpen)
    interval := v.interval.map (fun i => ((i.takeEnded (v.endedPeriod plan.endsPeriod set.fn)).takeLast
      (v.endedWindow set r ind.anyOpen due)).withCloses ind.closes)
    period := (if plan.endsPeriod then some ⟨tenSecondMark r.time.seconds, 0, none, plan.reasons⟩ else v.period).map
      (fun p => p.take r cycle)
    latestWindow := (v.endedWindow set r ind.anyOpen due).or v.latestWindow
    latestFrequency := (v.endedPeriod plan.endsPeriod set.fn).or v.latestFrequency }

@[simp] theorem State.withIva_withIva (s : State) (v w : Iva) : (s.withIva v).withIva w = s.withIva w := rfl

theorem addCloses_withIva (n : Nat) (s : State) (v : Iva) : addCloses n (s.withIva v) =
    s.withIva { v with interval := v.interval.map (fun i => i.withCloses n) } := rfl

theorem Interval.takeFrequency_startMark (i : Interval) (f : FrequencyValue) : (i.takeFrequency f).startMark = i.startMark := by
  unfold Interval.takeFrequency
  split
  · split <;> rfl
  · rfl

/-- What the end of a period leaves. -/
theorem endPeriod_eq (s : State) : endPeriod s =
    (bankTakes ((s.iva.endedPeriod true s.svc.active.fn).map periodItem) s).withIva { s.iva with
      period := none
      latestFrequency := (s.iva.endedPeriod true s.svc.active.fn).or s.iva.latestFrequency
      interval := s.iva.interval.map (fun i => i.takeEnded (s.iva.endedPeriod true s.svc.active.fn)) } := by
  unfold endPeriod Iva.endedPeriod
  rw [if_pos rfl]
  cases period : s.iva.period with
  | none =>
    have same : s.iva = { s.iva with
        period := none
        latestFrequency := (Option.none).or s.iva.latestFrequency
        interval := s.iva.interval.map (fun i => i.takeEnded none) } := by
      rw [← period, Option.none_or, show (fun i : Interval => i.takeEnded none) = id from rfl, Option.map_id]
      rfl
    show s = s.withIva _
    conv_lhs => rw [show s = s.withIva s.iva from rfl, same]
    rfl
  | some p => exact handItem_withIva (periodItem (p.value s.svc.active.fn)) s _

theorem endWindow_some {s : State} {w : Window} (window : s.iva.window = some w) (endTime : Time) : endWindow endTime s =
    (handItem (windowItem (w.finish s.svc.active endTime ((s.iva.interval.map Interval.startMark).getD 0))) s).withIva { s.iva with
      window := none
      latestWindow := some (w.finish s.svc.active endTime ((s.iva.interval.map Interval.startMark).getD 0))
      interval := s.iva.interval.map (fun i =>
        i.takeWindow (w.finish s.svc.active endTime ((s.iva.interval.map Interval.startMark).getD 0))) } := by
  unfold endWindow
  rw [window]
  exact handItem_withIva _ s _

/-- What the first step of a boundary leaves (R53, R66 to R69). -/
theorem periodTakes_eq (plan : BoundaryPlan) (r : Report) (cycle : Option Cycle) (s : State) : periodTakes plan r cycle s =
    (bankTakes ((s.iva.endedPeriod plan.endsPeriod s.svc.active.fn).map periodItem) s).withIva { s.iva with
      period := (if plan.endsPeriod then some ⟨tenSecondMark r.time.seconds, 0, none, plan.reasons⟩ else s.iva.period).map
        (fun p => p.take r cycle)
      latestFrequency := (s.iva.endedPeriod plan.endsPeriod s.svc.active.fn).or s.iva.latestFrequency
      interval := s.iva.interval.map (fun i => i.takeEnded (s.iva.endedPeriod plan.endsPeriod s.svc.active.fn)) } := by
  unfold periodTakes
  cases ends : plan.endsPeriod with
  | true =>
    dsimp only
    rw [if_pos rfl, if_pos rfl, endPeriod_eq]
    rfl
  | false =>
    have none' : s.iva.endedPeriod false s.svc.active.fn = none := rfl
    rw [none', Option.none_or, show (fun i : Interval => i.takeEnded none) = id from rfl, Option.map_id]
    rfl

/-- What the second step of a boundary leaves (R53 to R57). -/
theorem windowTakes_eq (r : Report) (anyOpen due : Bool) (s : State) : windowTakes r anyOpen due s =
    (bankTakes ((s.iva.endedWindow s.svc.active r anyOpen due).map windowItem) s).withIva { s.iva with
      window := match s.iva.endedWindow s.svc.active r anyOpen due with
        | some _ => none
        | none => some (s.iva.windowNow s.svc.active.fn r anyOpen)
      latestWindow := (s.iva.endedWindow s.svc.active r anyOpen due).or s.iva.latestWindow
      interval := s.iva.interval.map (fun i => i.takeLast (s.iva.endedWindow s.svc.active r anyOpen due)) } := by
  obtain ⟨w, now⟩ : ∃ w, s.iva.windowNow s.svc.active.fn r anyOpen = w := ⟨_, rfl⟩
  have form : windowTakes r anyOpen due s = if w.full ≤ w.count ∨ due = true then
      endWindow r.time (s.withIva { s.iva with window := some w }) else s.withIva { s.iva with window := some w } := by
    rw [← now]
    rfl
  unfold Iva.endedWindow
  rw [form, now]
  by_cases ends : w.full ≤ w.count ∨ due = true
  · rw [if_pos ends, if_pos ends, endWindow_some (w := w) rfl]
    obtain ⟨l, done⟩ : ∃ l, w.finish s.svc.active r.time ((s.iva.interval.map Interval.startMark).getD 0) = l := ⟨_, rfl⟩
    have same : w.finish (s.withIva { s.iva with window := some w }).svc.active r.time
        (((s.withIva { s.iva with window := some w }).iva.interval.map Interval.startMark).getD 0) = l := done
    rw [same, done, handItem_withIva, State.withIva_withIva]
    rfl
  · rw [if_neg ends, if_neg ends, Option.none_or, show (fun i : Interval => i.takeLast none) = id from rfl, Option.map_id]
    rfl

/-- What a boundary leaves before any closure, and the items it hands to the bank. -/
theorem boundary_counted (plan : BoundaryPlan) (r : Report) (ind : Indications) (cycle : Option Cycle) (due : Bool) (s : State) :
    addCloses ind.closes (windowTakes r ind.anyOpen due (periodTakes plan r cycle s)) =
      (bankTakes ((s.iva.endedWindow s.svc.active r ind.anyOpen due).map windowItem)
        (bankTakes ((s.iva.endedPeriod plan.endsPeriod s.svc.active.fn).map periodItem) s)).withIva
        (s.iva.counted plan r ind cycle due s.svc.active) := by
  obtain ⟨f, ended⟩ : ∃ f, s.iva.endedPeriod plan.endsPeriod s.svc.active.fn = f := ⟨_, rfl⟩
  obtain ⟨u, item⟩ : ∃ u, bankTakes (f.map periodItem) s = u := ⟨_, rfl⟩
  have svc : u.svc = s.svc := item ▸ (bankTakes_bankOnly _ s).svc
  obtain ⟨v, left⟩ : ∃ v : Iva, { s.iva with
      period := (if plan.endsPeriod then some ⟨tenSecondMark r.time.seconds, 0, none, plan.reasons⟩ else s.iva.period).map
        (fun p => p.take r cycle)
      latestFrequency := f.or s.iva.latestFrequency
      interval := s.iva.interval.map (fun i => i.takeEnded f) } = v := ⟨_, rfl⟩
  have first : periodTakes plan r cycle s = u.withIva v := by
    rw [periodTakes_eq, ended, item, left]
  have marks : (v.interval.map Interval.startMark).getD 0 = (s.iva.interval.map Interval.startMark).getD 0 := by
    rw [← left, Option.map_map]
    refine congrArg (fun g => (Option.map g s.iva.interval).getD 0) (funext fun i => ?_)
    cases f with
    | none => rfl
    | some x => exact i.takeFrequency_startMark x
  have window : ∀ set, v.endedWindow set r ind.anyOpen due = s.iva.endedWindow set r ind.anyOpen due := fun set => by
    unfold Iva.endedWindow
    rw [marks, ← left]
    rfl
  have set : (u.withIva v).svc.active = s.svc.active := congrArg (fun x => x.active) svc
  have own : (u.withIva v).iva = v := rfl
  have now : v.windowNow s.svc.active.fn r ind.anyOpen = s.iva.windowNow s.svc.active.fn r ind.anyOpen := by
    rw [← left]
    rfl
  rw [first, windowTakes_eq, set, own, window, now, bankTakes_withIva, State.withIva_withIva, addCloses_withIva]
  unfold Iva.counted
  rw [ended, item]
  obtain ⟨l, last⟩ : ∃ l, s.iva.endedWindow s.svc.active r ind.anyOpen due = l := ⟨_, rfl⟩
  rw [last]
  have intervals : (v.interval.map (fun i => i.takeLast l)).map (fun i => i.withCloses ind.closes) =
      s.iva.interval.map (fun i => ((i.takeEnded f).takeLast l).withCloses ind.closes) := by
    rw [← left, Option.map_map, Option.map_map]
    rfl
  rw [← intervals]
  refine congrArg (State.withIva _) ?_
  rw [← left]

end Sys2Proof.Machine
end

section
/-! What a closure changes in the settings unit and the survey, and what it leaves (R102). -/

namespace Sys2Proof.Machine

/-- Nothing but the settings unit, the detector, the store, the bank, the clock, the link and the note of a new FN has changed,
and that note is the one of a new FN. -/
structure SettlesOnly (s t : State) : Prop where
  others : t = { s with
    cyt := { s.cyt with fnChanged := t.cyt.fnChanged }
    svc := t.svc, evd := t.evd, evs := t.evs, tlb := t.tlb, tmb := t.tmb, hlk := t.hlk }
  fn : t.cyt.fnChanged = (s.cyt.fnChanged || t.svc.active.fn != s.svc.active.fn)

/-- So it is where nothing but the settings unit, the detector, the store, the bank, the clock and the link has changed, with
the FN kept. -/
theorem SettlesOnly.quiet {s t : State}
    (others : t = { s with svc := t.svc, evd := t.evd, evs := t.evs, tlb := t.tlb, tmb := t.tmb, hlk := t.hlk })
    (fn : t.svc.active.fn = s.svc.active.fn) : SettlesOnly s t := by
  have cyt : t.cyt = s.cyt := by rw [others]
  refine ⟨?_, by rw [cyt, fn, bne_self_eq_false, Bool.or_false]⟩
  rw [cyt]
  exact others

theorem SettlesOnly.iva {s t : State} (h : SettlesOnly s t) : t.iva = s.iva := by rw [h.others]
theorem SettlesOnly.ich {s t : State} (h : SettlesOnly s t) : t.ich = s.ich := by rw [h.others]
theorem SettlesOnly.hcu {s t : State} (h : SettlesOnly s t) : t.hcu = s.hcu := by rw [h.others]
theorem SettlesOnly.spm {s t : State} (h : SettlesOnly s t) : t.spm = s.spm := by rw [h.others]
theorem SettlesOnly.pins {s t : State} (h : SettlesOnly s t) : t.pins = s.pins := by rw [h.others]
theorem SettlesOnly.cyt {s t : State} (h : SettlesOnly s t) :
    t.cyt = { s.cyt with fnChanged := t.cyt.fnChanged } := by
  conv_lhs => rw [h.others]

/-- Two steps, of which the first one keeps FN. -/
theorem SettlesOnly.after {s t u : State} (h : SettlesOnly s t) (fn : t.svc.active.fn = s.svc.active.fn) (k : SettlesOnly t u) :
    SettlesOnly s u := by
  have same : t.cyt.fnChanged = s.cyt.fnChanged := by rw [h.fn, fn, bne_self_eq_false, Bool.or_false]
  refine ⟨?_, by rw [k.fn, same, fn]⟩
  rw [k.others, h.others]

/-- Two steps, of which the second one keeps FN. -/
theorem SettlesOnly.before {s t u : State} (h : SettlesOnly s t) (k : SettlesOnly t u)
    (fn : u.svc.active.fn = t.svc.active.fn) : SettlesOnly s u := by
  refine ⟨?_, by rw [k.fn, h.fn, fn, bne_self_eq_false, Bool.or_false]⟩
  rw [k.others, h.others]

/-- Marking the open records of a new generation leaves everything but the detector. -/
theorem markSettingsChanged_eq (s : State) : markSettingsChanged s = { s with evd := (markSettingsChanged s).evd } := rfl

/-- What the application of a staged set leaves (R103). -/
theorem applyStaged_settles (s : State) : SettlesOnly s (applyStaged s) := by
  by_cases staged : s.svc.staged = []
  · have same : applyStaged s = s := if_pos staged
    rw [same]
    exact SettlesOnly.quiet rfl rfl
  · have whole := applyStaged_some staged
    obtain ⟨w, written⟩ : ∃ w, stagedWritten s = w := ⟨_, rfl⟩
    have offered : offerSettings .appliedAtClosure w = { w with
        tmb := (offerSettings .appliedAtClosure w).tmb
        evs := (offerSettings .appliedAtClosure w).evs
        hlk := (offerSettings .appliedAtClosure w).hlk } := offer_others _ _ _
    rw [written] at whole
    constructor
    · rw [whole, markSettingsChanged_eq, offered, ← written]
      rfl
    · rw [whole, markSettingsChanged_eq, offered, ← written]
      rfl

theorem applyStaged_iva (s : State) : (applyStaged s).iva = s.iva := (applyStaged_settles s).iva

/-- What a survey that starts leaves (R89, R108). -/
theorem startSurvey_others (mark : Nat) (s : State) : startSurvey mark s = { s with
    svc := { s.svc with survey := (startSurvey mark s).svc.survey }
    evs := (startSurvey mark s).evs
    tlb := (surveyCleared s).tlb
    tmb := (startSurvey mark s).tmb
    hlk := (startSurvey mark s).hlk } := by
  rw [startSurvey_eq, offer_others]
  rfl

/-- What the survey leaves as it advances (R102). -/
theorem advanceSurvey_others (k : Closure) (s : State) :
    advanceSurvey k s = { s with
      svc := (advanceSurvey k s).svc, evs := (advanceSurvey k s).evs, tlb := (advanceSurvey k s).tlb
      tmb := (advanceSurvey k s).tmb, hlk := (advanceSurvey k s).hlk } ∧
    (advanceSurvey k s).svc.active = s.svc.active := by
  have counts : ∀ n, countSkipped n s = { s with tlb := (countSkipped n s).tlb } := fun n => by
    unfold countSkipped
    split <;> rfl
  unfold advanceSurvey
  cases state : s.svc.survey.state with
  | idle => exact ⟨rfl, rfl⟩
  | complete => exact ⟨rfl, rfl⟩
  | aborted => exact ⟨rfl, rfl⟩
  | armed =>
    cases k.opened with
    | none => exact ⟨rfl, rfl⟩
    | some mark =>
      dsimp only
      split
      · rw [startSurvey_others]
        exact ⟨rfl, rfl⟩
      · exact ⟨rfl, rfl⟩
  | running =>
    dsimp only
    split
    · rw [concludeSurvey_others, counts]
      exact ⟨rfl, rfl⟩
    · rw [counts]
      exact ⟨rfl, rfl⟩

theorem advanceSurvey_settles (k : Closure) (s : State) : SettlesOnly s (advanceSurvey k s) := by
  obtain ⟨others, active⟩ := advanceSurvey_others k s
  have evd : (advanceSurvey k s).evd = s.evd := by rw [others]
  refine SettlesOnly.quiet ?_ (congrArg Settings.fn active)
  rw [evd]
  exact others

theorem takeClosure_settles (k : Closure) (s : State) : SettlesOnly s (takeClosure k s) :=
  (applyStaged_settles s).before (advanceSurvey_settles k _) (congrArg Settings.fn (advanceSurvey_others k _).2)

/-- What an interval that closes leaves but for itself, and the clock's readings it hands on (R64). -/
theorem intervalHanded_others (i : Interval) (cause : ClosureCause) (closeTime : Time) (s : State) :
    intervalHanded i cause closeTime s = { s with
      evs := (intervalHanded i cause closeTime s).evs, tlb := (intervalHanded i cause closeTime s).tlb
      tmb := (intervalHanded i cause closeTime s).tmb, hlk := (intervalHanded i cause closeTime s).hlk } := by
  have bank := handItem_bankOnly (intervalItem i cause closeTime s) (intervalPosted i cause closeTime s)
  have posted : intervalPosted i cause closeTime s = { s with
      evs := (intervalPosted i cause closeTime s).evs
      tmb := (intervalPosted i cause closeTime s).tmb, hlk := (intervalPosted i cause closeTime s).hlk } := by
    unfold intervalPosted postInterval
    rw [postNotice_others, offer_others]
  unfold intervalHanded
  rw [bank, posted]

/-- The aggregator after an interval has closed is without it, and else as it was (R64). -/
theorem closeInterval_settles (cause : ClosureCause) (closeTime : Time) (opened : Option Nat) (s : State) :
    SettlesOnly (s.withIva { s.iva with interval := none }) (closeInterval cause closeTime opened s) := by
  cases held : s.iva.interval with
  | none =>
    rw [closeInterval_none held]
    have same : s.withIva { s.iva with interval := none } = s := by rw [← held]; rfl
    rw [same]
    exact SettlesOnly.quiet rfl rfl
  | some i =>
    rw [closeInterval_some held]
    have handed := intervalHanded_others i cause closeTime s
    obtain ⟨x, name⟩ : ∃ x, intervalHanded i cause closeTime s = x := ⟨_, rfl⟩
    rw [name] at handed ⊢
    have iva : x.iva = s.iva := by rw [handed]
    have svc : x.svc = s.svc := by rw [handed]
    have gone : { x with iva := { x.iva with interval := none } } = { s.withIva { s.iva with interval := none } with
        evs := x.evs, tlb := x.tlb, tmb := x.tmb, hlk := x.hlk } := by
      rw [iva]
      conv_lhs => rw [handed]
      rfl
    have first : SettlesOnly (s.withIva { s.iva with interval := none }) { x with iva := { x.iva with interval := none } } := by
      rw [gone]
      exact SettlesOnly.quiet rfl rfl
    exact first.after (congrArg (fun v : Svc => v.active.fn) svc) (takeClosure_settles _ _)

theorem closeInterval_iva (cause : ClosureCause) (closeTime : Time) (opened : Option Nat) (s : State) :
    (closeInterval cause closeTime opened s).iva = { s.iva with interval := none } := (closeInterval_settles _ _ _ _).iva

end Sys2Proof.Machine
end

section
/-! The value of a period, and a boundary of the interval aggregator by its parts (R53, R59 to R75). -/

namespace Sys2Proof.Machine

theorem tickSpan_pos {a b : Tick} (other : a ≠ b) : 0 < tickSpan a b := by
  unfold tickSpan
  have : a.toNat ≠ b.toNat := fun h => other (BitVec.eq_of_toNat_eq h)
  have := a.isLt
  have := b.isLt
  bv_omega

/-- The nearest integer of a quotient, half up. -/
theorem half_up (n d : Nat) (pos : 0 < d) : 2 * ((n + d / 2) / d) * d ≤ 2 * n + d ∧ 2 * n < 2 * ((n + d / 2) / d) * d + d := by
  have split := Nat.div_add_mod (n + d / 2) d
  have small := Nat.mod_lt (n + d / 2) pos
  obtain ⟨q, quotient⟩ : ∃ q, (n + d / 2) / d = q := ⟨_, rfl⟩
  rw [quotient] at split ⊢
  have product : 2 * q * d = 2 * (d * q) := by ring
  rw [product]
  omega

/-- A clamp is the nearest value of its range. -/
theorem clampTo_eq {low high : Nat} (f : Nat) (order : low ≤ high) : clampTo (low, high) f = max low (min high f) ∧
    (clampTo (low, high) f = f ↔ ¬ (f < low ∨ high < f)) := by
  unfold clampTo
  dsimp only
  split
  · omega
  · split <;> omega

/-- A period with a cycle over ticks has the nearest millihertz, held in the range of FN (R67). -/
theorem Period.value_of_cycles {p : Period} {a b : Tick} (fn : NominalFrequency) (cycles : 0 < p.cycles)
    (ticks : p.ticks = some (a, b)) :
    (p.value fn).span = some (tickSpan a b) ∧
    (p.value fn).value = some (clampTo (frequencyRange fn) (rawFrequency p.cycles (tickSpan a b))) ∧
    (p.value fn).outOfRange =
      (rawFrequency p.cycles (tickSpan a b) != clampTo (frequencyRange fn) (rawFrequency p.cycles (tickSpan a b))) := by
  unfold Period.value
  rw [ticks]
  dsimp only
  rw [if_neg (Nat.ne_of_gt cycles)]
  exact ⟨rfl, rfl, rfl⟩

theorem Period.value_nearest {p : Period} {a b : Tick} (fn : NominalFrequency) (cycles : 0 < p.cycles)
    (ticks : p.ticks = some (a, b)) (other : a ≠ b) :
    ∃ f, 2 * f * tickSpan a b ≤ 2 * (p.cycles * 32768000) + tickSpan a b ∧
      2 * (p.cycles * 32768000) < 2 * f * tickSpan a b + tickSpan a b ∧
      (p.value fn).span = some (tickSpan a b) ∧
      (p.value fn).value = some (match fn with
        | .hz50 => max 42500 (min 57500 f)
        | .hz60 => max 51000 (min 69000 f)) ∧
      ((p.value fn).outOfRange = true ↔ (match fn with
        | .hz50 => f < 42500 ∨ 57500 < f
        | .hz60 => f < 51000 ∨ 69000 < f)) := by
  have pos := tickSpan_pos other
  obtain ⟨span, value, out⟩ := Period.value_of_cycles fn cycles ticks
  have raw : rawFrequency p.cycles (tickSpan a b) = (p.cycles * 32768000 + tickSpan a b / 2) / tickSpan a b :=
    if_neg (Nat.ne_of_gt pos)
  obtain ⟨low, high⟩ := half_up (p.cycles * 32768000) (tickSpan a b) pos
  rw [← raw] at low high
  obtain ⟨f, name⟩ : ∃ f, rawFrequency p.cycles (tickSpan a b) = f := ⟨_, rfl⟩
  rw [name] at low high value out
  refine ⟨f, low, high, span, ?_, ?_⟩
  · rw [value]
    cases fn with
    | hz50 => rw [frequencyRange, (clampTo_eq f (by decide)).1]
    | hz60 => rw [frequencyRange, (clampTo_eq f (by decide)).1]
  · rw [out, bne_iff_ne]
    cases fn with
    | hz50 => rw [frequencyRange, ne_comm, Ne, (clampTo_eq f (by decide)).2, not_not]
    | hz60 => rw [frequencyRange, ne_comm, Ne, (clampTo_eq f (by decide)).2, not_not]

theorem PeriodReasons.any_eq_false (r : PeriodReasons) : r.any = false ↔ r = PeriodReasons.none := by
  obtain ⟨a, b, c, d, e, f⟩ := r
  unfold PeriodReasons.any PeriodReasons.none
  simp only [Bool.or_eq_false_iff, PeriodReasons.mk.injEq, and_assoc]

/-- A value is valid with a cycle, a span and no reason (R68). -/
theorem Period.value_valid (p : Period) (fn : NominalFrequency) : ((p.value fn).valid = true ↔
    p.cycles ≠ 0 ∧ p.ticks ≠ none ∧ p.reasons = PeriodReasons.none) ∧ (p.cycles = 0 → (p.value fn).value = none) := by
  unfold Period.value
  dsimp only
  rw [Bool.and_eq_true, Bool.not_eq_true', PeriodReasons.any_eq_false]
  constructor
  · by_cases cycles : p.cycles = 0
    · rw [if_pos cycles]
      exact ⟨fun h => (nomatch (h.1 : false = true)), fun h => absurd cycles h.1⟩
    · rw [if_neg cycles]
      cases ticks : p.ticks with
      | none => exact ⟨fun h => (nomatch (h.1 : false = true)), fun h => absurd rfl h.2.1⟩
      | some x => exact ⟨fun h => ⟨cycles, Option.some_ne_none x, h.2⟩, fun h => ⟨rfl, h.2.2⟩⟩
  · intro cycles
    rw [if_pos cycles]
    rfl

/-! ## The plan of a boundary -/

theorem planBoundary_ends (v : Iva) (i : Interval) (seconds : Nat) : (planBoundary v i seconds).endsPeriod =
    (v.pendingStep || v.resumed && decide (i.startMark + 600 ≤ seconds) ||
      v.period.all (fun p => decide (p.startMark + 10 ≤ seconds))) := by
  unfold planBoundary
  dsimp only
  cases v.pendingStep with
  | true => rfl
  | false =>
    cases v.resumed with
    | false => rfl
    | true =>
      show (if i.endMark ≤ seconds then _ else _ : BoundaryPlan).endsPeriod = (decide (i.endMark ≤ seconds) || _)
      by_cases past : i.endMark ≤ seconds
      · rw [if_pos past, decide_eq_true past]
        rfl
      · rw [if_neg past, decide_eq_false past]
        rfl

theorem planBoundary_reasons (v : Iva) (i : Interval) (seconds : Nat) : (planBoundary v i seconds).reasons =
    ⟨false, false, v.pendingStep, v.resumed, v.pendingStep || v.resumed, false⟩ := by
  unfold planBoundary
  dsimp only
  cases v.pendingStep with
  | true => rfl
  | false =>
    cases v.resumed with
    | false => rfl
    | true =>
      show (if i.endMark ≤ seconds then _ else _ : BoundaryPlan).reasons = _
      split <;> rfl

theorem planBoundary_closes (v : Iva) (i : Interval) (seconds : Nat) : (planBoundary v i seconds).closure.isSome =
    (v.pendingStep || decide (i.startMark + 600 ≤ seconds)) := by
  unfold planBoundary
  dsimp only
  cases v.pendingStep with
  | true => rfl
  | false =>
    by_cases past : i.endMark ≤ seconds
    · rw [if_pos past, if_pos past, Bool.false_or, decide_eq_true (p := i.startMark + 600 ≤ seconds) past]
      cases v.resumed <;> rfl
    · rw [if_neg past, if_neg past, Bool.false_or, decide_eq_false (p := i.startMark + 600 ≤ seconds) past]
      cases v.resumed <;> rfl

theorem planBoundary_plain {v : Iva} {i : Interval} {seconds : Nat} (step : v.pendingStep = false) (past : seconds < i.startMark + 600) :
    (planBoundary v i seconds).closure = none := by
  have closes := planBoundary_closes v i seconds
  rw [step, Bool.false_or, decide_eq_false (Nat.not_le.mpr past)] at closes
  exact Option.isNone_iff_eq_none.mp (by rw [← Option.not_isSome, closes]; rfl)

/-! ## The parts of a boundary -/

/-- What a boundary's three steps leave before any closure, from another aggregator. -/
theorem counted_from (v : Iva) (plan : BoundaryPlan) (r : Report) (ind : Indications) (cycle : Option Cycle) (due : Bool) (s : State) :
    addCloses ind.closes (windowTakes r ind.anyOpen due (periodTakes plan r cycle (s.withIva v))) =
      (bankTakes ((v.endedWindow s.svc.active r ind.anyOpen due).map windowItem)
        (bankTakes ((v.endedPeriod plan.endsPeriod s.svc.active.fn).map periodItem) s)).withIva
        (v.counted plan r ind cycle due s.svc.active) := by
  have whole := boundary_counted plan r ind cycle due (s.withIva v)
  have own : (s.withIva v).iva = v := rfl
  have set : (s.withIva v).svc = s.svc := rfl
  rw [own, set, bankTakes_withIva, bankTakes_withIva, State.withIva_withIva] at whole
  exact whole

/-- A window that ends is the latest one, and none is in progress. -/
theorem Iva.counted_banked (v : Iva) (plan : BoundaryPlan) (r : Report) (ind : Indications) (cycle : Option Cycle) (due : Bool)
    (set : Settings) (x : State) :
    (match (v.counted plan r ind cycle due set).window, (v.counted plan r ind cycle due set).latestWindow with
      | none, some w => handItem (.win w.values (w.flags.event || w.flags.synthetic || w.flags.clipped || w.flags.oscillator)
          w.startMark) x
      | _, _ => x) = bankTakes ((v.endedWindow set r ind.anyOpen due).map windowItem) x := by
  unfold Iva.counted
  cases v.endedWindow set r ind.anyOpen due with
  | none => rfl
  | some l => rfl

theorem Period.take_eq (p : Period) (r : Report) (cycle : Option Cycle) : p.take r cycle = { p with
    cycles := match cycle with
      | some _ => min 65535 (p.cycles + 1)
      | none => p.cycles
    ticks := match cycle with
      | some c => some ((p.ticks.map Prod.fst).getD c.start, c.stop)
      | none => p.ticks
    reasons := { p.reasons with
      synthetic := p.reasons.synthetic || r.synthetic
      referenceChanged := p.reasons.referenceChanged || r.referenceChanged } } := by
  unfold Period.take saturate
  cases cycle with
  | none => rfl
  | some c =>
    rw [Nat.min_comm]
    cases ticks : p.ticks with
    | none => rfl
    | some x => rfl

theorem takeBoundary_some {s : State} {i : Interval} (held : s.iva.interval = some i) (r : Report) (ind : Indications)
    (cycle : Option Cycle) : takeBoundary r ind cycle s =
      (takePlanned (planBoundary s.iva i r.time.seconds) r ind cycle (s.withIva (markBoundary s.iva))).withIva
        { (takePlanned (planBoundary s.iva i r.time.seconds) r ind cycle (s.withIva (markBoundary s.iva))).iva with
          pendingStep := false
          resumed := false
          lastBoundaryTime := some r.time } := by
  unfold takeBoundary
  rw [held]
  rfl

theorem takeBoundary_none {s : State} (held : s.iva.interval = none) (r : Report) (ind : Indications)
    (cycle : Option Cycle) : takeBoundary r ind cycle s =
      (addCloses ind.closes (windowTakes r ind.anyOpen false (periodTakes ⟨true, brokenPeriod s.iva.pendingStep s.iva.resumed, none⟩ r
        cycle (s.withIva { s.iva with interval := some (Interval.begin (r.time.seconds / 600 * 600)
          { IntervalMarks.none with incomplete := true }) })))).withIva
        { (addCloses ind.closes (windowTakes r ind.anyOpen false (periodTakes ⟨true, brokenPeriod s.iva.pendingStep s.iva.resumed, none⟩ r
            cycle (s.withIva { s.iva with interval := some (Interval.begin (r.time.seconds / 600 * 600)
              { IntervalMarks.none with incomplete := true }) })))).iva with
          pendingStep := false
          resumed := false
          lastBoundaryTime := some r.time } := by
  unfold takeBoundary
  rw [held]
  rfl

theorem takePlanned_none {plan : BoundaryPlan} (closure : plan.closure = none) (r : Report) (ind : Indications)
    (cycle : Option Cycle) (s : State) : takePlanned plan r ind cycle s =
      addCloses ind.closes (windowTakes r ind.anyOpen false (periodTakes plan r cycle s)) := by
  unfold takePlanned
  rw [closure]
  rfl

theorem takePlanned_some {plan : BoundaryPlan} {cause : ClosureCause} {mark : Nat} {marks : IntervalMarks}
    (closure : plan.closure = some (cause, mark, marks)) (r : Report) (ind : Indications)
    (cycle : Option Cycle) (s : State) : takePlanned plan r ind cycle s =
      openInterval mark marks (closeInterval cause r.time (some mark)
        (addCloses ind.closes (windowTakes r ind.anyOpen true (periodTakes plan r cycle s)))) := by
  unfold takePlanned
  rw [closure]
  rfl

/-- What a planned boundary leaves in the aggregator is what was counted, but for the interval that a closure opens. -/
theorem takePlanned_iva (plan : BoundaryPlan) (r : Report) (ind : Indications) (cycle : Option Cycle) (s : State) :
    ∃ next, (takePlanned plan r ind cycle s).iva =
      { (addCloses ind.closes (windowTakes r ind.anyOpen plan.closure.isSome (periodTakes plan r cycle s))).iva with
        interval := next } := by
  cases closure : plan.closure with
  | none => exact ⟨_, by rw [takePlanned_none closure]; rfl⟩
  | some x =>
    obtain ⟨cause, mark, marks⟩ := x
    refine ⟨some (Interval.begin mark marks), ?_⟩
    rw [takePlanned_some closure]
    show { (closeInterval _ _ _ _).iva with interval := some (Interval.begin mark marks) } = _
    rw [closeInterval_iva]
    rfl

/-! ## The interval over a boundary -/

theorem Interval.takeLast_frequency (i : Interval) (l : Option LatestWindow) :
    (i.takeLast l).frequencyCount = i.frequencyCount ∧ (i.takeLast l).frequencySum = i.frequencySum ∧
    (i.takeLast l).frequencyRange = i.frequencyRange ∧ (i.takeLast l).startMark = i.startMark ∧
    (i.takeLast l).closes = i.closes := by
  cases l <;> exact ⟨rfl, rfl, rfl, rfl, rfl⟩

/-- A frequency value that is not valid changes no interval. -/
theorem Interval.takeEnded_invalid (i : Interval) {f : Option FrequencyValue} (invalid : ∀ x, f = some x → x.valid = false) :
    i.takeEnded f = i := by
  cases f with
  | none => rfl
  | some x =>
    show i.takeFrequency x = i
    unfold Interval.takeFrequency
    rw [invalid x rfl]
    split <;> rfl

theorem Interval.takeEnded_valid (i : Interval) {x : FrequencyValue} {v : Nat} (valid : x.valid = true) (value : x.value = some v) :
    i.takeEnded (some x) = { i with
      frequencyCount := i.frequencyCount + 1
      frequencySum := i.frequencySum + v
      frequencyRange := some (match i.frequencyRange with
        | some (low, high) => (min low v, max high v)
        | none => (v, v)) } := by
  show i.takeFrequency x = _
  unfold Interval.takeFrequency extendRange
  rw [value, valid]
  cases range : i.frequencyRange with
  | none => rfl
  | some y => rfl

/-- What a frequency value leaves of an interval beside its frequencies. -/
theorem Interval.takeEnded_others (i : Interval) (f : Option FrequencyValue) : i.takeEnded f = { i with
    frequencyCount := (i.takeEnded f).frequencyCount
    frequencySum := (i.takeEnded f).frequencySum
    frequencyRange := (i.takeEnded f).frequencyRange } := by
  cases f with
  | none => rfl
  | some x =>
    show i.takeFrequency x = { i with
      frequencyCount := (i.takeFrequency x).frequencyCount
      frequencySum := (i.takeFrequency x).frequencySum
      frequencyRange := (i.takeFrequency x).frequencyRange }
    unfold Interval.takeFrequency
    split
    · split <;> rfl
    · rfl

end Sys2Proof.Machine
end

section
/-! The frequency of a period, and the boundaries that make it (R66 to R69, R71). -/

namespace Sys2Proof.Machine

/-- What a boundary leaves of the period in progress and of the latest frequency. -/
theorem Iva.counted_period (v : Iva) (plan : BoundaryPlan) (r : Report) (ind : Indications) (cycle : Option Cycle) (due : Bool)
    (set : Settings) :
    (plan.endsPeriod = false → (v.counted plan r ind cycle due set).period = v.period.map (fun p => p.take r cycle) ∧
      (v.counted plan r ind cycle due set).latestFrequency = v.latestFrequency) ∧
    (plan.endsPeriod = true → (v.counted plan r ind cycle due set).period =
        some (Period.take ⟨r.time.seconds / 10 * 10, 0, none, plan.reasons⟩ r cycle) ∧
      (v.counted plan r ind cycle due set).latestFrequency = match v.period.map (fun p => p.value set.fn) with
        | some f => some f
        | none => v.latestFrequency) := by
  unfold Iva.counted Iva.endedPeriod
  refine ⟨fun goes => ?_, fun ends => ?_⟩
  · rw [goes]
    exact ⟨rfl, rfl⟩
  · rw [ends]
    refine ⟨rfl, ?_⟩
    dsimp only
    rw [if_pos rfl]
    cases v.period <;> rfl

/-- What a planned boundary leaves of the period in progress and of the latest frequency, whatever closes. -/
theorem takePlanned_period (v : Iva) (plan : BoundaryPlan) (r : Report) (ind : Indications) (cycle : Option Cycle) (s : State) :
    (takePlanned plan r ind cycle (s.withIva v)).iva.period =
      (v.counted plan r ind cycle plan.closure.isSome s.svc.active).period ∧
    (takePlanned plan r ind cycle (s.withIva v)).iva.latestFrequency =
      (v.counted plan r ind cycle plan.closure.isSome s.svc.active).latestFrequency := by
  obtain ⟨next, iva⟩ := takePlanned_iva plan r ind cycle (s.withIva v)
  rw [iva, counted_from]
  exact ⟨rfl, rfl⟩

/-- The items of a boundary change nothing but the bank, the clock and the link. -/
theorem bankTakes_frame (a b : Option Item) (s : State) (v : Iva) : (bankTakes a (bankTakes b s)).withIva v = { s with
    iva := v, tlb := (bankTakes a (bankTakes b s)).tlb, tmb := (bankTakes a (bankTakes b s)).tmb
    hlk := (bankTakes a (bankTakes b s)).hlk } := by
  have only : BankOnly s (bankTakes a (bankTakes b s)) := (bankTakes_bankOnly b s).trans (bankTakes_bankOnly a _)
  obtain ⟨x, name⟩ : ∃ x, bankTakes a (bankTakes b s) = x := ⟨_, rfl⟩
  rw [name] at only ⊢
  conv_lhs => rw [only]
  rfl

/-- The interval of a boundary before any closure. -/
theorem Iva.counted_interval {v : Iva} {i : Interval} (held : v.interval = some i) (plan : BoundaryPlan) (r : Report)
    (ind : Indications) (cycle : Option Cycle) (due : Bool) (set : Settings) :
    (v.counted plan r ind cycle due set).interval = some (((i.takeEnded (v.endedPeriod plan.endsPeriod set.fn)).takeLast
      (v.endedWindow set r ind.anyOpen due)).withCloses ind.closes) := by
  unfold Iva.counted
  rw [held]
  rfl

theorem markBoundary_interval {v : Iva} {i : Interval} (held : v.interval = some i) : (markBoundary v).interval =
    some { i with marks := { i.marks with
      timeStep := i.marks.timeStep || v.pendingStep
      resumed := i.marks.resumed || v.resumed
      incomplete := i.marks.incomplete || v.resumed || v.pendingStep } } := by
  unfold markBoundary
  rw [held]
  rfl

/-- The marks of an interval that no window sets. -/
theorem Interval.takeLast_firmMarks (i : Interval) (l : Option LatestWindow) :
    (i.takeLast l).marks.incomplete = i.marks.incomplete ∧ (i.takeLast l).marks.timeStep = i.marks.timeStep ∧
    (i.takeLast l).marks.resumed = i.marks.resumed := by
  cases l <;> exact ⟨rfl, rfl, rfl⟩

/-- Settles O18. -/
theorem frequencyIsTheNearestMillihertzInRange : Obligations.FrequencyIsTheNearestMillihertzInRange := by
  unfold Obligations.FrequencyIsTheNearestMillihertzInRange
  refine ⟨fun p fn a b cycles ticks other => p.value_nearest fn cycles ticks other, fun p fn => ⟨rfl, rfl, rfl, rfl,
    (p.value_valid fn).2, (p.value_valid fn).1⟩, ?_⟩
  intro s r ind cycle t seconds joined past broken ends ended item banked
  have joins : ∀ p : Period, joined p = p.take r cycle := fun p => (p.take_eq r cycle).symm
  have handed : item = bankTakes (ended.map periodItem) s := by cases h : ended <;> simp only [item, h] <;> rfl
  cases interval : s.iva.interval with
  | none =>
    have now : ends = true := by simp only [ends, interval]; rfl
    have value : ended = s.iva.period.map (fun p => p.value s.svc.active.fn) := if_pos now
    have reasons : (⟨false, false, s.iva.pendingStep, s.iva.resumed, broken, false⟩ : PeriodReasons) =
        brokenPeriod s.iva.pendingStep s.iva.resumed := by simp only [broken, interval]; rfl
    obtain ⟨v, begun⟩ : ∃ v : Iva, { s.iva with interval := some (Interval.begin (seconds / 600 * 600)
      { IntervalMarks.none with incomplete := true }) } = v := ⟨_, rfl⟩
    obtain ⟨plan, planned⟩ : ∃ plan : BoundaryPlan, ⟨true, brokenPeriod s.iva.pendingStep s.iva.resumed, none⟩ = plan := ⟨_, rfl⟩
    have whole := takeBoundary_none interval r ind cycle
    rw [begun, planned, counted_from] at whole
    have period : v.period = s.iva.period := by rw [← begun]
    have latest : v.latestFrequency = s.iva.latestFrequency := by rw [← begun]
    have ends' : v.endedPeriod plan.endsPeriod s.svc.active.fn = ended := by
      rw [value, ← period, ← planned]
      rfl
    obtain ⟨-, joinsNew⟩ := v.counted_period plan r ind cycle false s.svc.active
    obtain ⟨periodNew, latestNew⟩ := joinsNew (by rw [← planned])
    have counts := v.counted_interval (i := Interval.begin (seconds / 600 * 600) { IntervalMarks.none with incomplete := true })
      (by rw [← begun]) plan r ind cycle false s.svc.active
    have bank := v.counted_banked plan r ind cycle false s.svc.active item
    rw [ends'] at whole counts
    obtain ⟨c, name⟩ : ∃ c, v.counted plan r ind cycle false s.svc.active = c := ⟨_, rfl⟩
    rw [name] at whole periodNew latestNew counts bank
    have iva : t.iva = { c with pendingStep := false, resumed := false, lastBoundaryTime := some r.time } := congrArg State.iva whole
    have bank' : banked t.iva = bankTakes ((v.endedWindow s.svc.active r ind.anyOpen false).map windowItem)
        (bankTakes (ended.map periodItem) s) := (congrArg banked iva).trans (bank.trans (by rw [handed]))
    refine ⟨fun h => (nomatch now.symm.trans h), fun _ => ⟨?_, ?_⟩, fun _ => ⟨?_, ?_⟩, fun i h => (nomatch h)⟩
    · rw [joins, reasons, iva]
      exact periodNew.trans (by rw [← planned])
    · rw [iva]
      refine latestNew.trans ?_
      rw [period, latest, ← value] <;> rfl
    · rw [bank', iva]
      exact whole.trans (bankTakes_frame _ _ _ _)
    · refine ⟨_, (congrArg Iva.interval iva).trans counts, ?_⟩
      obtain ⟨-, -, -, start, closes⟩ := Interval.takeLast_frequency ((Interval.begin (seconds / 600 * 600)
        { IntervalMarks.none with incomplete := true }).takeEnded ended) (v.endedWindow s.svc.active r ind.anyOpen false)
      have others := Interval.takeEnded_others (Interval.begin (seconds / 600 * 600)
        { IntervalMarks.none with incomplete := true }) ended
      obtain ⟨incomplete, timeStep, resumed⟩ := Interval.takeLast_firmMarks ((Interval.begin (seconds / 600 * 600)
        { IntervalMarks.none with incomplete := true }).takeEnded ended) (v.endedWindow s.svc.active r ind.anyOpen false)
      refine ⟨start.trans (by rw [others]; rfl), ?_, ?_, ?_, ?_⟩
      · show saturate max16 (_ + ind.closes) = _
        rw [closes, others]
        show saturate max16 (0 + ind.closes) = _
        rw [Nat.zero_add, saturate, Nat.min_comm]
      · exact incomplete.trans (by rw [others]; rfl)
      · exact timeStep.trans (by rw [others]; rfl)
      · exact resumed.trans (by rw [others]; rfl)
  | some i =>
    have ends' : (planBoundary s.iva i seconds).endsPeriod = ends := by
      rw [planBoundary_ends]
      simp only [ends, past, interval]
      rfl
    have due : (planBoundary s.iva i seconds).closure.isSome = (s.iva.pendingStep || past) := by
      rw [planBoundary_closes]
      simp only [past, interval]
      rfl
    have reasons : (⟨false, false, s.iva.pendingStep, s.iva.resumed, broken, false⟩ : PeriodReasons) =
        (planBoundary s.iva i seconds).reasons := by
      rw [planBoundary_reasons]
      simp only [broken, interval]
      rfl
    obtain ⟨v, marked⟩ : ∃ v, markBoundary s.iva = v := ⟨_, rfl⟩
    obtain ⟨plan, planned⟩ : ∃ plan, planBoundary s.iva i seconds = plan := ⟨_, rfl⟩
    have whole := takeBoundary_some interval r ind cycle
    obtain ⟨periodT, latestT⟩ := takePlanned_period v plan r ind cycle s
    have held := markBoundary_interval interval
    have period : v.period = s.iva.period := by rw [← marked]; rfl
    have latest : v.latestFrequency = s.iva.latestFrequency := by rw [← marked]; rfl
    rw [marked, show planBoundary s.iva i r.time.seconds = plan from planned] at whole
    rw [marked] at held
    rw [planned] at ends' due reasons
    rw [due] at periodT latestT
    have value : v.endedPeriod plan.endsPeriod s.svc.active.fn = ended := by
      rw [ends']
      unfold Iva.endedPeriod
      rw [period]
    have counts := v.counted_interval held plan r ind cycle (s.iva.pendingStep || past) s.svc.active
    have counted := counted_from v plan r ind cycle (s.iva.pendingStep || past) s
    have bank := v.counted_banked plan r ind cycle (s.iva.pendingStep || past) s.svc.active item
    obtain ⟨goes, stops⟩ := v.counted_period plan r ind cycle (s.iva.pendingStep || past) s.svc.active
    rw [value] at counts counted
    obtain ⟨c, name⟩ : ∃ c, v.counted plan r ind cycle (s.iva.pendingStep || past) s.svc.active = c := ⟨_, rfl⟩
    rw [name] at periodT latestT counts counted bank goes stops
    have periodT' : t.iva.period = c.period := (congrArg (fun x : State => x.iva.period) whole).trans periodT
    have latestT' : t.iva.latestFrequency = c.latestFrequency := (congrArg (fun x : State => x.iva.latestFrequency) whole).trans latestT
    refine ⟨fun no => ?_, fun yes => ?_, fun h => (nomatch h), ?_⟩
    · obtain ⟨periodNew, latestNew⟩ := goes (ends'.trans no)
      rw [periodT', latestT', periodNew, latestNew, period, latest]
      exact ⟨congrArg (fun f => s.iva.period.map f) (funext fun p => (joins p).symm), rfl⟩
    · obtain ⟨periodNew, latestNew⟩ := stops (ends'.trans yes)
      have value' : ended = s.iva.period.map (fun p => p.value s.svc.active.fn) := if_pos yes
      rw [periodT', latestT', periodNew, latestNew, joins, reasons, period, latest, ← value']
      exact ⟨rfl, rfl⟩
    · intro i' same u
      obtain rfl : i' = i := (Option.some.inj same).symm
      have counted' : u = (bankTakes ((v.endedWindow s.svc.active r ind.anyOpen (s.iva.pendingStep || past)).map windowItem)
          (bankTakes (ended.map periodItem) s)).withIva c := by
        rw [← counted, ← planned, ← marked]
        rfl
      have iva : u.iva = c := congrArg State.iva counted'
      have bank' : banked u.iva = bankTakes ((v.endedWindow s.svc.active r ind.anyOpen (s.iva.pendingStep || past)).map windowItem)
          (bankTakes (ended.map periodItem) s) := (congrArg banked iva).trans (bank.trans (by rw [handed]))
      refine ⟨?_, (congrArg Iva.period iva).trans periodT'.symm, (congrArg Iva.latestFrequency iva).trans latestT'.symm, ?_, ?_⟩
      · rw [bank', iva]
        exact counted'.trans (bankTakes_frame _ _ _ _)
      · intro step inside
        have closure : plan.closure = none := by
          rw [step, inside] at due
          exact Option.isNone_iff_eq_none.mp (by rw [← Option.not_isSome, due]; rfl)
        rw [takePlanned_none closure] at whole
        have same : u = addCloses ind.closes (windowTakes r ind.anyOpen false (periodTakes plan r cycle (s.withIva v))) := by
          have never : (s.iva.pendingStep || past) = false := by rw [step, inside]; rfl
          rw [← never, ← planned, ← marked]
          rfl
        rw [← same] at whole
        exact whole
      · refine ⟨_, (congrArg Iva.interval iva).trans counts, ?_⟩
        obtain ⟨k, markedInterval⟩ : ∃ k : Interval, { i' with marks := { i'.marks with
          timeStep := i'.marks.timeStep || s.iva.pendingStep
          resumed := i'.marks.resumed || s.iva.resumed
          incomplete := i'.marks.incomplete || s.iva.resumed || s.iva.pendingStep } } = k := ⟨_, rfl⟩
        rw [markedInterval]
        obtain ⟨count, sum, range, start, -⟩ := Interval.takeLast_frequency (k.takeEnded ended)
          (v.endedWindow s.svc.active r ind.anyOpen (s.iva.pendingStep || past))
        refine ⟨start.trans (by rw [Interval.takeEnded_others, ← markedInterval]), fun invalid => ?_, fun f x isEnded valid isValue => ?_⟩
        · rw [Interval.takeEnded_invalid k invalid] at count sum range ⊢
          exact ⟨count.trans (by rw [← markedInterval]), sum.trans (by rw [← markedInterval]),
            range.trans (by rw [← markedInterval])⟩
        · rw [isEnded, Interval.takeEnded_valid k valid isValue] at count sum range
          rw [isEnded, Interval.takeEnded_valid k valid isValue]
          rw [← markedInterval] at count sum range ⊢
          exact ⟨count, sum, range⟩

end Sys2Proof.Machine
end

section
/-! A window that ends at its full count, and the interval that takes it (R54 to R57, R61). -/

namespace Sys2Proof.Machine

@[simp] theorem State.withIva_tlb (s : State) (v : Iva) : (s.withIva v).tlb = s.tlb := rfl

/-- The sums of a phase with a window value (R61). -/
theorem PhaseSums.add_eq (x : PhaseSums) (v : Option Nat) : x.add v = match v with
    | some v => ⟨x.squares + v * v, some (match x.range with
      | some (low, high) => (min low v, max high v)
      | none => (v, v))⟩
    | none => x := by
  cases v with
  | none => rfl
  | some v =>
    unfold PhaseSums.add extendRange
    cases range : x.range with
    | none => rfl
    | some y => rfl

/-- A window is flagged where one of its four reasons holds (R56). -/
theorem one_flagged (f : WindowFlags) : one f.any =
    if f.event = true ∨ f.synthetic = true ∨ f.clipped = true ∨ f.oscillator = true then 1 else 0 := by
  unfold one WindowFlags.any
  refine if_congr ?_ rfl rfl
  rw [Bool.or_eq_true, Bool.or_eq_true, Bool.or_eq_true, or_assoc, or_assoc]

theorem saturate_max16 (n : Nat) : saturate max16 n = min 65535 n := Nat.min_comm n 65535

/-- What a boundary with a window that ends leaves of an interval beside its frequencies. -/
theorem Interval.takes_window (i : Interval) (f : Option FrequencyValue) (l : LatestWindow) (n : Nat) {j : Interval}
    (taken : ((i.takeEnded f).takeLast (some l)).withCloses n = j) :
    j.startMark = i.startMark ∧ j.closes = min 65535 (i.closes + n) ∧ j.windows = min 65535 (i.windows + 1) ∧
    j.flagged = min 65535 (i.flagged +
      if l.flags.event = true ∨ l.flags.synthetic = true ∨ l.flags.clipped = true ∨ l.flags.oscillator = true then 1 else 0) ∧
    j.marks = { i.marks with
      event := i.marks.event || l.flags.event
      synthetic := i.marks.synthetic || l.flags.synthetic
      clipped := i.marks.clipped || l.flags.clipped
      clock := i.marks.clock || l.flags.oscillator } ∧
    (∀ p, j.phases.get p = (i.phases.get p).add (l.values.get p)) ∧
    j.frequencyCount = (i.takeEnded f).frequencyCount ∧ j.frequencySum = (i.takeEnded f).frequencySum ∧
    j.frequencyRange = (i.takeEnded f).frequencyRange := by
  obtain ⟨e, ended⟩ : ∃ e, i.takeEnded f = e := ⟨_, rfl⟩
  have others := i.takeEnded_others f
  rw [ended] at taken others ⊢
  rw [← taken, ← saturate_max16, ← saturate_max16, ← saturate_max16, ← one_flagged]
  have closes : e.closes = i.closes := by rw [others]
  have windows : e.windows = i.windows := by rw [others]
  have flagged : e.flagged = i.flagged := by rw [others]
  have marks : e.marks = i.marks := by rw [others]
  have phases : e.phases = i.phases := by rw [others]
  refine ⟨?_, ?_, ?_, ?_, ?_, fun p => ?_, rfl, rfl, rfl⟩
  · exact (congrArg Interval.startMark others).trans rfl
  · rw [← closes]
    rfl
  · rw [← windows]
    rfl
  · rw [← flagged]
    rfl
  · rw [← marks]
    rfl
  · rw [← phases]
    exact PerPhase.build_get (fun p => (e.phases.get p).add (l.values.get p)) p

/-- The aggregator without a step or a resume pending is as it was marked. -/
theorem markBoundary_unmarked {v : Iva} (step : v.pendingStep = false) (resumed : v.resumed = false) : markBoundary v = v := by
  have marks : (fun i : Interval => ({ i with marks := { i.marks with
      timeStep := i.marks.timeStep || v.pendingStep
      resumed := i.marks.resumed || v.resumed
      incomplete := i.marks.incomplete || v.resumed || v.pendingStep } } : Interval)) = id := by
    funext i
    rw [step, resumed, Bool.or_false, Bool.or_false, Bool.or_false, Bool.or_false]
    rfl
  unfold markBoundary
  rw [marks, Option.map_id]
  rfl

/-- A value of a report that has been clipped. -/
theorem clippedValue_iff (x : PerPhase (Option PhaseValue)) : (presentValues x).any PhaseValue.clipped = true ↔
    ∃ p v, x.get p = some v ∧ v.clipped = true := by
  rw [List.any_eq_true]
  constructor
  · rintro ⟨v, member, clipped⟩
    obtain ⟨p, present⟩ := mem_presentValues.mp member
    exact ⟨p, v, present, clipped⟩
  · rintro ⟨p, v, present, clipped⟩
    exact ⟨v, mem_presentValues.mpr ⟨p, present⟩, clipped⟩

/-- The window in progress with a boundary (R54 to R56). -/
theorem Window.take_eq (w : Window) (r : Report) (anyOpen : Bool) :
    (w.take r anyOpen).full = w.full ∧ (w.take r anyOpen).count = w.count + 1 ∧
    (w.take r anyOpen).samples = w.samples + r.count ∧
    (∀ p, (w.take r anyOpen).sums.get p = w.sums.get p + ((r.values.get p).map PhaseValue.halfSum).getD 0) ∧
    ((w.take r anyOpen).flags.event = true ↔ w.flags.event = true ∨ anyOpen = true) ∧
    ((w.take r anyOpen).flags.synthetic = true ↔ w.flags.synthetic = true ∨ r.synthetic = true) ∧
    ((w.take r anyOpen).flags.clipped = true ↔ w.flags.clipped = true ∨ ∃ p v, r.values.get p = some v ∧ v.clipped = true) ∧
    ((w.take r anyOpen).flags.oscillator = true ↔ w.flags.oscillator = true ∨ r.osc = true) := by
  refine ⟨rfl, rfl, rfl, fun p => PerPhase.build_get (fun p => w.sums.get p + ((r.values.get p).map PhaseValue.halfSum).getD 0) p, Bool.or_eq_true_iff .., Bool.or_eq_true_iff .., ?_, Bool.or_eq_true_iff ..⟩
  rw [← clippedValue_iff]
  exact Bool.or_eq_true_iff ..

/-- The value of a phase over an ending window (R55). -/
theorem Window.phaseValue_eq (w : Window) (set : Settings) (p : Phase) :
    (w.phaseValue set p).1 = min 20000 ((isqrt (w.sums.get p / w.samples) * set.k.get p + 32768) / 65536) ∧
    ((w.phaseValue set p).2 = true ↔ 20000 < (isqrt (w.sums.get p / w.samples) * set.k.get p + 32768) / 65536) :=
  ⟨Nat.min_comm .., decide_eq_true_iff⟩

/-- An ending window is clipped by a value or by its limit (R56). -/
theorem Window.finish_clipped (w : Window) (set : Settings) (endTime : Time) (startMark : Nat) :
    (w.finish set endTime startMark).flags.clipped = true ↔ w.flags.clipped = true ∨
      ∃ p, wired set.wiring p = true ∧ (w.phaseValue set p).2 = true := by
  have limit : (wiredPhases set.wiring).any (fun p => (w.phaseValue set p).2) = true ↔
      ∃ p, wired set.wiring p = true ∧ (w.phaseValue set p).2 = true := by
    rw [List.any_eq_true]
    constructor
    · rintro ⟨p, member, limited⟩
      exact ⟨p, (List.mem_filter.mp member).2, limited⟩
    · rintro ⟨p, isWired, limited⟩
      exact ⟨p, List.mem_filter.mpr ⟨by cases p <;> decide, isWired⟩, limited⟩
  rw [← limit]
  exact Bool.or_eq_true_iff ..

theorem Window.finish_value (w : Window) (set : Settings) (endTime : Time) (startMark : Nat) (p : Phase) :
    (w.finish set endTime startMark).values.get p = if wired set.wiring p then some (w.phaseValue set p).1 else none :=
  PerPhase.build_get (fun p => if wired set.wiring p then some (w.phaseValue set p).1 else none) p

/-- A boundary inside an interval with nothing pending counts, and closes nothing. -/
theorem takeBoundary_inside {s : State} {r : Report} {i : Interval} (ind : Indications) (cycle : Option Cycle)
    (interval : s.iva.interval = some i) (step : s.iva.pendingStep = false) (resumed : s.iva.resumed = false)
    (inside : r.time.seconds < i.startMark + 600) : takeBoundary r ind cycle s =
      (bankTakes ((s.iva.endedWindow s.svc.active r ind.anyOpen false).map windowItem)
        (bankTakes ((s.iva.endedPeriod (planBoundary s.iva i r.time.seconds).endsPeriod s.svc.active.fn).map periodItem) s)).withIva
        { s.iva.counted (planBoundary s.iva i r.time.seconds) r ind cycle false s.svc.active with
          pendingStep := false
          resumed := false
          lastBoundaryTime := some r.time } := by
  rw [takeBoundary_some interval, takePlanned_none (planBoundary_plain step inside), markBoundary_unmarked step resumed, counted_from]
  rfl

/-- Settles O15. -/
theorem windowEndsAtItsFullCount : Obligations.WindowEndsAtItsFullCount := by
  unfold Obligations.WindowEndsAtItsFullCount
  intro s r ind cycle i interval step resumed inside full w t
  have whole := takeBoundary_inside ind cycle interval step resumed inside
  obtain ⟨plan, planned⟩ : ∃ plan, planBoundary s.iva i r.time.seconds = plan := ⟨_, rfl⟩
  rw [planned] at whole
  have begins : w = s.iva.window.getD (Window.begin s.svc.active.fn) := by
    simp only [w, full]
    cases s.svc.active.fn <;> rfl
  have now : s.iva.windowNow s.svc.active.fn r ind.anyOpen = w.take r ind.anyOpen := by rw [begins]; rfl
  have mark : (s.iva.interval.map Interval.startMark).getD 0 = i.startMark := by rw [interval]; rfl
  obtain ⟨fullKept, count, samples, sums, event, synthetic, clipped, oscillator⟩ := w.take_eq r ind.anyOpen
  obtain ⟨w', taken⟩ : ∃ w', w.take r ind.anyOpen = w' := ⟨_, rfl⟩
  rw [taken] at now fullKept count samples sums event synthetic clipped oscillator
  have iva : t.iva = { s.iva.counted plan r ind cycle false s.svc.active with
      pendingStep := false, resumed := false, lastBoundaryTime := some r.time } := congrArg State.iva whole
  by_cases short : w.count + 1 < w.full
  · rw [if_pos short]
    have goes : s.iva.endedWindow s.svc.active r ind.anyOpen false = none := by
      unfold Iva.endedWindow
      rw [now, fullKept, count]
      exact if_neg fun h => h.elim (Nat.not_le.mpr short) (fun h => (nomatch h))
    have window : t.iva.window = some w' := by
      rw [iva]
      unfold Iva.counted
      rw [goes, now]
    refine ⟨?_, w', window, fullKept, count, samples, sums, event, synthetic, clipped, oscillator⟩
    rw [iva]
    unfold Iva.counted
    rw [goes]
    rfl
  · rw [if_neg short]
    obtain ⟨l, done⟩ : ∃ l, w'.finish s.svc.active r.time i.startMark = l := ⟨_, rfl⟩
    have ends : s.iva.endedWindow s.svc.active r ind.anyOpen false = some l := by
      unfold Iva.endedWindow
      rw [now, fullKept, count, mark, done]
      exact if_pos (.inl (Nat.not_lt.mp short))
    have counts := s.iva.counted_interval interval plan r ind cycle false s.svc.active
    rw [ends] at counts whole
    have value : ∀ p, (w'.phaseValue s.svc.active p).1 = min 20000 ((isqrt ((w.sums.get p +
        ((r.values.get p).map PhaseValue.halfSum).getD 0) / (w.samples + r.count)) * s.svc.active.k.get p + 32768) / 65536) ∧
        ((w'.phaseValue s.svc.active p).2 = true ↔ 20000 < (isqrt ((w.sums.get p +
        ((r.values.get p).map PhaseValue.halfSum).getD 0) / (w.samples + r.count)) * s.svc.active.k.get p + 32768) / 65536) :=
      fun p => by
        rw [← sums, ← samples]
        exact w'.phaseValue_eq s.svc.active p
    refine ⟨?_, l, ?_, ?_, ?_, ?_, ?_, ?_, ?_, ?_, ?_, ?_, ?_, ?_, ?_⟩
    · rw [iva]
      unfold Iva.counted
      rw [ends]
    · rw [iva]
      unfold Iva.counted
      rw [ends]
      rfl
    · rw [← done]
      rfl
    · rw [← done]
      exact count
    · rw [← done]
      exact samples
    · rw [← done]
      rfl
    · rw [← done, ← count, ← fullKept]
      exact decide_eq_true_iff
    · rw [← done]
      exact event
    · rw [← done]
      exact synthetic
    · rw [← done, Window.finish_clipped, clipped, or_assoc]
      exact or_congr_right (or_congr_right (exists_congr fun p => and_congr_right fun _ => (value p).2))
    · rw [← done]
      exact oscillator
    · intro d period before
      have goes : plan.endsPeriod = false := by
        rw [← planned, planBoundary_ends, step, resumed, period]
        exact decide_eq_false (Nat.not_le.mpr before)
      have none' : s.iva.endedPeriod plan.endsPeriod s.svc.active.fn = none := by rw [goes]; rfl
      have mark' : l.startMark = i.startMark := by rw [← done]; rfl
      have only : bankTakes ((some l).map windowItem) (bankTakes (Option.map periodItem none) s) = handItem (windowItem l) s := rfl
      rw [none', only] at whole
      rw [← mark']
      have bank : t.tlb = (handItem (windowItem l) s).tlb := by rw [← State.withIva_tlb (handItem (windowItem l) s), ← whole]
      exact bank
    · intro p
      rw [← done, Window.finish_value, (value p).1]
    · obtain ⟨j, isJ⟩ : ∃ j, ((i.takeEnded (s.iva.endedPeriod plan.endsPeriod s.svc.active.fn)).takeLast (some l)).withCloses
        ind.closes = j := ⟨_, rfl⟩
      rw [isJ] at counts
      obtain ⟨start, -, windows, flagged, marks, phases, -⟩ := Interval.takes_window i _ l ind.closes isJ
      refine ⟨j, (congrArg Iva.interval iva).trans counts, start, windows.trans (saturate_max16 _).symm,
        flagged.trans (saturate_max16 _).symm, marks, fun p => ?_⟩
      rw [phases, PhaseSums.add_eq] <;> rfl

end Sys2Proof.Machine
end

section
/-! An interval that closes: its record, its notice, its item, and what stays of them (R62, R64, R65). -/

namespace Sys2Proof.Machine

@[simp] theorem State.withIva_evs (s : State) (v : Iva) : (s.withIva v).evs = s.evs := rfl
@[simp] theorem State.withIva_hlk (s : State) (v : Iva) : (s.withIva v).hlk = s.hlk := rfl
@[simp] theorem State.withIva_iva (s : State) (v : Iva) : (s.withIva v).iva = v := rfl

/-! ## What stays in the queues -/

/-- A record stays in the queue while another one is offered. -/
theorem Queues.keeps {s t : State} {kind : RecordKind} {payload : List Byte} {generation : BitVec 16}
    (h : Queues s t kind payload generation) {x : Record} (waits : x ∈ s.evs.pwq) : x ∈ t.evs.pwq := by
  cases takes : recordTaken s with
  | true =>
    obtain ⟨y, queue, -⟩ := h.taken takes
    rw [queue]
    exact List.mem_append_left _ waits
  | false =>
    obtain ⟨queue, -⟩ := h.dropped takes
    rw [queue]
    exact waits

theorem offer_keeps_queue {s : State} {x : Record} (kind : RecordKind) (payload : List Byte) (waits : x ∈ s.evs.pwq) :
    x ∈ (offer kind payload s).evs.pwq := (offer_queues kind payload s).keeps waits

theorem applyStaged_keeps_queue {s : State} {x : Record} (waits : x ∈ s.evs.pwq) : x ∈ (applyStaged s).evs.pwq := by
  by_cases staged : s.svc.staged = []
  · rw [show applyStaged s = s from if_pos staged]
    exact waits
  · rw [applyStaged_some staged]
    exact offer_keeps_queue (s := stagedWritten s) _ _ waits

theorem advanceSurvey_keeps_queue {s : State} {x : Record} (k : Closure) (waits : x ∈ s.evs.pwq) :
    x ∈ (advanceSurvey k s).evs.pwq := by
  have counts : ∀ n, (countSkipped n s).evs = s.evs := fun n => by
    unfold countSkipped
    split <;> rfl
  unfold advanceSurvey
  cases s.svc.survey.state with
  | idle => exact waits
  | complete => exact waits
  | aborted => exact waits
  | armed =>
    cases k.opened with
    | none => exact waits
    | some mark =>
      dsimp only
      split
      · rw [startSurvey_eq]
        exact offer_keeps_queue (s := surveyCleared s) _ _ waits
      · exact waits
  | running =>
    dsimp only
    split
    · exact (concludeSurvey_queues _ _ _).keeps (by rw [counts]; exact waits)
    · rw [counts]
      exact waits

theorem takeClosure_keeps_queue {s : State} {x : Record} (k : Closure) (waits : x ∈ s.evs.pwq) :
    x ∈ (takeClosure k s).evs.pwq := advanceSurvey_keeps_queue k (applyStaged_keeps_queue waits)

/-- A notice stays in the queue while others join it. -/
theorem foldl_noticeJoins_keeps (mask : NoticeMask) (posted queue : List Notice) {n : Notice} (waits : n ∈ queue) :
    n ∈ posted.foldl (noticeJoins mask) queue := by
  induction posted generalizing queue with
  | nil => exact waits
  | cons next rest ih =>
    refine ih _ ?_
    unfold noticeJoins
    split
    · exact List.mem_append_left _ waits
    · exact waits

/-- A notice stays in the queue of a busy transmitter while others are posted. -/
theorem Posts.keeps {s t : State} {posted : List Notice} (h : Posts s t posted) (busy : s.hlk.transmitter ≠ .idle) {n : Notice}
    (waits : n ∈ s.hlk.notices) : n ∈ t.hlk.notices := by
  rw [(h.busy busy).2.1]
  exact foldl_noticeJoins_keeps _ _ _ waits

theorem Posts.stays_busy {s t : State} {posted : List Notice} (h : Posts s t posted) (busy : s.hlk.transmitter ≠ .idle) :
    t.hlk.transmitter ≠ .idle := by
  rw [(h.busy busy).1]
  exact busy

/-- An item posts some notices, and steadies the link. -/
theorem handItem_link (item : Item) (s : State) : (∃ posted, Posts s (handItem item s) posted) ∧
    LinkSteady s (handItem item s) := by
  obtain ⟨-, posts, steady⟩ := cellsTake item (List.nodup_range (n := 12)) s
  have same := (handItem_cellsLink item s).2
  exact ⟨⟨_, posts.of_links rfl same⟩, steady.trans (LinkSteady.of_eq same)⟩

theorem bankTakes_link (item : Option Item) (s : State) : (∃ posted, Posts s (bankTakes item s) posted) ∧
    LinkSteady s (bankTakes item s) := by
  cases item with
  | none => exact ⟨⟨[], Posts.refl s⟩, LinkSteady.of_eq rfl⟩
  | some x => exact handItem_link x s

/-! ## The start mark in the record -/

theorem fromBigEndian_four (n : Nat) : fromBigEndian (bigEndian 4 n) = n % 4294967296 := by
  simp only [fromBigEndian, bigEndian, List.foldl_cons, List.foldl_nil, BitVec.toNat_ofNat]
  omega

theorem IntervalRecord.payload_startMark (r : IntervalRecord) : fieldAt r.payload 1 4 = r.startMark % 4294967296 := by
  rw [← fromBigEndian_four]
  rfl

/-! ## The closing of an interval, written out -/

/-- The fields of IVC for an interval (R65). -/
def ivcFields (j : Interval) (cause : ClosureCause) (closeTime : Time) (u : State) : List Text :=
  [num j.startMark, timeText closeTime] ++ (([Phase.l1, .l2, .l3].filter (wired u.svc.active.wiring)).map (fun p =>
    optText num ((intervalValues (j.record closeTime (cause == .halt) u).phases).get p))) ++
  [(j.record closeTime (cause == .halt) u).marks.text, bitText (j.record closeTime (cause == .halt) u).valid,
    bitText (j.record closeTime (cause == .halt) u).member, optText num (offeredSequence u)]

theorem intervalPosted_eq (j : Interval) (cause : ClosureCause) (closeTime : Time) (u : State) :
    intervalPosted j cause closeTime u = postNotice .ivc (ivcFields j cause closeTime u)
      (offer .ivl (j.record closeTime (cause == .halt) u).payload u) := rfl

/-- An interval marked INCOMPLETE is not valid (R62). -/
theorem Interval.record_invalid {j : Interval} (incomplete : j.marks.incomplete = true) (closeTime : Time) (halted : Bool)
    (u : State) : (j.record closeTime halted u).valid = false := by
  show intervalValid (j.finalMarks halted) _ = false
  unfold intervalValid Interval.finalMarks
  dsimp only
  rw [incomplete, Bool.true_or, Bool.true_or, Bool.true_or, Bool.true_or, Bool.or_true]
  rfl

/-- The state in which the settings unit and the survey take the closure of an interval: its record offered, its notice posted
and its item handed to the bank, and no interval in progress. -/
def intervalGone (j : Interval) (cause : ClosureCause) (closeTime : Time) (u : State) : State :=
  (intervalHanded j cause closeTime u).withIva { u.iva with interval := none }

theorem closeInterval_gone {u : State} {j : Interval} (held : u.iva.interval = some j) (cause : ClosureCause) (closeTime : Time)
    (opened : Option Nat) : closeInterval cause closeTime opened u =
      takeClosure (closureOf j cause closeTime opened u) (intervalGone j cause closeTime u) := by
  have iva : (intervalHanded j cause closeTime u).iva = u.iva := by rw [intervalHanded_others]
  rw [closeInterval_some held]
  unfold intervalGone State.withIva
  rw [iva]

theorem intervalGone_evs (j : Interval) (cause : ClosureCause) (closeTime : Time) (u : State) :
    (intervalGone j cause closeTime u).evs = (offer .ivl (j.record closeTime (cause == .halt) u).payload u).evs := by
  have handed : (intervalHanded j cause closeTime u).evs = (intervalPosted j cause closeTime u).evs := (handItem_bankOnly _ _).evs
  unfold intervalGone
  rw [State.withIva_evs, handed, intervalPosted_eq, postNotice_others]

/-- The record of an interval that closes is in the queue of a store with room (R64). -/
theorem intervalGone_queues (j : Interval) (cause : ClosureCause) (closeTime : Time) (u : State) :
    Queues u (intervalGone j cause closeTime u) .ivl (j.record closeTime (cause == .halt) u).payload u.svc.generation :=
  (offer_queues .ivl _ u).after (intervalGone_evs j cause closeTime u)

theorem intervalGone_others (j : Interval) (cause : ClosureCause) (closeTime : Time) (u : State) :
    intervalGone j cause closeTime u = { u with
      evs := (intervalGone j cause closeTime u).evs, tlb := (intervalGone j cause closeTime u).tlb
      tmb := (intervalGone j cause closeTime u).tmb, hlk := (intervalGone j cause closeTime u).hlk
      iva := { u.iva with interval := none } } := by
  have others := intervalHanded_others j cause closeTime u
  unfold intervalGone
  obtain ⟨x, name⟩ : ∃ x, intervalHanded j cause closeTime u = x := ⟨_, rfl⟩
  rw [name] at others ⊢
  conv_lhs => rw [others]
  rfl

/-- The notice of an interval that closes waits, where it is admitted, with room and a busy transmitter (R65). -/
theorem intervalGone_tells {u : State} (j : Interval) (cause : ClosureCause) (closeTime : Time)
    (admitted : u.hlk.settings.mask.ivc = true) (busy : u.hlk.transmitter ≠ .idle) (room : u.hlk.notices.length < 16) :
    (⟨.ivc, ivcFields j cause closeTime u⟩ : Notice) ∈ (intervalGone j cause closeTime u).hlk.notices := by
  have form := intervalPosted_eq j cause closeTime u
  obtain ⟨offered, settings⟩ := offer_posts .ivl (j.record closeTime (cause == .halt) u).payload u
  obtain ⟨x, name⟩ : ∃ x, offer .ivl (j.record closeTime (cause == .halt) u).payload u = x := ⟨_, rfl⟩
  rw [name] at form offered settings
  have busyX : x.hlk.transmitter ≠ .idle := offered.stays_busy busy
  have notices : x.hlk.notices = u.hlk.notices := (offered.busy busy).2.1
  have queued := postNotice_queued (kind := .ivc) (fields := ivcFields j cause closeTime u) (s := x) (by rw [settings]; exact admitted)
    (by rw [notices]; exact room) busyX
  rw [queued] at form
  obtain ⟨⟨posted, posts⟩, -⟩ : (∃ posted, Posts (intervalPosted j cause closeTime u) (intervalHanded j cause closeTime u) posted) ∧
    LinkSteady (intervalPosted j cause closeTime u) (intervalHanded j cause closeTime u) :=
    handItem_link (intervalItem j cause closeTime u) (intervalPosted j cause closeTime u)
  have waits : (⟨.ivc, ivcFields j cause closeTime u⟩ : Notice) ∈ (intervalPosted j cause closeTime u).hlk.notices := by
    rw [form]
    exact List.mem_append_right _ (List.mem_singleton.mpr rfl)
  unfold intervalGone
  rw [State.withIva_hlk]
  exact posts.keeps (by rw [form]; exact busyX) waits

end Sys2Proof.Machine
end

section
/-! The boundaries that close an interval (R60, R62, R64, R65, R73 to R75, R102). -/

namespace Sys2Proof.Machine

/-- The interval in progress as a boundary marks it (R73, R75). -/
def Interval.marked (i : Interval) (v : Iva) : Interval :=
  { i with marks := { i.marks with
      timeStep := i.marks.timeStep || v.pendingStep
      resumed := i.marks.resumed || v.resumed
      incomplete := i.marks.incomplete || v.resumed || v.pendingStep } }

/-- The period that a closing boundary ends. -/
def Iva.closingPeriod (v : Iva) (i : Interval) (fn : NominalFrequency) (seconds : Nat) : Option FrequencyValue :=
  v.endedPeriod (planBoundary v i seconds).endsPeriod fn

/-- What a boundary that closes an interval leaves before the closure. -/
structure BeforeClosure (s u : State) (r : Report) (ind : Indications) (i : Interval) (l : LatestWindow) (j : Interval) : Prop where
  whole : u = { s with iva := u.iva, tlb := u.tlb, tmb := u.tmb, hlk := u.hlk }
  clock : s.tmb.SameButReadings u.tmb
  reading : reading u = reading s
  link : (∃ posted, Posts s u posted) ∧ LinkSteady s u
  window : u.iva.window = none
  latest : u.iva.latestWindow = some l
  endTime : l.endTime = r.time
  startMark : l.startMark = i.startMark
  interval : u.iva.interval = some j
  taken : (((i.marked s.iva).takeEnded (s.iva.closingPeriod i s.svc.active.fn r.time.seconds)).takeLast (some l)).withCloses
    ind.closes = j

theorem BeforeClosure.quality {s u : State} {r : Report} {ind : Indications} {i j : Interval} {l : LatestWindow}
    (h : BeforeClosure s u r ind i l j) : u.tmb.quality = s.tmb.quality := by rw [h.clock]

/-- A boundary counted up to a closure (R53). -/
def closingCounted (s : State) (r : Report) (ind : Indications) (cycle : Option Cycle) (i : Interval) : State :=
  addCloses ind.closes (windowTakes r ind.anyOpen true
    (periodTakes (planBoundary s.iva i r.time.seconds) r cycle (s.withIva (markBoundary s.iva))))

theorem closingCounted_before {s : State} {i : Interval} (held : s.iva.interval = some i) (r : Report) (ind : Indications)
    (cycle : Option Cycle) : ∃ l j, BeforeClosure s (closingCounted s r ind cycle i) r ind i l j := by
  obtain ⟨u, name⟩ : ∃ u, closingCounted s r ind cycle i = u := ⟨_, rfl⟩
  obtain ⟨v, marked⟩ : ∃ v, markBoundary s.iva = v := ⟨_, rfl⟩
  obtain ⟨plan, planned⟩ : ∃ plan, planBoundary s.iva i r.time.seconds = plan := ⟨_, rfl⟩
  have interval : v.interval = some (i.marked s.iva) := marked ▸ markBoundary_interval held
  have period : v.period = s.iva.period := by rw [← marked]; rfl
  have ended : v.endedPeriod plan.endsPeriod s.svc.active.fn = s.iva.closingPeriod i s.svc.active.fn r.time.seconds := by
    unfold Iva.closingPeriod Iva.endedPeriod
    rw [period, planned]
  have whole := name
  unfold closingCounted at whole
  rw [marked, planned, counted_from] at whole
  replace whole := whole.symm
  obtain ⟨w, now⟩ : ∃ w, v.windowNow s.svc.active.fn r ind.anyOpen = w := ⟨_, rfl⟩
  obtain ⟨l, done⟩ : ∃ l, w.finish s.svc.active r.time i.startMark = l := ⟨_, rfl⟩
  have ends : v.endedWindow s.svc.active r ind.anyOpen true = some l := by
    unfold Iva.endedWindow
    rw [now, interval, ← done]
    exact if_pos (.inr rfl)
  have counts := v.counted_interval interval plan r ind cycle true s.svc.active
  rw [ends, ended] at whole counts
  have window : (v.counted plan r ind cycle true s.svc.active).window = none := by
    unfold Iva.counted
    rw [ends]
  have latest : (v.counted plan r ind cycle true s.svc.active).latestWindow = some l := by
    unfold Iva.counted
    rw [ends]
    rfl
  obtain ⟨c, counted⟩ : ∃ c, v.counted plan r ind cycle true s.svc.active = c := ⟨_, rfl⟩
  rw [counted] at whole counts window latest
  obtain ⟨a, first⟩ : ∃ a, (s.iva.closingPeriod i s.svc.active.fn r.time.seconds).map periodItem = a := ⟨_, rfl⟩
  rw [first] at whole
  obtain ⟨read1, clock1⟩ := bankTakes_clock a s
  obtain ⟨read2, clock2⟩ := bankTakes_clock ((some l).map windowItem) (bankTakes a s)
  obtain ⟨⟨p1, posts1⟩, steady1⟩ := bankTakes_link a s
  obtain ⟨⟨p2, posts2⟩, steady2⟩ := bankTakes_link ((some l).map windowItem) (bankTakes a s)
  have frame := bankTakes_frame ((some l).map windowItem) a s c
  obtain ⟨x, items⟩ : ∃ x, bankTakes ((some l).map windowItem) (bankTakes a s) = x := ⟨_, rfl⟩
  rw [items] at whole read2 clock2 posts2 steady2 frame
  rw [name, whole]
  obtain ⟨j, isJ⟩ : ∃ j, (((i.marked s.iva).takeEnded (s.iva.closingPeriod i s.svc.active.fn r.time.seconds)).takeLast
    (some l)).withCloses ind.closes = j := ⟨_, rfl⟩
  rw [isJ] at counts
  refine ⟨l, j, ?_⟩
  exact ⟨frame, clock1.trans clock2, read2.trans read1,
    ⟨⟨_, (posts1.andThen posts2 steady2).of_links rfl rfl⟩, (steady1.trans steady2).trans (LinkSteady.of_eq rfl)⟩,
    window, latest, by rw [← done]; rfl, by rw [← done]; rfl, counts, isJ⟩

/-- What the interval that closes is, by the interval in progress, the last window and the period that ends. -/
theorem BeforeClosure.takes {s u : State} {r : Report} {ind : Indications} {i j : Interval} {l : LatestWindow}
    (h : BeforeClosure s u r ind i l j) :
    j.startMark = i.startMark ∧ j.closes = min 65535 (i.closes + ind.closes) ∧ j.windows = min 65535 (i.windows + 1) ∧
    j.flagged = min 65535 (i.flagged +
      if l.flags.event = true ∨ l.flags.synthetic = true ∨ l.flags.clipped = true ∨ l.flags.oscillator = true then 1 else 0) ∧
    j.marks = ⟨i.marks.event || l.flags.event, i.marks.synthetic || l.flags.synthetic, i.marks.clipped || l.flags.clipped,
      i.marks.clock || l.flags.oscillator, i.marks.incomplete || s.iva.resumed || s.iva.pendingStep,
      i.marks.timeStep || s.iva.pendingStep, i.marks.resumed || s.iva.resumed⟩ ∧
    (∀ p, j.phases.get p = (i.phases.get p).add (l.values.get p)) ∧
    ((∀ f, s.iva.closingPeriod i s.svc.active.fn r.time.seconds = some f → f.valid = false) →
      j.frequencyCount = i.frequencyCount ∧ j.frequencySum = i.frequencySum ∧ j.frequencyRange = i.frequencyRange) ∧
    ∀ f v, s.iva.closingPeriod i s.svc.active.fn r.time.seconds = some f → f.valid = true → f.value = some v →
      j.frequencyCount = i.frequencyCount + 1 ∧ j.frequencySum = i.frequencySum + v ∧
      j.frequencyRange = some (match i.frequencyRange with
        | some (low, high) => (min low v, max high v)
        | none => (v, v)) := by
  obtain ⟨start, closes, windows, flagged, marks, phases, count, sum, range⟩ := Interval.takes_window _ _ _ _ h.taken
  refine ⟨start, closes, windows, flagged, marks, phases, fun invalid => ?_, fun f v ended valid value => ?_⟩
  · rw [Interval.takeEnded_invalid _ invalid] at count sum range
    exact ⟨count, sum, range⟩
  · rw [ended, Interval.takeEnded_valid _ valid value] at count sum range
    exact ⟨count, sum, range⟩

/-- A boundary with a closure: the closure of the interval, then the interval it opens. -/
theorem takeBoundary_closes {s : State} {i j : Interval} {r : Report} {ind : Indications} {cycle : Option Cycle} {l : LatestWindow}
    {cause : ClosureCause} {mark : Nat} {marks : IntervalMarks} (held : s.iva.interval = some i)
    (h : BeforeClosure s (closingCounted s r ind cycle i) r ind i l j)
    (closure : (planBoundary s.iva i r.time.seconds).closure = some (cause, mark, marks)) :
    (takeBoundary r ind cycle s).iva = { (closingCounted s r ind cycle i).iva with
      interval := some (Interval.begin mark marks)
      pendingStep := false
      resumed := false
      lastBoundaryTime := some r.time } ∧
    takeBoundary r ind cycle s =
      (takeClosure (closureOf j cause r.time (some mark) (closingCounted s r ind cycle i))
        (intervalGone j cause r.time (closingCounted s r ind cycle i))).withIva
      { (takeClosure (closureOf j cause r.time (some mark) (closingCounted s r ind cycle i))
          (intervalGone j cause r.time (closingCounted s r ind cycle i))).iva with
        interval := some (Interval.begin mark marks)
        pendingStep := false
        resumed := false
        lastBoundaryTime := some r.time } := by
  have whole := takeBoundary_some held r ind cycle
  rw [takePlanned_some closure] at whole
  have counted : addCloses ind.closes (windowTakes r ind.anyOpen true (periodTakes (planBoundary s.iva i r.time.seconds) r cycle
    (s.withIva (markBoundary s.iva)))) = closingCounted s r ind cycle i := rfl
  obtain ⟨u, name⟩ : ∃ u, closingCounted s r ind cycle i = u := ⟨_, rfl⟩
  have kept := closeInterval_iva cause r.time (some mark) u
  rw [counted, name] at whole
  rw [name] at h ⊢
  rw [closeInterval_gone h.interval] at whole kept
  obtain ⟨closed, result⟩ : ∃ closed, takeClosure (closureOf j cause r.time (some mark) u) (intervalGone j cause r.time u) = closed :=
    ⟨_, rfl⟩
  rw [result] at whole kept ⊢
  have form : takeBoundary r ind cycle s = closed.withIva { closed.iva with
        interval := some (Interval.begin mark marks)
        pendingStep := false
        resumed := false
        lastBoundaryTime := some r.time } := whole
  refine ⟨?_, form⟩
  rw [form, kept]
  rfl

/-- The fields of IVC, as their parts are written out (R65). -/
theorem ivcFields_eq {u s : State} {j : Interval} {cause : ClosureCause} {closeTime : Time} {start : Nat} {x : IntervalRecord}
    (goes : (cause == .halt) = false) (atMark : j.startMark = start) (svc : u.svc = s.svc) (evs : u.evs = s.evs)
    (record : j.record closeTime false u = x) :
    ivcFields j cause closeTime u = [num start, timeText closeTime] ++
      (([Phase.l1, .l2, .l3].filter (wired s.svc.active.wiring)).map (fun p =>
        optText num ((PerPhase.build (fun p => x.phases.bind (fun y => (y.get p).map IntervalPhase.value))).get p))) ++
      [x.marks.text, bitText x.valid, bitText x.member, optText num (offeredSequence s)] := by
  have sequence : offeredSequence u = offeredSequence s := by
    unfold offeredSequence recordTaken
    rw [evs]
  unfold ivcFields
  rw [goes, record, atMark, svc, sequence]
  rfl

/-- The state that the closure is taken in, as its parts are written out. -/
theorem intervalGone_eq {u s : State} {j : Interval} {cause : ClosureCause} {closeTime : Time} {start : Nat} {x : IntervalRecord}
    (goes : (cause == .halt) = false) (atMark : j.startMark = start) (svc : u.svc = s.svc) (evs : u.evs = s.evs)
    (record : j.record closeTime false u = x) :
    { handItem (.int (PerPhase.build (fun p => x.phases.bind (fun y => (y.get p).map IntervalPhase.value))) x.valid x.member start)
        (postNotice .ivc ([num start, timeText closeTime] ++ (([Phase.l1, .l2, .l3].filter (wired s.svc.active.wiring)).map (fun p =>
            optText num ((PerPhase.build (fun p => x.phases.bind (fun y => (y.get p).map IntervalPhase.value))).get p))) ++
          [x.marks.text, bitText x.valid, bitText x.member, optText num (offeredSequence s)]) (offer .ivl x.payload u)) with
      iva := { u.iva with interval := none } } = intervalGone j cause closeTime u := by
  have item : intervalItem j cause closeTime u =
      .int (PerPhase.build (fun p => x.phases.bind (fun y => (y.get p).map IntervalPhase.value))) x.valid x.member start := by
    unfold intervalItem
    rw [goes, record, ← atMark, ← record]
    rfl
  unfold intervalGone intervalHanded
  rw [item, intervalPosted_eq, ivcFields_eq goes atMark svc evs record, goes, record]
  rfl

end Sys2Proof.Machine
end

section
/-! The interval that closes at its end mark, and the ones that a step and a resume reopen. -/

namespace Sys2Proof.Machine

theorem skippedMarks_some (start mark : Nat) :
    skippedMarks start (some mark) = (start + 600, if start + 600 < mark then (mark - start) / 600 - 1 else 0) := by
  unfold skippedMarks
  dsimp only
  split <;> rfl

/-- The closure of an interval that opens another one (R64, R74). -/
theorem closureOf_eq {u : State} {j : Interval} {cause : ClosureCause} {closeTime : Time} {start : Nat} {x : IntervalRecord}
    (goes : (cause == .halt) = false) (atMark : j.startMark = start) (record : j.record closeTime false u = x) (mark : Nat) :
    closureOf j cause closeTime (some mark) u = ⟨start, start + 600, closeTime, x.valid, x.member, cause, start + 600,
      if start + 600 < mark then (mark - start) / 600 - 1 else 0, some mark⟩ := by
  unfold closureOf Interval.endMark
  rw [goes, record, atMark, skippedMarks_some]

/-- The record of the interval is queued as from before the boundary (R64). -/
theorem BeforeClosure.queues {s u : State} {r : Report} {ind : Indications} {i j : Interval} {l : LatestWindow}
    (h : BeforeClosure s u r ind i l j) {cause : ClosureCause} (goes : (cause == .halt) = false) :
    Queues s (intervalGone j cause r.time u) .ivl (j.record r.time false u).payload s.svc.generation := by
  have queued := intervalGone_queues j cause r.time u
  have svc : u.svc = s.svc := by rw [h.whole]
  have evs : u.evs = s.evs := by rw [h.whole]
  have evd : u.evd = s.evd := by rw [h.whole]
  rw [goes, svc] at queued
  exact queued.before evs h.reading h.quality (congrArg Evd.counter evd)

/-- Settles O16. -/
theorem intervalClosesAtItsEndMark : Obligations.IntervalClosesAtItsEndMark := by
  unfold Obligations.IntervalClosesAtItsEndMark
  intro s r ind cycle i interval step resumed past t
  have closure : (planBoundary s.iva i r.time.seconds).closure = some (.endMark, i.startMark + 600, IntervalMarks.none) := by
    unfold planBoundary
    dsimp only
    rw [step, resumed]
    exact if_pos past
  obtain ⟨l, j, h⟩ := closingCounted_before interval r ind cycle
  obtain ⟨iva, form⟩ := takeBoundary_closes interval h closure
  obtain ⟨u, name⟩ : ∃ u, closingCounted s r ind cycle i = u := ⟨_, rfl⟩
  rw [name] at h iva form
  have goes : (ClosureCause.endMark == .halt) = false := rfl
  have svc : u.svc = s.svc := by rw [h.whole]
  have evs : u.evs = s.evs := by rw [h.whole]
  obtain ⟨start, closes, windows, flagged, marks, phases, none', some'⟩ := h.takes
  have queues := h.queues goes
  have latest : t.iva.latestWindow = some l := (congrArg Iva.latestWindow iva).trans h.latest
  have opened : t.iva.interval = some (Interval.begin (i.startMark + 600) IntervalMarks.none) := congrArg Iva.interval iva
  have due : s.iva.closingPeriod i s.svc.active.fn r.time.seconds =
      if s.iva.period.all (fun p => decide (p.startMark + 10 ≤ r.time.seconds)) = true
      then s.iva.period.map (fun p => p.value s.svc.active.fn) else none := by
    unfold Iva.closingPeriod Iva.endedPeriod
    rw [planBoundary_ends, step, resumed, Bool.false_or, Bool.false_and, Bool.false_or]
  refine ⟨(congrArg Iva.window iva).trans h.window, congrArg Iva.lastBoundaryTime iva, opened, ⟨l, latest, h.endTime, h.startMark⟩,
    fun takes => ?_, ?_⟩
  · obtain ⟨x, queue, -, -, sequence, kind, payload, -⟩ := queues.taken takes
    have waits : x ∈ (intervalGone j .endMark r.time u).evs.pwq := by
      rw [queue]
      exact List.mem_append_right _ (List.mem_singleton.mpr rfl)
    have stays := takeClosure_keeps_queue (closureOf j .endMark r.time (some (i.startMark + 600)) u) waits
    have evsT : t.evs = (takeClosure (closureOf j .endMark r.time (some (i.startMark + 600)) u)
        (intervalGone j .endMark r.time u)).evs := (congrArg State.evs form).trans (State.withIva_evs _ _)
    rw [← evsT] at stays
    exact ⟨x, stays, kind, sequence, by rw [payload, IntervalRecord.payload_startMark, ← start]; rfl⟩
  · intro u'
    have same : u = u' := name.symm
    clear_value u'
    subst same
    refine ⟨l, j, latest, h.interval, ⟨start, closes, windows, flagged, ?_, fun p => ?_, fun invalid => none' ?_, ?_⟩,
      ⟨h.whole, h.quality, h.reading⟩, ?_⟩
    · rw [marks, step, resumed, Bool.or_false, Bool.or_false, Bool.or_false, Bool.or_false]
    · rw [phases, PhaseSums.add_eq] <;> rfl
    · intro f ended
      rw [due] at ended
      cases period : s.iva.period with
      | none =>
        rw [period] at ended
        exact nomatch ended
      | some d =>
        rw [period] at ended
        rcases invalid d period with before | invalid
        · rw [Option.all_some, if_neg (by rw [decide_eq_true_eq]; omega)] at ended
          exact nomatch ended
        · split at ended
          · obtain rfl := Option.some.inj ended
            exact invalid
          · exact nomatch ended
    · intro d f period before valid value
      refine some' (d.value s.svc.active.fn) f ?_ valid value
      rw [due, period, Option.all_some, if_pos (decide_eq_true before)]
      rfl
    · intro x values posted handed h'
      have gone : h' = intervalGone j .endMark r.time u := intervalGone_eq goes start svc evs rfl
      clear_value h'
      subst gone
      refine ⟨queues, ?_, fun admitted busy room => ?_, ?_⟩
      · exact intervalGone_others j .endMark r.time u
      · obtain ⟨⟨_, posts⟩, steady⟩ := h.link
        have tells := intervalGone_tells j .endMark r.time (u := u) (by rw [steady.settings]; exact admitted)
          (posts.stays_busy busy) room
        rw [ivcFields_eq goes start svc evs rfl] at tells
        exact tells
      · intro closed
        have same : closed = takeClosure (closureOf j .endMark r.time (some (i.startMark + 600)) u)
            (intervalGone j .endMark r.time u) := by
          rw [closureOf_eq goes start rfl, if_neg (Nat.lt_irrefl _)]
          rfl
        rw [same, opened]
        exact form

/-- A boundary after a resume, before the end mark and with no step pending, goes on with the interval marked (R75). -/
theorem takeBoundary_resumed {s : State} {r : Report} {i : Interval} (ind : Indications) (cycle : Option Cycle)
    (interval : s.iva.interval = some i) (step : s.iva.pendingStep = false) (resumed : s.iva.resumed = true)
    (inside : r.time.seconds < i.startMark + 600) : ∃ j, (takeBoundary r ind cycle s).iva.interval = some j ∧
      j.startMark = i.startMark ∧ j.marks.resumed = true ∧ j.marks.incomplete = true := by
  have whole := takeBoundary_some interval r ind cycle
  rw [takePlanned_none (planBoundary_plain step inside), counted_from] at whole
  have counts := Iva.counted_interval (markBoundary_interval interval) (planBoundary s.iva i r.time.seconds) r ind cycle false
    s.svc.active
  obtain ⟨k, marked⟩ : ∃ k, i.marked s.iva = k := ⟨_, rfl⟩
  obtain ⟨f, ended⟩ : ∃ f, (markBoundary s.iva).endedPeriod (planBoundary s.iva i r.time.seconds).endsPeriod s.svc.active.fn = f :=
    ⟨_, rfl⟩
  obtain ⟨l, last⟩ : ∃ l, (markBoundary s.iva).endedWindow s.svc.active r ind.anyOpen false = l := ⟨_, rfl⟩
  have resumedK : k.marks.resumed = true := by
    rw [← marked]
    show (i.marks.resumed || s.iva.resumed) = true
    rw [resumed, Bool.or_true]
  have incompleteK : k.marks.incomplete = true := by
    rw [← marked]
    show (i.marks.incomplete || s.iva.resumed || s.iva.pendingStep) = true
    rw [resumed, Bool.or_true, Bool.true_or]
  have others := k.takeEnded_others f
  obtain ⟨-, -, -, start, -⟩ := (k.takeEnded f).takeLast_frequency l
  obtain ⟨incomplete, -, resumed'⟩ := (k.takeEnded f).takeLast_firmMarks l
  have form : (takeBoundary r ind cycle s).iva.interval = some (((k.takeEnded f).takeLast l).withCloses ind.closes) := by
    rw [← marked, ← ended, ← last]
    exact (congrArg (fun x : State => x.iva.interval) whole).trans counts
  exact ⟨_, form, start.trans (by rw [others, ← marked]; rfl), resumed'.trans (by rw [others]; exact resumedK),
    incomplete.trans (by rw [others]; exact incompleteK)⟩

/-- Settles O17. -/
theorem stepAndResumeReopenTheInterval : Obligations.StepAndResumeReopenTheInterval := by
  unfold Obligations.StepAndResumeReopenTheInterval
  intro s r ind cycle i interval t opened closes
  have settled := takeBoundary_some interval r ind cycle
  have each : ∀ cause marks, (cause == .halt) = false → (s.iva.resumed || s.iva.pendingStep) = true →
      (planBoundary s.iva i r.time.seconds).endsPeriod = true →
      (planBoundary s.iva i r.time.seconds).closure = some (cause, opened, marks) →
      closes cause ∧ t.iva.interval = some (Interval.begin opened marks) := by
    intro cause marks goes pending ends closure
    obtain ⟨l, j, h⟩ := closingCounted_before interval r ind cycle
    obtain ⟨iva, form⟩ := takeBoundary_closes interval h closure
    obtain ⟨u, name⟩ : ∃ u, closingCounted s r ind cycle i = u := ⟨_, rfl⟩
    rw [name] at h iva form
    have svc : u.svc = s.svc := by rw [h.whole]
    have evs : u.evs = s.evs := by rw [h.whole]
    obtain ⟨start, closes', windows, flagged, marks', phases, none', some'⟩ := h.takes
    have period : s.iva.closingPeriod i s.svc.active.fn r.time.seconds = s.iva.period.map (fun p => p.value s.svc.active.fn) := by
      unfold Iva.closingPeriod Iva.endedPeriod
      rw [ends, if_pos rfl]
    have incomplete : (i.marks.incomplete || s.iva.resumed || s.iva.pendingStep) = true := by
      rw [Bool.or_assoc, pending, Bool.or_true]
    rw [incomplete] at marks'
    have latest : t.iva.latestWindow = some l := (congrArg Iva.latestWindow iva).trans h.latest
    have next : t.iva.interval = some (Interval.begin opened marks) := congrArg Iva.interval iva
    refine ⟨?_, next⟩
    unfold closes
    intro u'
    have same : u = u' := name.symm
    clear_value u'
    subst same
    refine ⟨l, j, latest, h.endTime, h.startMark, h.interval, start, windows, flagged, closes', marks', fun p => ?_,
      fun invalid => none' fun f ended => ?_, fun d f isPeriod valid value => some' (d.value s.svc.active.fn) f ?_ valid value,
      h.whole, ?_⟩
    · rw [phases, PhaseSums.add_eq] <;> rfl
    · rw [period, Option.map_eq_some_iff] at ended
      obtain ⟨d, isPeriod, rfl⟩ := ended
      exact invalid d isPeriod
    · rw [period, isPeriod]
      rfl
    · intro x values posted handed h'
      have gone : h' = intervalGone j cause r.time u := intervalGone_eq goes start svc evs rfl
      clear_value h'
      subst gone
      have invalid : x.valid = false := Interval.record_invalid (by rw [marks']) r.time false u
      refine ⟨invalid, h.queues goes, ?_⟩
      intro skipped closed
      have same : closed = takeClosure (closureOf j cause r.time (some opened) u) (intervalGone j cause r.time u) := by
        rw [closureOf_eq goes start rfl, show (j.record r.time false u).valid = false from invalid]
        rfl
      rw [same, next]
      exact form
  refine ⟨congrArg (fun x : State => x.iva.pendingStep) settled, congrArg (fun x : State => x.iva.resumed) settled,
    fun step => ?_, fun step resumed past => ?_, fun step resumed inside => takeBoundary_resumed ind cycle interval step resumed inside⟩
  · refine each .timeStep _ rfl (by rw [step, Bool.or_true]) (by rw [planBoundary_ends, step, Bool.true_or, Bool.true_or]) ?_
    unfold planBoundary
    rw [step]
    rfl
  · refine each .resume _ rfl (by rw [resumed, Bool.true_or])
      (by rw [planBoundary_ends, resumed, decide_eq_true past, Bool.and_true, Bool.or_true, Bool.true_or]) ?_
    unfold planBoundary
    rw [step, resumed]
    exact congrArg BoundaryPlan.closure (if_pos past)

end Sys2Proof.Machine
end

section
/-! What a report changes outside the detector and the aggregator, and the tracker at a boundary (R11, R20, R24, R103). -/

namespace Sys2Proof.Machine

/-! ## The detector's report -/

/-- Nothing but the detector, the store, the bank, the clock and the link has changed. -/
def DetectorOnly (s t : State) : Prop := t = { s with evd := t.evd, evs := t.evs, tlb := t.tlb, tmb := t.tmb, hlk := t.hlk }

theorem DetectorOnly.refl (s : State) : DetectorOnly s s := rfl

theorem DetectorOnly.trans {s t u : State} (h : DetectorOnly s t) (k : DetectorOnly t u) : DetectorOnly s u := by
  unfold DetectorOnly at h k ⊢
  rw [k, h]

theorem DetectorOnly.svc {s t : State} (h : DetectorOnly s t) : t.svc = s.svc := by rw [h]
theorem DetectorOnly.iva {s t : State} (h : DetectorOnly s t) : t.iva = s.iva := by rw [h]

theorem BankOnly.detectorOnly {s t : State} (h : BankOnly s t) : DetectorOnly s t := by
  have evd := h.evd
  have evs := h.evs
  unfold DetectorOnly
  rw [evd, evs]
  exact h

theorem foldl_detectorOnly {α : Type} {f : State → α → State} (each : ∀ s x, DetectorOnly s (f s x)) (xs : List α) (s : State) :
    DetectorOnly s (xs.foldl f s) := by
  induction xs generalizing s with
  | nil => exact DetectorOnly.refl s
  | cons x rest ih => exact (each s x).trans (ih _)

theorem postNotice_detectorOnly (kind : NoticeKind) (fields : List Text) (s : State) :
    DetectorOnly s (postNotice kind fields s) := by
  unfold DetectorOnly
  rw [postNotice_others]

theorem offer_detectorOnly (kind : RecordKind) (payload : List Byte) (s : State) : DetectorOnly s (offer kind payload s) := by
  unfold DetectorOnly
  rw [offer_others]

theorem closeRecord_detectorOnly (c : Context) (k : CloseAt) (s : State) : DetectorOnly s (closeRecord c k s) := by
  have posted : DetectorOnly s (postClose c k (offeredSequence s) (offer .evt (c.record k).payload s)) :=
    (offer_detectorOnly _ _ s).trans (postNotice_detectorOnly _ _ _)
  have classified : DetectorOnly s (if k.cause = .limit
      then postClose c k (offeredSequence s) (offer .evt (c.record k).payload s)
      else handItem (.evt (c.classification k.cause)) (postClose c k (offeredSequence s) (offer .evt (c.record k).payload s))) := by
    split
    · exact posted
    · exact posted.trans (handItem_bankOnly _ _).detectorOnly
  exact classified.trans (rfl : DetectorOnly _ (setContext c.kind none _))

theorem closeEnded_detectorOnly (phases : PerPhase (Option PhaseState)) (r : Report) (cause : CloseCause) (s : State)
    (kind : EventKind) : DetectorOnly s (closeEnded phases r cause s kind) := by
  unfold closeEnded
  split
  · split
    · exact DetectorOnly.refl s
    · exact closeRecord_detectorOnly _ _ s
  · exact DetectorOnly.refl s

theorem openRecord_detectorOnly (kind : EventKind) (phases : PerPhase (Option PhaseState)) (r : Report) (s : State) :
    DetectorOnly s (openRecord kind phases r s) := by
  have placed : ∀ x : State, DetectorOnly s x → DetectorOnly s (postOpen (Context.opening kind (issueNumber s).evd.counter r) phases x) :=
    fun x h => h.trans (postNotice_detectorOnly _ _ _)
  refine placed _ ?_
  split <;> rfl

theorem openHolding_detectorOnly (phases : PerPhase (Option PhaseState)) (r : Report) (s : State) (kind : EventKind) :
    DetectorOnly s (openHolding phases r s kind) := by
  unfold openHolding
  split
  · exact DetectorOnly.refl s
  · split
    · exact openRecord_detectorOnly _ _ _ s
    · exact DetectorOnly.refl s

theorem limitRecord_detectorOnly (phases : PerPhase (Option PhaseState)) (r : Report) (s : State) (kind : EventKind) :
    DetectorOnly s (limitRecord phases r s kind) := by
  unfold limitRecord
  split
  · split
    · rename_i c _ _
      have issued : DetectorOnly s (issueNumber (closeRecord c ⟨.limit, r.time⟩ s)) :=
        (closeRecord_detectorOnly c ⟨.limit, r.time⟩ s).trans (rfl : DetectorOnly _ (issueNumber _))
      exact (issued.trans (rfl : DetectorOnly _ (setContext kind _ _))).trans (postNotice_detectorOnly _ _ _)
    · exact DetectorOnly.refl s
  · exact DetectorOnly.refl s

/-- A report leaves all but the detector, the store, the bank, the clock and the link (R25). -/
theorem processReport_detectorOnly (r : Report) (span : Nat) (s : State) : DetectorOnly s (processReport r span s).1 := by
  have begun : DetectorOnly s (reportBegins r span s) := rfl
  have closed : DetectorOnly s (reportCloses r span s) := begun.trans (foldl_detectorOnly (closeEnded_detectorOnly _ _ _) _ _)
  have opened : DetectorOnly s (reportOpens r span s) := closed.trans (foldl_detectorOnly (openHolding_detectorOnly _ _) _ _)
  have progressed : DetectorOnly s (reportProgresses r span s) :=
    opened.trans (rfl : DetectorOnly (reportOpens r span s) (reportProgresses r span s))
  have limited : DetectorOnly s (reportLimits r span s) := progressed.trans (foldl_detectorOnly (limitRecord_detectorOnly _ _) _ _)
  have noted : DetectorOnly (reportLimits r span s) { reportLimits r span s with evd := { (reportLimits r span s).evd with
    lastBoundary := some ⟨r.time, r.tick⟩, resumed := false } } := rfl
  rw [processReport_state]
  exact limited.trans noted

/-! ## The report through the detector and the aggregator -/

/-- Nothing but the note of a new FN, the settings unit, the detector, the aggregator, the store, the bank, the clock and the
link has changed. -/
structure ReportOnly (s t : State) : Prop where
  others : t = { s with
    cyt := { s.cyt with fnChanged := t.cyt.fnChanged }
    iva := t.iva, svc := t.svc, evd := t.evd, evs := t.evs, tlb := t.tlb, tmb := t.tmb, hlk := t.hlk }
  fn : t.cyt.fnChanged = (s.cyt.fnChanged || t.svc.active.fn != s.svc.active.fn)

theorem SettlesOnly.reportOnly {s t : State} {v w : Iva} (h : SettlesOnly (s.withIva v) t) : ReportOnly s (t.withIva w) :=
  ⟨by
    have others := h.others
    obtain ⟨x, name⟩ : ∃ x, t = x := ⟨_, rfl⟩
    rw [name] at others ⊢
    conv_lhs => rw [others]
    rfl, h.fn⟩

theorem DetectorOnly.settlesOnly {s t : State} (h : DetectorOnly s t) : SettlesOnly s t :=
  SettlesOnly.quiet (by
    have svc := h.svc
    rw [svc]
    exact h) (congrArg (fun v : Svc => v.active.fn) h.svc)

theorem SettlesOnly.withIva {s t : State} (h : SettlesOnly s t) (v : Iva) : SettlesOnly (s.withIva v) (t.withIva v) :=
  ⟨by
    have others := h.others
    obtain ⟨x, name⟩ : ∃ x, t = x := ⟨_, rfl⟩
    rw [name] at others ⊢
    conv_lhs => rw [others]
    rfl, h.fn⟩

/-- What a boundary counted leaves. -/
theorem counted_detectorOnly (v : Iva) (plan : BoundaryPlan) (r : Report) (ind : Indications) (cycle : Option Cycle) (due : Bool)
    (s : State) : DetectorOnly (s.withIva (v.counted plan r ind cycle due s.svc.active))
      (addCloses ind.closes (windowTakes r ind.anyOpen due (periodTakes plan r cycle (s.withIva v)))) := by
  rw [counted_from, ← bankTakes_withIva, ← bankTakes_withIva]
  exact ((bankTakes_bankOnly _ _).trans (bankTakes_bankOnly _ _)).detectorOnly

theorem takePlanned_reportOnly (v : Iva) (plan : BoundaryPlan) (r : Report) (ind : Indications) (cycle : Option Cycle) (s : State)
    (w : Iva) : ReportOnly s ((takePlanned plan r ind cycle (s.withIva v)).withIva w) := by
  cases closure : plan.closure with
  | none =>
    rw [takePlanned_none closure]
    exact (counted_detectorOnly v plan r ind cycle false s).settlesOnly.reportOnly
  | some x =>
    obtain ⟨cause, mark, marks⟩ := x
    rw [takePlanned_some closure]
    obtain ⟨u, name⟩ : ∃ u, addCloses ind.closes (windowTakes r ind.anyOpen true (periodTakes plan r cycle (s.withIva v))) = u :=
      ⟨_, rfl⟩
    have counted := counted_detectorOnly v plan r ind cycle true s
    rw [name] at counted ⊢
    have gone : SettlesOnly (s.withIva { u.iva with interval := none }) (u.withIva { u.iva with interval := none }) :=
      counted.settlesOnly.withIva { u.iva with interval := none }
    have closed := gone.after (congrArg (fun v : Svc => v.active.fn) counted.svc)
      (closeInterval_settles cause r.time (some mark) u)
    exact closed.reportOnly

theorem takeBoundary_reportOnly (r : Report) (ind : Indications) (cycle : Option Cycle) (s : State) :
    ReportOnly s (takeBoundary r ind cycle s) := by
  cases interval : s.iva.interval with
  | none =>
    rw [takeBoundary_none interval]
    exact (counted_detectorOnly _ _ r ind cycle false s).settlesOnly.reportOnly
  | some i =>
    rw [takeBoundary_some interval]
    exact takePlanned_reportOnly _ _ r ind cycle s _

/-- What a report leaves that goes to the HALF cells, the detector and the aggregator (R24). -/
theorem deliverReport_reportOnly (r : Report) (cycle : Option Cycle) (span : Nat) (s : State) :
    ReportOnly s (deliverReport r cycle span s) := by
  unfold deliverReport
  split
  · have processed : DetectorOnly s (processReport r span (handItem (.half r) s)).1 :=
      (handItem_bankOnly _ s).detectorOnly.trans (processReport_detectorOnly r span _)
    obtain ⟨p, name⟩ : ∃ p, processReport r span (handItem (.half r) s) = p := ⟨_, rfl⟩
    rw [name] at processed ⊢
    obtain ⟨others, fn⟩ := takeBoundary_reportOnly r p.2 cycle p.1
    have svc := processed.svc
    have cyt : p.1.cyt = s.cyt := by rw [processed]
    refine ⟨?_, by rw [fn, cyt, svc]⟩
    dsimp only
    rw [others, processed]
  · exact ⟨rfl, by rw [bne_self_eq_false, Bool.or_false]⟩

/-! ## The reference and the tracker -/

/-- An evaluation of the reference (R11). -/
theorem Cyt.reevaluate_eq (c : Cyt) : c.reevaluate = { c with
    reference := c.evaluated
    tracker := if c.evaluated = c.reference then c.tracker else .freewheel
    referenceChanged := c.referenceChanged || c.evaluated != c.reference } := by
  unfold Cyt.reevaluate
  by_cases same : c.evaluated = c.reference
  · rw [if_pos same, if_pos same, same, bne_self_eq_false, Bool.or_false]
  · rw [if_neg same, if_neg same, bne_iff_ne.mpr same, Bool.or_true]

/-- The reference that an evaluation chooses on a presence map. -/
def chosenReference (w : Wiring) (held : Phase) (presence : PerPhase (Option Presence)) : Phase :=
  ((wiredPhases w).find? (fun p => (presence.get p).any Presence.present)).getD (if wired w held then held else .l1)

theorem Cyt.evaluated_eq (c : Cyt) : c.evaluated = chosenReference c.wiringInUse c.reference c.presence := by
  unfold Cyt.evaluated chosenReference
  cases (wiredPhases c.wiringInUse).find? (fun p => (c.presence.get p).any Presence.present) <;> rfl

/-- The presence entries of the wired phases. -/
def wiredPresence (w : Wiring) (c : Cyt) : PerPhase (Option Presence) :=
  PerPhase.build (fun p => if wired w p then c.presence.get p else none)

/-- The reference at a boundary, by the WIRING in use before (R3, R11). -/
def Cyt.settledReference (c : Cyt) (set : Settings) : Phase :=
  if c.wiringInUse = set.wiring then c.reference else chosenReference set.wiring c.reference (wiredPresence set.wiring c)

/-- The tracker unit at a boundary, before its report (R3, R11 to R14). -/
theorem Cyt.atBoundary_eq (c : Cyt) (set : Settings) (kind : Placed) : c.atBoundary set kind = { c with
    channels := PerPhase.build (fun p => if wired set.wiring p then c.channels.get p else none)
    tracker := if c.fnChanged = false ∧ c.settledReference set = c.reference then kind.tracker else .freewheel
    reference := c.settledReference set
    progress := .sinceBoundary 0
    fnInUse := set.fn
    fnChanged := false
    wiringInUse := set.wiring
    presence := wiredPresence set.wiring c
    referenceChanged := c.referenceChanged || c.settledReference set != c.reference } := by
  have tracks : ∀ same : Prop, [Decidable same] → (if same then (if c.fnChanged = true then Tracker.freewheel else kind.tracker)
      else .freewheel) = if c.fnChanged = false ∧ same then kind.tracker else .freewheel := fun same _ => by
    cases c.fnChanged <;> by_cases h : same <;> simp [h]
  unfold Cyt.atBoundary Cyt.settledReference
  dsimp only
  by_cases same : c.wiringInUse = set.wiring
  · rw [if_pos same, if_pos same, bne_self_eq_false, Bool.or_false, ← tracks, if_pos rfl]
    rfl
  · rw [if_neg same, if_neg same, Cyt.reevaluate_eq, Cyt.evaluated_eq, ← tracks]
    rfl

/-- The presence map after a report. -/
def Cyt.presenceWith (c : Cyt) (r : Report) : PerPhase (Option Presence) :=
  PerPhase.build (fun p => ((presenceAfter r c).get p).map Prod.fst)

/-- The reference after a report (R20). -/
def Cyt.referenceWith (c : Cyt) (r : Report) : Phase :=
  if flippedPhases r c = [] then c.reference else chosenReference c.wiringInUse c.reference (c.presenceWith r)

/-- The tracker unit after a report (R11, R20). -/
theorem Cyt.afterReport_eq (c : Cyt) (r : Report) : c.afterReport r = { c with
    presence := c.presenceWith r
    reference := c.referenceWith r
    tracker := if c.referenceWith r = c.reference then c.tracker else .freewheel
    referenceChanged := c.referenceChanged || c.referenceWith r != c.reference } := by
  unfold Cyt.afterReport Cyt.referenceWith
  dsimp only
  by_cases none' : flippedPhases r c = []
  · rw [if_pos none', if_pos none', if_pos rfl, bne_self_eq_false, Bool.or_false]
    rfl
  · rw [if_neg none', if_neg none', Cyt.reevaluate_eq, Cyt.evaluated_eq]
    rfl

end Sys2Proof.Machine
end

section
/-! A boundary and its report (R3, R6, R11 to R21, R24). -/

namespace Sys2Proof.Machine

/-- Whether the entry of a phase flips at a report (R20). -/
def flipsAt (presence : PerPhase (Option Presence)) (r : Report) (p : Phase) : Bool :=
  match presence.get p, r.values.get p with
  | some e, some v => (e.after v.value).2
  | _, _ => false

theorem presenceAfter_get (r : Report) (c : Cyt) (p : Phase) : (presenceAfter r c).get p =
    match c.presence.get p, r.values.get p with
    | some e, some v => some (e.after v.value)
    | some e, none => some (e, false)
    | none, _ => none := by
  unfold presenceAfter
  rw [PerPhase.build_get] <;> rfl

theorem flippedPhases_eq (r : Report) (c : Cyt) : flippedPhases r c = [Phase.l1, .l2, .l3].filter (flipsAt c.presence r) := by
  unfold flippedPhases allPhases
  refine congrArg (fun f => List.filter f [Phase.l1, .l2, .l3]) (funext fun p => ?_)
  rw [presenceAfter_get]
  unfold flipsAt
  cases c.presence.get p with
  | none => rfl
  | some e => cases r.values.get p <;> rfl

theorem flippedPhases_nil (r : Report) (c : Cyt) :
    flippedPhases r c = [] ↔ [Phase.l1, .l2, .l3].any (flipsAt c.presence r) = false := by
  rw [flippedPhases_eq, List.filter_eq_nil_iff, List.any_eq_false]

theorem Cyt.presenceWith_get (c : Cyt) (r : Report) (p : Phase) : (c.presenceWith r).get p =
    match c.presence.get p, r.values.get p with
    | some e, some v => some (e.after v.value).1
    | e, _ => e := by
  unfold Cyt.presenceWith
  rw [PerPhase.build_get, presenceAfter_get]
  cases c.presence.get p with
  | none => rfl
  | some e => cases r.values.get p <;> rfl

/-- The notices of a report's flips, which tell the presence map and the reference as they stand after it (R21). -/
theorem updatePresence_eq (r : Report) (s : State) : updatePresence r s =
    (flippedPhases r s.cyt).foldl (fun x p => postNotice .phn [phaseText p,
      presenceText (((s.cyt.afterReport r).presence.get p).any Presence.present), timeText r.time,
      phaseText (s.cyt.afterReport r).reference] x) { s with cyt := s.cyt.afterReport r } := by
  have tells : ∀ (l : List Phase) (c : Cyt) (x : State), x.cyt = c → l.foldl (postPresence r) x =
      l.foldl (fun x p => postNotice .phn [phaseText p, presenceText ((c.presence.get p).any Presence.present), timeText r.time,
        phaseText c.reference] x) x := by
    intro l
    induction l with
    | nil => exact fun _ _ _ => rfl
    | cons p rest ih =>
      intro c x same
      have next : postPresence r x p = postNotice .phn [phaseText p, presenceText ((c.presence.get p).any Presence.present),
          timeText r.time, phaseText c.reference] x := by
        unfold postPresence
        rw [same]
      rw [List.foldl_cons, List.foldl_cons, next]
      exact ih c _ (by rw [postNotice_others, same])
  exact tells _ _ _ rfl

/-- The presence map takes a report, and the link its notices (R20, R21). -/
theorem updatePresence_others (r : Report) (s : State) : updatePresence r s = { s with
    cyt := s.cyt.afterReport r, hlk := (updatePresence r s).hlk } := by
  have told : ∀ (l : List Phase) (x : State), l.foldl (postPresence r) x = { x with hlk := (l.foldl (postPresence r) x).hlk } := by
    intro l
    induction l with
    | nil => exact fun _ => rfl
    | cons p rest ih =>
      intro x
      rw [List.foldl_cons, ih]
      unfold postPresence
      rw [postNotice_others]
  unfold updatePresence
  rw [told]

theorem exec_sample_placed {s : State} {r1 r2 r3 : BitVec 16} {kind : Placed} (on : sampling s = true)
    (placed : s.places r1 r2 r3 = some kind) : exec (.sample r1 r2 r3) s = .next (placeBoundary kind (s.counted r1 r2 r3)) := by
  show Host.Outcome.next (if sampling s then takeSample ⟨r1, r2, r3⟩ s else s) = _
  rw [if_pos on]
  unfold State.places State.counted State.change at placed
  unfold takeSample
  simp only [placed]
  rfl

/-- The report of a boundary. -/
def boundaryReport (kind : Placed) (c : State) : Report := formReport kind (settleBoundary kind c)

/-- The state with the report of a boundary kept, before it is told to anyone. -/
def boundaryKept (kind : Placed) (c : State) : State := keepReport kind (boundaryReport kind c) (settleBoundary kind c)

/-- The state with the report told to the detector and the aggregator. -/
def boundaryTold (kind : Placed) (c : State) : State :=
  deliverReport (boundaryReport kind c) (completedCycle kind (settleBoundary kind c)) (boundarySpan c) (boundaryKept kind c)

theorem placeBoundary_eq (kind : Placed) (c : State) : placeBoundary kind c =
    updatePresence (boundaryReport kind c) (boundaryTold kind c) := rfl

/-- The tracker unit of a boundary with its report kept (R3, R11 to R14, R18). -/
theorem boundaryKept_cyt (kind : Placed) (c : State) : (boundaryKept kind c).cyt = { c.cyt with
    channels := PerPhase.build (fun p => if wired c.svc.active.wiring p then c.cyt.channels.get p else none)
    tracker := if c.cyt.fnChanged = false ∧ c.cyt.settledReference c.svc.active = c.cyt.reference then kind.tracker else .freewheel
    reference := c.cyt.settledReference c.svc.active
    progress := .sinceBoundary 0
    last := some ⟨kind.direction, c.tmb.tick, (boundaryReport kind c).count⟩
    beforeLast := c.cyt.last
    fnInUse := c.svc.active.fn
    fnChanged := false
    wiringInUse := c.svc.active.wiring
    presence := wiredPresence c.svc.active.wiring c.cyt
    referenceChanged := false } := by
  have settled : (settleBoundary kind c).cyt = c.cyt.atBoundary c.svc.active kind := rfl
  obtain ⟨count, counted⟩ : ∃ n, (boundaryReport kind c).count = n := ⟨_, rfl⟩
  have form : (boundaryKept kind c).cyt = { (settleBoundary kind c).cyt with
      referenceChanged := false
      beforeLast := (settleBoundary kind c).cyt.last
      last := some ⟨kind.direction, c.tmb.tick, (boundaryReport kind c).count⟩ } := rfl
  rw [form, settled, Cyt.atBoundary_eq]

theorem boundaryReport_reference (kind : Placed) (c : State) :
    (boundaryReport kind c).reference = c.cyt.settledReference c.svc.active ∧
    (boundaryReport kind c).referenceChanged =
      (c.cyt.referenceChanged || c.cyt.settledReference c.svc.active != c.cyt.reference) := by
  have reference : (boundaryReport kind c).reference = (c.cyt.atBoundary c.svc.active kind).reference := rfl
  have changed : (boundaryReport kind c).referenceChanged = (c.cyt.atBoundary c.svc.active kind).referenceChanged := rfl
  rw [reference, changed, Cyt.atBoundary_eq]
  exact ⟨rfl, rfl⟩

/-- The values of a report over the two halves of each wired channel (R17). -/
theorem boundaryReport_values (kind : Placed) (c : State) (p : Phase) :
    (boundaryReport kind c).values.get p =
      if wired c.svc.active.wiring p then (c.hcu.channels.get p).map (fun h => h.value (c.svc.active.k.get p)) else none := by
  have values : (boundaryReport kind c).values = (c.hcu.atBoundary c.svc.active.wiring).values c.svc.active := rfl
  rw [values]
  unfold Hcu.values Hcu.atBoundary
  rw [PerPhase.build_get]
  dsimp only
  rw [PerPhase.build_get]
  split <;> rfl

theorem boundaryKept_half (kind : Placed) (c : State) (p : Phase) : (boundaryKept kind c).hcu.channels.get p =
    if wired c.svc.active.wiring p then (c.hcu.channels.get p).map HcuChannel.shift else none := by
  have halves : (boundaryKept kind c).hcu.channels =
      PerPhase.build (fun p => ((c.hcu.atBoundary c.svc.active.wiring).channels.get p).map HcuChannel.shift) := rfl
  rw [halves]
  unfold Hcu.atBoundary
  rw [PerPhase.build_get]
  dsimp only
  rw [PerPhase.build_get]
  split <;> rfl

/-- The tracker unit after the report (R11, R20), with the note of an FN that the report's closure has brought. -/
theorem placeBoundary_cyt (kind : Placed) (c : State) : (placeBoundary kind c).cyt = { (boundaryKept kind c).cyt with
    fnChanged := (boundaryTold kind c).svc.active.fn != c.svc.active.fn
    presence := (boundaryKept kind c).cyt.presenceWith (boundaryReport kind c)
    reference := (boundaryKept kind c).cyt.referenceWith (boundaryReport kind c)
    tracker := if (boundaryKept kind c).cyt.referenceWith (boundaryReport kind c) = (boundaryKept kind c).cyt.reference
      then (boundaryKept kind c).cyt.tracker else .freewheel
    referenceChanged := (boundaryKept kind c).cyt.referenceWith (boundaryReport kind c) != (boundaryKept kind c).cyt.reference } := by
  obtain ⟨others, fn⟩ : ReportOnly (boundaryKept kind c) (boundaryTold kind c) := deliverReport_reportOnly _ _ _ _
  have noted : (boundaryKept kind c).cyt.fnChanged = false := by rw [boundaryKept_cyt]
  have unmarked : (boundaryKept kind c).cyt.referenceChanged = false := by rw [boundaryKept_cyt]
  have svc : (boundaryKept kind c).svc = c.svc := rfl
  have told : (boundaryTold kind c).cyt = { (boundaryKept kind c).cyt with
      fnChanged := (boundaryTold kind c).svc.active.fn != c.svc.active.fn } := by
    rw [noted, svc, Bool.false_or] at fn
    rw [← fn]
    exact congrArg State.cyt others
  obtain ⟨r, report⟩ : ∃ r, boundaryReport kind c = r := ⟨_, rfl⟩
  have form : (placeBoundary kind c).cyt = (boundaryTold kind c).cyt.afterReport r := by
    rw [placeBoundary_eq, updatePresence_others, report]
  rw [form, report, told, Cyt.afterReport_eq]
  obtain ⟨k, kept⟩ : ∃ k, (boundaryKept kind c).cyt = k := ⟨_, rfl⟩
  rw [kept] at unmarked ⊢
  dsimp only
  rw [unmarked, Bool.false_or]
  rfl

/-- What a boundary leaves outside the tracker unit and what the report is told to (R24). -/
theorem placeBoundary_others (kind : Placed) (c : State) :
    (placeBoundary kind c).ich = c.ich.atBoundary ∧ (placeBoundary kind c).hcu = (boundaryKept kind c).hcu ∧
    (placeBoundary kind c).spm = { c.spm with lastBoundary := some (extendedTick c) } := by
  obtain ⟨others, -⟩ : ReportOnly (boundaryKept kind c) (boundaryTold kind c) := deliverReport_reportOnly _ _ _ _
  have ich : (boundaryTold kind c).ich = c.ich.atBoundary := by rw [others]; rfl
  have hcu : (boundaryTold kind c).hcu = (boundaryKept kind c).hcu := by rw [others]
  have spm : (boundaryTold kind c).spm = { c.spm with lastBoundary := some (extendedTick c) } := by rw [others]; rfl
  rw [placeBoundary_eq, updatePresence_others]
  exact ⟨ich, hcu, spm⟩

theorem Ich.atBoundary_eq (c : Ich) : c.atBoundary = { c with
    divisor := c.pendingDivisor.getD c.divisor, pendingDivisor := none } := by
  obtain ⟨divisor, pending, lastN1, osc, windowOpen, lastOpen⟩ := c
  cases pending <;> rfl

/-- The cycle that completes at a boundary, by the two boundaries before it (R15). -/
def cycleAt (kind : Placed) (last before : Option BoundaryMark) (tick : Tick) (count : Nat) : Option Cycle :=
  match kind, last, before with
  | .real .positiveGoing, some last, some before =>
    if last.direction.isSome ∧ before.direction.isSome then some ⟨before.tick, tick, last.half + count⟩ else none
  | _, _, _ => none

/-- The marks of the last two boundaries are those before a boundary settles. -/
theorem completedCycle_settled (kind : Placed) (c : State) : completedCycle kind (settleBoundary kind c) =
    cycleAt kind c.cyt.last c.cyt.beforeLast c.tmb.tick (boundaryReport kind c).count := by
  have cyt : (settleBoundary kind c).cyt = c.cyt.atBoundary c.svc.active kind := rfl
  have last : (settleBoundary kind c).cyt.last = c.cyt.last := by rw [cyt, Cyt.atBoundary_eq]
  have before : (settleBoundary kind c).cyt.beforeLast = c.cyt.beforeLast := by rw [cyt, Cyt.atBoundary_eq]
  unfold completedCycle cycleAt
  rw [last, before] <;> rfl

/-- The samples of the half that a report counts are those of L1, which is always wired (R16). -/
theorem boundaryReport_count (kind : Placed) (c : State) :
    (boundaryReport kind c).count = (c.hcu.channels.l1.map (fun h => h.current.count)).getD 0 := by
  have count : (boundaryReport kind c).count =
      (((if wired c.svc.active.wiring .l1 then c.hcu.channels.l1 else none).map (fun h => h.current.count)).getD 0 : Nat) := rfl
  rw [count]
  cases c.svc.active.wiring <;> rfl

/-- A phase's half over a boundary. -/
theorem HcuChannel.value_eq (h : HcuChannel) (k : Nat) : h.value k =
    ⟨min 20000 ((isqrt ((h.previous.sum + h.current.sum) / (h.previous.count + h.current.count)) * k + 32768) / 65536),
      decide (20000 < (isqrt ((h.previous.sum + h.current.sum) / (h.previous.count + h.current.count)) * k + 32768) / 65536) ||
        h.previous.clipped || h.current.clipped, h.current.sum⟩ := by
  unfold HcuChannel.value rmsValue scaleRms
  rw [Nat.min_comm]

/-- Settles O3. -/
theorem boundaryFormsTheReport : Obligations.BoundaryFormsTheReport := by
  unfold Obligations.BoundaryFormsTheReport
  intro s r1 r2 r3 kind on placed set c kept chosen
  have run := exec_sample_placed on placed
  have others := placeBoundary_others kind c
  have cyt := placeBoundary_cyt kind c
  have keptCyt := boundaryKept_cyt kind c
  obtain ⟨ich, hcu, spm⟩ := others
  obtain ⟨reference, changed⟩ := boundaryReport_reference kind c
  have values := boundaryReport_values kind c
  have halves := boundaryKept_half kind c
  have svc : c.svc = s.svc := rfl
  have presence : (wiredPresence set.wiring c.cyt).get = kept := funext fun p => by
    unfold wiredPresence
    rw [PerPhase.build_get]
  have chooses : ∀ (held : Phase) (x : PerPhase (Option Presence)), chosenReference set.wiring held x = chosen held x.get :=
    fun _ _ => rfl
  have settled : (boundaryReport kind c).reference =
      if s.cyt.wiringInUse = set.wiring then s.cyt.reference else chosen s.cyt.reference kept := by
    rw [reference, ← presence, ← chooses]
    rfl
  have told : (boundaryReport kind c).referenceChanged =
      (s.cyt.referenceChanged || (boundaryReport kind c).reference != s.cyt.reference) := by
    rw [changed, reference]
    rfl
  obtain ⟨t, result⟩ : ∃ t, placeBoundary kind c = t := ⟨_, rfl⟩
  obtain ⟨r, report⟩ : ∃ r, boundaryReport kind c = r := ⟨_, rfl⟩
  obtain ⟨k, keeps⟩ : ∃ k, boundaryKept kind c = k := ⟨_, rfl⟩
  have time : r.time = reading s := by rw [← report]; rfl
  have tick : r.tick = s.tmb.tick := by rw [← report]; rfl
  have direction : r.direction = kind.direction := by rw [← report]; rfl
  have latest : k.hcu.latest = some r := by rw [← keeps, ← report]; rfl
  have keptSvc : k.svc = s.svc := by rw [← keeps]; rfl
  have keptOthers : k = { s with
      ich := c.ich.atBoundary, cyt := k.cyt, hcu := k.hcu, tmb := s.tmb.afterReading
      spm := { s.spm with lastBoundary := some (extendedTick c) } } := by rw [← keeps]; rfl
  have inner : boundaryTold kind c = deliverReport r (completedCycle kind (settleBoundary kind c)) (boundarySpan c) k := by
    rw [← keeps, ← report]
    rfl
  have whole : t = updatePresence r (boundaryTold kind c) := by rw [← result, ← report]; rfl
  obtain ⟨toldOthers, -⟩ : ReportOnly k (boundaryTold kind c) := by rw [inner]; exact deliverReport_reportOnly _ _ _ _
  obtain ⟨d, delivered⟩ : ∃ d, boundaryTold kind c = d := ⟨_, rfl⟩
  rw [result, keeps] at hcu
  rw [result] at run ich spm
  rw [result, keeps, report, delivered] at cyt
  rw [keeps, report] at keptCyt
  rw [report] at values settled told reference
  rw [keeps] at halves
  rw [delivered] at whole inner toldOthers
  have presenceK : k.cyt.presence.get = kept := by rw [keptCyt]; exact presence
  have wiringK : k.cyt.wiringInUse = set.wiring := by rw [keptCyt]; rfl
  have referenceK : k.cyt.reference = r.reference := by rw [keptCyt, reference]
  have fnK : k.cyt.fnChanged = false := by rw [keptCyt]
  have markK : k.cyt.referenceChanged = false := by rw [keptCyt]
  have trackerK : k.cyt.tracker = if s.cyt.fnChanged = false ∧ r.reference = s.cyt.reference then kind.tracker else .freewheel := by
    rw [keptCyt, reference]
    rfl
  have channels : ∀ p, t.cyt.channels.get p = if wired set.wiring p then c.cyt.channels.get p else none := fun p => by
    rw [cyt, keptCyt]
    exact PerPhase.build_get (fun p => if wired set.wiring p then c.cyt.channels.get p else none) p
  have toldCyt : d.cyt.afterReport r = t.cyt := by rw [whole, updatePresence_others]
  have flipped : flippedPhases r d.cyt = flippedPhases r k.cyt := by rw [toldOthers]; rfl
  have count : r.count = (c.hcu.channels.l1.map (fun h => h.current.count)).getD 0 := by rw [← report]; exact boundaryReport_count _ _
  have osc : r.osc = s.ich.osc := by
    have form : (boundaryReport kind c).osc = s.ich.atBoundary.osc := rfl
    rw [← report, form, Ich.atBoundary_eq]
  have synthetic : r.synthetic = kind.isSynthetic := by rw [← report]; rfl
  have completed : completedCycle kind (settleBoundary kind c) =
      cycleAt kind s.cyt.last s.cyt.beforeLast s.tmb.tick r.count := by
    rw [completedCycle_settled, report]
    rfl
  refine ⟨t, r, run, ?_, time, tick, osc, synthetic, direction, count, settled, told, fun p => ?_, ?_, spm,
    (congrArg Cyt.fnInUse cyt).trans (congrArg Cyt.fnInUse keptCyt), (congrArg Cyt.wiringInUse cyt).trans wiringK,
    (congrArg Cyt.progress cyt).trans (congrArg Cyt.progress keptCyt), ?_,
    (congrArg Cyt.beforeLast cyt).trans (congrArg Cyt.beforeLast keptCyt), ?_⟩
  · rw [hcu, latest]
  · by_cases isWired : wired set.wiring p = true
    · rw [if_pos isWired]
      have followed : follows s p = true := by
        unfold follows
        rw [show wired s.svc.active.wiring p = true from isWired, Bool.true_or]
      have half := (countSample_half (conditionAll ⟨r1, r2, r3⟩ s.svc.active) s p).trans (if_pos followed)
      obtain ⟨h, held⟩ : ∃ h, c.hcu.channels.get p = some h := ⟨_, half⟩
      refine ⟨h, held, ((values p).trans (if_pos isWired)).trans ?_, ?_, (channels p).trans (if_pos isWired)⟩
      · rw [held, Option.map_some, HcuChannel.value_eq]
        rfl
      · rw [hcu, halves, svc, if_pos isWired, held]
        rfl
    · rw [if_neg isWired]
      exact ⟨(values p).trans (if_neg isWired), by rw [hcu]; exact (halves p).trans (if_neg isWired),
        (channels p).trans (if_neg isWired)⟩
  · rw [ich]
    exact Ich.atBoundary_eq s.ich
  · rw [direction, tick]
    exact (congrArg Cyt.last cyt).trans (congrArg Cyt.last keptCyt)
  · intro tracker cycle span made told' flips
    have tracks : k.cyt.tracker = tracker := by
      rw [trackerK]
      cases kind <;> rfl
    have presenceMade : k.cyt.presence = PerPhase.build kept := by rw [keptCyt]; rfl
    have cytMade : { t.cyt with
        fnChanged := false, presence := PerPhase.build kept, reference := r.reference, referenceChanged := false
        tracker := tracker } = k.cyt := by
      have same : { k.cyt with
        fnChanged := k.cyt.fnChanged, presence := k.cyt.presence, reference := k.cyt.reference
        referenceChanged := k.cyt.referenceChanged, tracker := k.cyt.tracker } = k.cyt := rfl
      rw [fnK, presenceMade, referenceK, markK, tracks] at same
      rw [cyt]
      exact same
    have madeK : made = k := by
      have noted : t.spm = { s.spm with lastBoundary := some (extendedTick c) } := spm
      rw [keptOthers, ← cytMade, ← hcu, ← ich, ← noted]
    have toldD : told' = d := by
      rw [inner, completed]
      have form : told' = deliverReport r cycle span made := rfl
      rw [form, madeK] <;> rfl
    have flipsK : flips = flipsAt k.cyt.presence r := by
      unfold flipsAt
      rw [presenceK] <;> rfl
    have anyFlips : flippedPhases r k.cyt = [] ↔ [Phase.l1, .l2, .l3].any flips = false := by
      rw [flippedPhases_nil, flipsK]
    have presenceT : t.cyt.presence = k.cyt.presenceWith r := congrArg Cyt.presence cyt
    have referenceT : t.cyt.reference = k.cyt.referenceWith r := congrArg Cyt.reference cyt
    refine ⟨fun p => ?_, ?_, ?_, ?_, ?_, ?_⟩
    · rw [presenceT, Cyt.presenceWith_get, presenceK] <;> rfl
    · rw [referenceT, presenceT, ← chooses, ← referenceK, ← wiringK]
      unfold Cyt.referenceWith
      by_cases none' : flippedPhases r k.cyt = []
      · rw [if_pos none', anyFlips.mp none', if_neg (by decide)]
      · rw [if_neg none', if_pos (Bool.not_eq_false _ ▸ mt anyFlips.mpr none')]
    · rw [referenceT, ← referenceK]
      exact congrArg Cyt.referenceChanged cyt
    · rw [referenceT, ← referenceK, ← tracks]
      exact congrArg Cyt.tracker cyt
    · rw [toldD]
      exact congrArg Cyt.fnChanged cyt
    · rw [toldD, ← toldCyt, flipsK, ← flippedPhases_eq, ← flipped]
      exact whole.trans (updatePresence_eq r d)

end Sys2Proof.Machine
end

section
/-! Which boundary a sample places, and the two rows that place one when their time has come (R12 to R14). -/

namespace Sys2Proof.Machine

/-- A change is accepted at the sample after which none has passed (R9, R10). -/
theorem SignState.observe_accepts (c : SignState) (q : Nat) (x : Int) :
    (c.observe q x).2 = decide ((c.observe q x).1.sinceChange = 0) := by
  unfold SignState.observe
  dsimp only
  split
  · rfl
  · exact (decide_eq_false (Nat.succ_ne_zero _)).symm

/-- The change of the reference is the one that its channel's sign state shows (R12). -/
theorem change_eq (s : State) (r1 r2 r3 : BitVec 16) :
    s.change r1 r2 r3 = ((s.counted r1 r2 r3).cyt.channels.get s.cyt.reference).bind (fun c =>
      if c.sinceChange = 0 then some (match c.sign with
        | .pos => .positiveGoing
        | .neg => .negativeGoing)
      else none) := by
  obtain ⟨xs, conditioned⟩ : ∃ xs, conditionAll ⟨r1, r2, r3⟩ s.svc.active = xs := ⟨_, rfl⟩
  have counted : (s.counted r1 r2 r3).cyt.channels.get s.cyt.reference =
      ((observeAll xs s).get s.cyt.reference).map Prod.fst := conditioned ▸ countSample_sign _ s _
  have accepts : ∀ x, (observeAll xs s).get s.cyt.reference = some x → x.2 = decide (x.1.sinceChange = 0) := by
    intro x seen
    unfold observeAll at seen
    rw [PerPhase.build_get] at seen
    split at seen
    · rw [← Option.some.inj seen]
      exact SignState.observe_accepts _ _ _
    · exact nomatch seen
  unfold State.change referenceChange
  rw [conditioned, counted]
  cases seen : (observeAll xs s).get s.cyt.reference with
  | none => rfl
  | some x =>
    obtain ⟨c, accepted⟩ := x
    have since := accepts _ seen
    dsimp only at since
    by_cases zero : c.sinceChange = 0
    · rw [decide_eq_true zero] at since
      rw [since, Option.map_some, Option.bind_some, if_pos zero]
      show some c.sign.direction = _
      cases c.sign <;> rfl
    · rw [decide_eq_false zero] at since
      rw [since, Option.map_some, Option.bind_some, if_neg zero]

/-- The boundary that a sample places (R12 to R14). -/
theorem places_eq (s : State) (r1 r2 r3 : BitVec 16) :
    s.places r1 r2 r3 = match s.cyt.tracker, s.cyt.progress with
      | .tracking, .sinceBoundary n =>
        (match s.change r1 r2 r3 with
          | some d => some (.real d)
          | none => if nominalCycle s.cyt.fnInUse ≤ n + 1 then some .synthetic else none)
      | .freewheel, .sinceBoundary n =>
        if s.change r1 r2 r3 = some .positiveGoing ∧ quarterCycle s.cyt.fnInUse ≤ n + 1 then some .leaving
        else if halfCycle s.cyt.fnInUse ≤ n + 1 then some .synthetic
        else none
      | .freewheel, .sinceFirst n => if halfCycle s.cyt.fnInUse ≤ n + 1 then some .synthetic else none
      | _, _ => none := by
  have tracker : (s.counted r1 r2 r3).cyt.tracker = s.cyt.tracker := rfl
  have progress : (s.counted r1 r2 r3).cyt.progress = s.cyt.progress.next := rfl
  have fn : (s.counted r1 r2 r3).cyt.fnInUse = s.cyt.fnInUse := rfl
  have half : 1 ≤ halfCycle s.cyt.fnInUse := by cases s.cyt.fnInUse <;> decide
  unfold State.places Cyt.boundary
  rw [tracker, progress, fn]
  obtain ⟨d, changed⟩ : ∃ d, s.change r1 r2 r3 = d := ⟨_, rfl⟩
  rw [changed]
  cases s.cyt.tracker with
  | tracking => cases s.cyt.progress <;> rfl
  | freewheel =>
    cases s.cyt.progress with
    | fresh => exact if_neg (by omega)
    | sinceFirst n => rfl
    | sinceBoundary n => rfl

/-- What the statements say of a boundary that a row places. -/
theorem placed_sample {s : State} {r1 r2 r3 : BitVec 16} {kind : Placed} (on : sampling s = true)
    (placed : s.places r1 r2 r3 = some kind) :
    ∃ t r, exec (.sample r1 r2 r3) s = .next t ∧ t.hcu.latest = some r ∧ t.cyt.progress = .sinceBoundary 0 ∧
      r.tick = s.tmb.tick ∧ r.direction = kind.direction ∧ r.synthetic = kind.isSynthetic ∧
      (kind.tracker = .freewheel → t.cyt.tracker = .freewheel) ∧
      t.evs.medium = s.evs.medium ∧ t.spm.power = s.spm.power ∧ t.pending = s.pending := by
  obtain ⟨c, counted⟩ : ∃ c, s.counted r1 r2 r3 = c := ⟨_, rfl⟩
  have run := exec_sample_placed on placed
  have calm : Calm s (placeBoundary kind c) := by
    rw [← counted]
    exact (countSample_calm _ s).trans (placeBoundary_calm kind _)
  have tick : c.tmb.tick = s.tmb.tick := by rw [← counted]; rfl
  obtain ⟨-, hcu, -⟩ := placeBoundary_others kind c
  have cyt := placeBoundary_cyt kind c
  have keptCyt := boundaryKept_cyt kind c
  rw [counted] at run
  refine ⟨placeBoundary kind c, boundaryReport kind c, run, ?_, (congrArg Cyt.progress cyt).trans (congrArg Cyt.progress keptCyt),
    tick, rfl, rfl, fun free => (congrArg Cyt.tracker cyt).trans ?_, calm.medium, calm.power, calm.pending⟩
  · rw [hcu]
    rfl
  · have tracker : (boundaryKept kind c).cyt.tracker = .freewheel := by
      rw [keptCyt]
      show (if _ then kind.tracker else Tracker.freewheel) = .freewheel
      rw [free, ite_self]
    dsimp only
    rw [tracker, ite_self]

/-- TRACKING_TIMEOUT where due is SAMPLE. -/
theorem exec_trackingTimeout_due {s : State} {r1 r2 r3 : BitVec 16} (due : timeoutDue s = true) :
    exec (.trackingTimeout r1 r2 r3) s = exec (.sample r1 r2 r3) s := by
  have on : sampling s = true := by
    unfold timeoutDue at due
    rw [Bool.and_assoc] at due
    exact (Bool.and_eq_true_iff.mp due).1
  show Host.Outcome.next (if timeoutDue s then takeSample ⟨r1, r2, r3⟩ s else s) =
    .next (if sampling s then takeSample ⟨r1, r2, r3⟩ s else s)
  rw [if_pos due, if_pos on]

/-- SYNTHETIC_BOUNDARY where due is SAMPLE. -/
theorem exec_syntheticBoundary_due {s : State} {r1 r2 r3 : BitVec 16} (due : scheduleDue s = true) :
    exec (.syntheticBoundary r1 r2 r3) s = exec (.sample r1 r2 r3) s := by
  have on : sampling s = true := by
    unfold scheduleDue at due
    rw [Bool.and_assoc] at due
    exact (Bool.and_eq_true_iff.mp due).1
  show Host.Outcome.next (if scheduleDue s then takeSample ⟨r1, r2, r3⟩ s else s) =
    .next (if sampling s then takeSample ⟨r1, r2, r3⟩ s else s)
  rw [if_pos due, if_pos on]

/-- The timeout is due in TRACKING, a nominal cycle after the last boundary (R12). -/
theorem timeoutDue_iff (s : State) : timeoutDue s = true ↔ sampling s = true ∧ s.cyt.tracker = .tracking ∧
    ∃ n, s.cyt.progress = .sinceBoundary n ∧ nominalCycle s.cyt.fnInUse ≤ n + 1 := by
  unfold timeoutDue
  rw [Bool.and_eq_true, Bool.and_eq_true, beq_iff_eq, and_assoc]
  refine and_congr_right fun _ => and_congr_right fun _ => ?_
  cases s.cyt.progress <;> simp

/-- The schedule is due in FREEWHEEL, half a cycle after the last boundary or the first sample (R13, R14). -/
theorem scheduleDue_iff (s : State) : scheduleDue s = true ↔ sampling s = true ∧ s.cyt.tracker = .freewheel ∧
    ∃ n, (s.cyt.progress = .sinceBoundary n ∨ s.cyt.progress = .sinceFirst n) ∧ halfCycle s.cyt.fnInUse ≤ n + 1 := by
  unfold scheduleDue
  rw [Bool.and_eq_true, Bool.and_eq_true, beq_iff_eq, and_assoc]
  refine and_congr_right fun _ => and_congr_right fun _ => ?_
  cases s.cyt.progress <;> simp

/-- Settles O4. -/
theorem timeoutAndSchedulePlaceBoundaries : Obligations.TimeoutAndSchedulePlaceBoundaries := by
  unfold Obligations.TimeoutAndSchedulePlaceBoundaries
  refine ⟨fun s r1 r2 r3 due => ?_, fun s r1 r2 r3 due => ?_, fun s r1 r2 r3 => ?_,
    fun s r1 r2 r3 => ⟨exec_trackingTimeout_due, exec_syntheticBoundary_due⟩⟩
  · obtain ⟨on, tracking, n, progress, cycle⟩ := (timeoutDue_iff s).mp due
    have placed := places_eq s r1 r2 r3
    rw [tracking, progress] at placed
    rw [exec_trackingTimeout_due due]
    cases change : s.change r1 r2 r3 with
    | some d =>
      rw [change] at placed
      obtain ⟨t, r, run, latest, since, tick, direction, synthetic, -, kept⟩ := placed_sample on placed
      exact ⟨t, r, run, latest, since, tick, direction, synthetic, fun h => (nomatch h), kept⟩
    | none =>
      rw [change] at placed
      obtain ⟨t, r, run, latest, since, tick, direction, synthetic, tracker, kept⟩ := placed_sample on (placed.trans (if_pos cycle))
      exact ⟨t, r, run, latest, since, tick, direction, synthetic, fun _ => tracker rfl, kept⟩
  · obtain ⟨on, free, n, progress, half⟩ := (scheduleDue_iff s).mp due
    have placed := places_eq s r1 r2 r3
    rw [exec_syntheticBoundary_due due]
    have held : (s.change r1 r2 r3 = some .positiveGoing ∧ s.places r1 r2 r3 = some .leaving) ∨
        s.places r1 r2 r3 = some .synthetic := by
      rcases progress with progress | progress
      · rw [free, progress] at placed
        dsimp only at placed
        by_cases leaves : s.change r1 r2 r3 = some .positiveGoing ∧ quarterCycle s.cyt.fnInUse ≤ n + 1
        · rw [if_pos leaves] at placed
          exact .inl ⟨leaves.1, placed⟩
        · rw [if_neg leaves, if_pos half] at placed
          exact .inr placed
      · rw [free, progress] at placed
        exact .inr (placed.trans (if_pos half))
    rcases held with ⟨positive, placed⟩ | placed
    · obtain ⟨t, r, run, latest, since, tick, direction, synthetic, -, kept⟩ := placed_sample on placed
      exact ⟨t, r, run, latest, since, tick, direction, synthetic, fun other => absurd positive other, kept⟩
    · obtain ⟨t, r, run, latest, since, tick, direction, synthetic, tracker, kept⟩ := placed_sample on placed
      exact ⟨t, r, run, latest, since, tick, direction, synthetic, fun _ => tracker rfl, kept⟩
  · intro cycle
    refine ⟨change_eq s r1 r2 r3, ?_⟩
    have nominal : nominalCycle s.cyt.fnInUse = cycle := by simp only [cycle]; cases s.cyt.fnInUse <;> rfl
    have quarter : quarterCycle s.cyt.fnInUse = cycle / 4 := by simp only [cycle]; cases s.cyt.fnInUse <;> rfl
    have half : halfCycle s.cyt.fnInUse = cycle / 2 := by simp only [cycle]; cases s.cyt.fnInUse <;> rfl
    rw [places_eq, nominal, quarter, half] <;> rfl

end Sys2Proof.Machine
end

section
/-! What records, notices and items leave of the store, the clock and the link; the records that a halt closes (R40), and the
bank under one item in two states. -/

namespace Sys2Proof.Machine

/-! ## The store, the clock and the link -/

/-- What records offered, notices and items keep: the medium, the store's state, the link settings and the clock but for the
readings given, and with no read waiting the command in progress. -/
structure Recorded (s t : State) : Prop where
  medium : t.evs.medium = s.evs.medium
  state : t.evs.state = s.evs.state
  settings : t.hlk.settings = s.hlk.settings
  reading : reading t = reading s
  clock : s.tmb.SameButReadings t.tmb
  asked : s.evs.waitingRead = none → t.evs.waitingRead = none ∧ t.hlk.inProgress = s.hlk.inProgress

theorem Recorded.of_eq {s t : State} (evs : t.evs = s.evs) (hlk : t.hlk = s.hlk) (tmb : t.tmb = s.tmb) : Recorded s t := by
  refine ⟨by rw [evs], by rw [evs], by rw [hlk], ?_, by rw [tmb]; rfl, fun quiet => ⟨by rw [evs]; exact quiet, by rw [hlk]⟩⟩
  unfold Machine.reading
  rw [tmb]

theorem Recorded.refl (s : State) : Recorded s s := Recorded.of_eq rfl rfl rfl

theorem Recorded.trans {s t u : State} (h : Recorded s t) (k : Recorded t u) : Recorded s u :=
  ⟨k.medium.trans h.medium, k.state.trans h.state, k.settings.trans h.settings, k.reading.trans h.reading,
    h.clock.trans k.clock, fun quiet => by
      obtain ⟨quietT, askedT⟩ := h.asked quiet
      obtain ⟨quietU, askedU⟩ := k.asked quietT
      exact ⟨quietU, askedU.trans askedT⟩⟩

theorem Recorded.quality {s t : State} (h : Recorded s t) : t.tmb.quality = s.tmb.quality := by rw [h.clock]

theorem foldl_recorded {α : Type} {f : State → α → State} (each : ∀ s x, Recorded s (f s x)) (xs : List α) (s : State) :
    Recorded s (xs.foldl f s) := by
  induction xs generalizing s with
  | nil => exact Recorded.refl s
  | cons x rest ih => exact (each s x).trans (ih _)

theorem offer_recorded (kind : RecordKind) (payload : List Byte) (s : State) : Recorded s (offer kind payload s) :=
  ⟨(offer_calm kind payload s).medium, offer_state kind payload s, (offer_posts kind payload s).2, reading_offer kind payload s,
    offer_clock kind payload s, fun quiet => by
      obtain ⟨link, waits⟩ := offer_quiet kind payload quiet
      exact ⟨waits, by rw [link]⟩⟩

theorem postNotice_recorded (kind : NoticeKind) (fields : List Text) (s : State) : Recorded s (postNotice kind fields s) := by
  have steady := postNotice_steady kind fields s
  have others := postNotice_others kind fields s
  have tmb : (postNotice kind fields s).tmb = s.tmb := by rw [others]
  have evs : (postNotice kind fields s).evs = s.evs := by rw [others]
  refine ⟨by rw [evs], by rw [evs], steady.settings, ?_, by rw [tmb]; rfl, fun quiet => ⟨by rw [evs]; exact quiet, steady.inProgress⟩⟩
  unfold Machine.reading
  rw [tmb]

theorem handItem_recorded (item : Item) (s : State) : Recorded s (handItem item s) := by
  have evs := (handItem_bankOnly item s).evs
  obtain ⟨read, clock⟩ := handItem_clock item s
  have steady := (handItem_link item s).2
  exact ⟨by rw [evs], by rw [evs], steady.settings, read, clock, fun quiet => ⟨by rw [evs]; exact quiet, steady.inProgress⟩⟩

theorem bankTakes_recorded (item : Option Item) (s : State) : Recorded s (bankTakes item s) := by
  cases item with
  | none => exact Recorded.refl s
  | some x => exact handItem_recorded x s

theorem closeRecord_recorded (c : Context) (k : CloseAt) (s : State) : Recorded s (closeRecord c k s) := by
  have posted : Recorded s (postClose c k (offeredSequence s) (offer .evt (c.record k).payload s)) :=
    (offer_recorded _ _ s).trans (postNotice_recorded _ _ _)
  have classified : Recorded s (if k.cause = .limit
      then postClose c k (offeredSequence s) (offer .evt (c.record k).payload s)
      else handItem (.evt (c.classification k.cause)) (postClose c k (offeredSequence s) (offer .evt (c.record k).payload s))) := by
    split
    · exact posted
    · exact posted.trans (handItem_recorded _ _)
  exact classified.trans (Recorded.of_eq rfl rfl rfl)

theorem applyStaged_recorded (s : State) : Recorded s (applyStaged s) := by
  by_cases staged : s.svc.staged = []
  · rw [show applyStaged s = s from if_pos staged]
    exact Recorded.refl s
  · rw [applyStaged_some staged]
    have written : Recorded s (stagedWritten s) := Recorded.of_eq rfl rfl rfl
    exact (written.trans (offer_recorded _ _ _)).trans (Recorded.of_eq rfl rfl rfl)

/-! ## The records that a halt closes -/

/-- Of the detector a close discards the record alone. -/
theorem closeRecord_evd (c : Context) (k : CloseAt) (s : State) : (closeRecord c k s).evd = s.evd.setContext c.kind none := by
  have posted : (postClose c k (offeredSequence s) (offer .evt (c.record k).payload s)).evd = s.evd := by
    unfold postClose
    rw [postNotice_others, offer_others]
  have classified : (if k.cause = .limit
      then postClose c k (offeredSequence s) (offer .evt (c.record k).payload s)
      else handItem (.evt (c.classification k.cause))
        (postClose c k (offeredSequence s) (offer .evt (c.record k).payload s))).evd = s.evd := by
    split
    · exact posted
    · rw [(handItem_bankOnly _ _).evd, posted]
  show (setContext c.kind none _).evd = _
  exact congrArg (fun e : Evd => e.setContext c.kind none) classified

theorem stopRecord_detectorOnly (s : State) (kind : EventKind) : DetectorOnly s (stopRecord s kind) := by
  unfold stopRecord
  split
  · exact closeRecord_detectorOnly _ _ s
  · exact DetectorOnly.refl s

theorem stopRecord_recorded (s : State) (kind : EventKind) : Recorded s (stopRecord s kind) := by
  unfold stopRecord
  split
  · exact closeRecord_recorded _ _ s
  · exact Recorded.refl s

/-- A halt discards the record of a kind (R40). -/
theorem stopRecord_evd {s : State} (regular : s.evd.Regular) (kind : EventKind) :
    (stopRecord s kind).evd = s.evd.setContext kind none := by
  unfold stopRecord
  cases held : s.evd.context kind with
  | none =>
    cases kind
    all_goals
      simp only [Evd.context] at held
      simp only [Evd.setContext, ← held]
  | some c =>
    rw [← regular.kinds kind c held]
    exact closeRecord_evd c _ s

theorem stopRecords_evd {s : State} (regular : s.evd.Regular) :
    (stopRecords s).evd = { s.evd with dip := none, swell := none, interruption := none } := by
  have none' : ∀ kind (d : Context), (none : Option Context) = some d → d.kind = kind := fun _ _ h => nomatch h
  have first := stopRecord_evd regular .interruption
  have regular1 : (stopRecord s .interruption).evd.Regular := by rw [first]; exact regular.setContext (none' _)
  have second := stopRecord_evd regular1 .dip
  have regular2 : (stopRecord (stopRecord s .interruption) .dip).evd.Regular := by
    rw [second]
    exact regular1.setContext (none' _)
  have third := stopRecord_evd regular2 .swell
  show (stopRecord (stopRecord (stopRecord s .interruption) .dip) .swell).evd = _
  rw [third, second, first]
  rfl

theorem stopRecords_detectorOnly (s : State) : DetectorOnly s (stopRecords s) :=
  foldl_detectorOnly stopRecord_detectorOnly [EventKind.interruption, .dip, .swell] s

theorem stopRecords_recorded (s : State) : Recorded s (stopRecords s) :=
  foldl_recorded stopRecord_recorded [EventKind.interruption, .dip, .swell] s

/-! ## The bank under one item in two states -/

/-- What an item leaves of the bank depends on the bank and on the settings unit alone. -/
theorem handItem_tlb (item : Item) {s t : State} (tlb : t.tlb = s.tlb) (svc : t.svc = s.svc) :
    (handItem item t).tlb = (handItem item s).tlb := by
  have cell : ∀ (x y : State) (i : Nat), y.tlb = x.tlb → (cellTakes item y i).tlb = (cellTakes item x i).tlb := by
    intro x y i same
    have form : ∀ z : State, (cellTakes item z i).tlb = if (cellAt z.tlb i).config.takes item then
        (putCell i ((cellAt z.tlb i).after z.tlb.frozen item) z).tlb else z.tlb := fun z => by
      unfold cellTakes
      dsimp only
      split
      · split
        · unfold postMark
          rw [postWithReading_others]
        · rfl
      · rfl
    have put : ∀ g, (putCell i g y).tlb = (putCell i g x).tlb := fun g => by
      unfold putCell
      rw [same]
    rw [form, form, same, put]
  have cells : ∀ (l : List Nat) (x y : State), y.tlb = x.tlb → (l.foldl (cellTakes item) y).tlb = (l.foldl (cellTakes item) x).tlb := by
    intro l
    induction l with
    | nil => exact fun _ _ same => same
    | cons i rest ih => exact fun x y same => ih _ _ (cell x y i same)
  have svcT := (foldl_bankOnly (cellTakes_bankOnly item) (List.range 12) t).svc
  have svcS := (foldl_bankOnly (cellTakes_bankOnly item) (List.range 12) s).svc
  have foldT := cells (List.range 12) s t tlb
  unfold handItem
  obtain ⟨x, nameX⟩ : ∃ x, (List.range 12).foldl (cellTakes item) s = x := ⟨_, rfl⟩
  obtain ⟨y, nameY⟩ : ∃ y, (List.range 12).foldl (cellTakes item) t = y := ⟨_, rfl⟩
  rw [nameX] at svcS foldT
  rw [nameX, nameY]
  rw [nameY] at svcT foldT
  have survey : (surveyTakes item y).tlb = (surveyTakes item x).tlb := by
    unfold surveyTakes
    rw [svcT, svcS, svc, foldT]
    split <;> simp only [foldT]
  cases item with
  | evt chain => exact congrArg (fun b : Tlb => b.takeChain chain) survey
  | half r => exact survey
  | win values flagged mark => exact survey
  | int values valid member mark => exact survey
  | frq mark value valid out => exact survey

theorem bankTakes_tlb (item : Option Item) {s t : State} (tlb : t.tlb = s.tlb) (svc : t.svc = s.svc) :
    (bankTakes item t).tlb = (bankTakes item s).tlb := by
  cases item with
  | none => exact tlb
  | some x => exact handItem_tlb x tlb svc

end Sys2Proof.Machine
end

section
/-! The halt of measurement in the interval aggregator (R72). -/

namespace Sys2Proof.Machine

/-- The frequency value of the period that a halt ends (R68). -/
def Iva.haltedFrequency (v : Iva) (fn : NominalFrequency) : Option FrequencyValue :=
  v.period.map (fun d => Period.value { d with reasons := { d.reasons with halt := true } } fn)

/-- The latest window that a halt leaves of the window in progress. -/
def Iva.haltedWindow (v : Iva) (set : Settings) (time : Time) (mark : Nat) : Option LatestWindow :=
  v.window.map (fun w => w.finish set time mark)

/-- The interval that a halt closes, with the window that it ends and the STOP closes (R72). -/
def Interval.halted (i : Interval) (l : Option LatestWindow) (stops : Nat) (step : Bool) : Interval :=
  { (i.takeLast l).withCloses stops with marks := { (i.takeLast l).marks with
      timeStep := (i.takeLast l).marks.timeStep || step } }

theorem Iva.haltedFrequency_invalid (v : Iva) (fn : NominalFrequency) {f : FrequencyValue}
    (ended : v.haltedFrequency fn = some f) : f.valid = false ∧ f.reasons.halt = true := by
  obtain ⟨d, -, rfl⟩ := Option.map_eq_some_iff.mp ended
  refine ⟨?_, rfl⟩
  have invalid : ¬ (Period.value { d with reasons := { d.reasons with halt := true } } fn).valid = true := fun valid => by
    obtain ⟨-, -, none'⟩ := (Period.value_valid _ fn).1.mp valid
    exact nomatch congrArg PeriodReasons.halt none'
  exact Bool.eq_false_iff.mpr invalid

/-- What the end of a window leaves, where there is one. -/
theorem endWindow_eq (time : Time) (s : State) :
    endWindow time s = (bankTakes ((s.iva.haltedWindow s.svc.active time ((s.iva.interval.map Interval.startMark).getD 0)).map
      windowItem) s).withIva { s.iva with
        window := none
        latestWindow := (s.iva.haltedWindow s.svc.active time ((s.iva.interval.map Interval.startMark).getD 0)).or
          s.iva.latestWindow
        interval := s.iva.interval.map (fun i => i.takeLast
          (s.iva.haltedWindow s.svc.active time ((s.iva.interval.map Interval.startMark).getD 0))) } := by
  unfold Iva.haltedWindow
  cases window : s.iva.window with
  | none =>
    have unchanged : endWindow time s = s := by
      unfold endWindow
      rw [window]
    have same : s.iva = { s.iva with
        window := none
        latestWindow := (Option.none).or s.iva.latestWindow
        interval := s.iva.interval.map (fun i => i.takeLast none) } := by
      rw [← window, Option.none_or, show (fun i : Interval => i.takeLast none) = id from rfl, Option.map_id]
      rfl
    rw [unchanged]
    show s = s.withIva _
    conv_lhs => rw [show s = s.withIva s.iva from rfl, same]
    rfl
  | some w => exact endWindow_some window time

/-- The period ended at a halt enters no interval (R68, R72). -/
theorem haltPeriod_eq (s : State) : haltPeriod s =
    (bankTakes ((s.iva.haltedFrequency s.svc.active.fn).map periodItem) s).withIva { s.iva with
      period := none
      latestFrequency := (s.iva.haltedFrequency s.svc.active.fn).or s.iva.latestFrequency } := by
  obtain ⟨f, ended⟩ : ∃ f, s.iva.haltedFrequency s.svc.active.fn = f := ⟨_, rfl⟩
  have invalid : ∀ x, f = some x → x.valid = false := fun x h => (s.iva.haltedFrequency_invalid _ (ended.trans h)).1
  have keeps : (fun i : Interval => i.takeEnded f) = id := funext fun i => i.takeEnded_invalid invalid
  obtain ⟨v, marked⟩ : ∃ v : Iva, { s.iva with
    period := s.iva.period.map (fun p => { p with reasons := { p.reasons with halt := true } }) } = v := ⟨_, rfl⟩
  have period : v.endedPeriod true s.svc.active.fn = f := by
    rw [← ended, ← marked]
    unfold Iva.endedPeriod Iva.haltedFrequency
    rw [if_pos rfl, Option.map_map]
    rfl
  have form : haltPeriod s = endPeriod (s.withIva v) := by rw [← marked]; rfl
  have set : (s.withIva v).svc = s.svc := rfl
  rw [form, endPeriod_eq, set, State.withIva_iva, period, bankTakes_withIva, State.withIva_withIva, keeps, Option.map_id, ended]
  refine congrArg (State.withIva _) ?_
  rw [← marked]
  rfl

/-- What the aggregator and the bank hold as the interval of a halt closes (R72). -/
theorem haltCounted_eq {s : State} {i : Interval} (held : s.iva.interval = some i) (time : Time) (stops : Nat) :
    haltMarked (addCloses stops (endWindow time (haltPeriod s))) =
      (bankTakes ((s.iva.haltedWindow s.svc.active time i.startMark).map windowItem)
        (bankTakes ((s.iva.haltedFrequency s.svc.active.fn).map periodItem) s)).withIva { s.iva with
        window := none
        period := none
        latestFrequency := (s.iva.haltedFrequency s.svc.active.fn).or s.iva.latestFrequency
        latestWindow := (s.iva.haltedWindow s.svc.active time i.startMark).or s.iva.latestWindow
        interval := some (i.halted (s.iva.haltedWindow s.svc.active time i.startMark) stops s.iva.pendingStep)
        pendingStep := false } := by
  obtain ⟨f, ended⟩ : ∃ f, s.iva.haltedFrequency s.svc.active.fn = f := ⟨_, rfl⟩
  obtain ⟨u, item⟩ : ∃ u, bankTakes (f.map periodItem) s = u := ⟨_, rfl⟩
  have svc : u.svc = s.svc := item ▸ (bankTakes_bankOnly _ s).svc
  obtain ⟨v, left⟩ : ∃ v : Iva, { s.iva with period := none, latestFrequency := f.or s.iva.latestFrequency } = v := ⟨_, rfl⟩
  have first : haltPeriod s = u.withIva v := by rw [haltPeriod_eq, ended, item, left]
  have set : (u.withIva v).svc = s.svc := svc
  have interval : v.interval = some i := by rw [← left]; exact held
  have window : ∀ set, v.haltedWindow set time i.startMark = s.iva.haltedWindow set time i.startMark := fun set => by
    rw [← left]
    rfl
  have mark : (v.interval.map Interval.startMark).getD 0 = i.startMark := by rw [interval]; rfl
  rw [first, endWindow_eq, set, State.withIva_iva, mark, window, bankTakes_withIva, State.withIva_withIva, addCloses_withIva,
    ended, item, interval]
  obtain ⟨l, last⟩ : ∃ l, s.iva.haltedWindow s.svc.active time i.startMark = l := ⟨_, rfl⟩
  obtain ⟨x, items⟩ : ∃ x, bankTakes (l.map windowItem) u = x := ⟨_, rfl⟩
  rw [last, items]
  have marks : ∀ w : Iva, haltMarked (x.withIva w) = x.withIva { w with
      interval := w.interval.map (fun i => { i with marks := { i.marks with timeStep := i.marks.timeStep || w.pendingStep } })
      pendingStep := false } := fun _ => rfl
  rw [marks]
  refine congrArg (State.withIva _) ?_
  rw [← left]
  rfl

/-- The interval that a halt closes (R72). -/
def Iva.haltHeld (v : Iva) (seconds : Nat) : Interval :=
  v.interval.getD (Interval.begin (seconds / 600 * 600) ⟨false, false, false, false, true, false, false⟩)

/-- What is in progress at a halt, opened at the reading where there is none (R72). -/
theorem haltOpened_eq (s : State) : (haltOpened s).iva = { s.iva with interval := some (s.iva.haltHeld (reading s).seconds) } ∧
    (haltOpened s).evs = s.evs ∧ (haltOpened s).tlb = s.tlb ∧
    DetectorOnly (s.withIva { s.iva with interval := some (s.iva.haltHeld (reading s).seconds) }) (haltOpened s) ∧
    Recorded s (haltOpened s) := by
  unfold haltOpened Iva.haltHeld
  cases interval : s.iva.interval with
  | some i =>
    have same : { s.iva with interval := some i } = s.iva := by rw [← interval]
    refine ⟨same.symm, rfl, rfl, ?_, Recorded.refl s⟩
    rw [Option.getD_some, same]
    rfl
  | none =>
    refine ⟨rfl, rfl, rfl, rfl, ⟨rfl, rfl, rfl, ?_, Tmb.afterReading_only s.tmb, fun quiet => ⟨quiet, rfl⟩⟩⟩
    exact reading_of_afterReading rfl

/-- A survey neither armed nor running does not advance (R102). -/
theorem advanceSurvey_rests {s : State} (k : Closure) (armed : s.svc.survey.state ≠ .armed)
    (running : s.svc.survey.state ≠ .running) : advanceSurvey k s = s := by
  unfold advanceSurvey
  cases state : s.svc.survey.state with
  | armed => exact absurd state armed
  | running => exact absurd state running
  | idle => rfl
  | complete => rfl
  | aborted => rfl

end Sys2Proof.Machine
end

section
/-! MEA (R104, R105): the start and the halt of measurement. -/

namespace Sys2Proof.Machine

/-! ## The aggregator and the settings unit at a halt -/

/-- The interval that a halt closes, from the state after the STOP closes (R72). -/
def State.haltClosed (c : State) (stops : Nat) : Interval :=
  (c.iva.haltHeld (reading c).seconds).halted
    (c.iva.haltedWindow c.svc.active (haltTime c) (c.iva.haltHeld (reading c).seconds).startMark) stops c.iva.pendingStep

/-- The bank after the period and the window that a halt ends. -/
def State.haltItems (c : State) : State :=
  bankTakes ((c.iva.haltedWindow c.svc.active (haltTime c) (c.iva.haltHeld (reading c).seconds).startMark).map windowItem)
    (bankTakes ((c.iva.haltedFrequency c.svc.active.fn).map periodItem) c)

/-- The aggregator after a halt (R72). -/
def State.haltedIva (c : State) : Iva :=
  { c.iva with
    window := none
    period := none
    interval := none
    latestFrequency := (c.iva.haltedFrequency c.svc.active.fn).or c.iva.latestFrequency
    latestWindow := (c.iva.haltedWindow c.svc.active (haltTime c) (c.iva.haltHeld (reading c).seconds).startMark).or
      c.iva.latestWindow
    pendingStep := false
    resumed := false }

/-- What a halt leaves as it hands the closure of the interval on: its record queued, the bank with its item, and nothing else
changed but the clock's readings and the link. -/
structure HaltGone (c g : State) (stops : Nat) : Prop where
  others : DetectorOnly (c.withIva g.iva) g
  evd : g.evd = c.evd
  recorded : Recorded c g
  bank : g.tlb = (handItem (.int (intervalValues ((c.haltClosed stops).record (haltTime c) true c).phases)
    ((c.haltClosed stops).record (haltTime c) true c).valid ((c.haltClosed stops).record (haltTime c) true c).member
    (c.haltClosed stops).startMark) c.haltItems).tlb
  queues : Queues c g .ivl ((c.haltClosed stops).record (haltTime c) true c).payload c.svc.generation

theorem Interval.record_congr (j : Interval) (time : Time) (halted : Bool) {s t : State} (svc : t.svc = s.svc)
    (quality : t.tmb.quality = s.tmb.quality) : j.record time halted t = j.record time halted s := by
  unfold Interval.record
  rw [svc, quality]

theorem State.withIva_recorded (s : State) (v : Iva) : Recorded s (s.withIva v) := Recorded.of_eq rfl rfl rfl

theorem DetectorOnly.withIva {s t : State} (h : DetectorOnly s t) (v : Iva) : DetectorOnly (s.withIva v) (t.withIva v) := by
  unfold DetectorOnly at h ⊢
  conv_lhs => rw [h]
  rfl

theorem intervalHanded_recorded (j : Interval) (cause : ClosureCause) (time : Time) (u : State) :
    Recorded u (intervalHanded j cause time u) := by
  have posted : Recorded u (intervalPosted j cause time u) := by
    rw [intervalPosted_eq]
    exact (offer_recorded _ _ u).trans (postNotice_recorded _ _ _)
  exact posted.trans (handItem_recorded _ _)

theorem intervalHanded_detectorOnly (j : Interval) (cause : ClosureCause) (time : Time) (u : State) :
    DetectorOnly u (intervalHanded j cause time u) := by
  have posted : DetectorOnly u (intervalPosted j cause time u) := by
    rw [intervalPosted_eq]
    exact (offer_detectorOnly _ _ u).trans (postNotice_detectorOnly _ _ _)
  exact posted.trans (handItem_bankOnly _ _).detectorOnly

theorem intervalHanded_tlb (j : Interval) (cause : ClosureCause) (time : Time) (u : State) :
    (intervalHanded j cause time u).tlb = (handItem (intervalItem j cause time u) u).tlb := by
  have posted : (intervalPosted j cause time u).tlb = u.tlb ∧ (intervalPosted j cause time u).svc = u.svc := by
    rw [intervalPosted_eq, postNotice_others, offer_others]
    exact ⟨rfl, rfl⟩
  exact handItem_tlb (intervalItem j cause time u) posted.1 posted.2

/-- What a halt leaves before the closure of its interval. -/
structure HaltCounted (c z : State) (stops : Nat) : Prop where
  iva : z.iva = { c.haltedIva with interval := some (c.haltClosed stops), resumed := c.iva.resumed }
  others : DetectorOnly (c.withIva z.iva) z
  evd : z.evd = c.evd
  evs : z.evs = c.evs
  recorded : Recorded c z
  bank : z.tlb = c.haltItems.tlb

theorem haltCounted_counted (c : State) (stops : Nat) :
    HaltCounted c (haltMarked (addCloses stops (endWindow (haltTime c) (haltPeriod (haltOpened c))))) stops := by
  obtain ⟨iva, evs, tlb, only, recorded⟩ := haltOpened_eq c
  obtain ⟨o, opened⟩ : ∃ o, haltOpened c = o := ⟨_, rfl⟩
  obtain ⟨held, holds⟩ : ∃ i, c.iva.haltHeld (reading c).seconds = i := ⟨_, rfl⟩
  have evd : o.evd = c.evd := by
    have form := opened
    unfold haltOpened at form
    rw [← form]
    split <;> rfl
  rw [opened] at iva evs tlb only recorded
  rw [holds] at iva only
  have svc : o.svc = c.svc := only.svc
  have counted := haltCounted_eq (s := o) (i := held) (by rw [iva]) (haltTime c) stops
  have frequency : o.iva.haltedFrequency o.svc.active.fn = c.iva.haltedFrequency c.svc.active.fn := by rw [iva, svc]; rfl
  have window : o.iva.haltedWindow o.svc.active (haltTime c) held.startMark =
      c.iva.haltedWindow c.svc.active (haltTime c) held.startMark := by rw [iva, svc]; rfl
  rw [frequency, window] at counted
  obtain ⟨f, ended⟩ : ∃ f, (c.iva.haltedFrequency c.svc.active.fn).map periodItem = f := ⟨_, rfl⟩
  obtain ⟨l, last⟩ : ∃ l, (c.iva.haltedWindow c.svc.active (haltTime c) held.startMark).map windowItem = l := ⟨_, rfl⟩
  have items : c.haltItems = bankTakes l (bankTakes f c) := by
    unfold State.haltItems
    rw [holds, last, ended]
  rw [ended, last] at counted
  obtain ⟨b, banked⟩ : ∃ b, bankTakes l (bankTakes f o) = b := ⟨_, rfl⟩
  have bankOnly : BankOnly o b := banked ▸ (bankTakes_bankOnly _ _).trans (bankTakes_bankOnly _ _)
  have bankRecorded : Recorded o b := banked ▸ (bankTakes_recorded _ _).trans (bankTakes_recorded _ _)
  have bankTlb : b.tlb = c.haltItems.tlb := by
    rw [← banked, items]
    exact bankTakes_tlb _ (bankTakes_tlb _ tlb svc) (((bankTakes_bankOnly _ _).svc.trans svc).trans (bankTakes_bankOnly _ _).svc.symm)
  rw [banked] at counted
  rw [opened, counted]
  refine ⟨?_, ?_, bankOnly.evd.trans evd, bankOnly.evs.trans evs, (recorded.trans bankRecorded).trans (b.withIva_recorded _),
    bankTlb⟩
  · rw [State.withIva_iva]
    unfold State.haltedIva State.haltClosed
    rw [holds, iva]
  · exact (only.trans bankOnly.detectorOnly).withIva _

theorem haltIntervals_gone (c : State) (stops : Nat) (armed : c.svc.survey.state ≠ .armed) (running : c.svc.survey.state ≠ .running) :
    ∃ g, HaltGone c g stops ∧ haltIntervals stops c = (applyStaged g).withIva c.haltedIva := by
  obtain ⟨iva, others, evd, evs, recorded, bank⟩ := haltCounted_counted c stops
  obtain ⟨z, name⟩ : ∃ z, haltMarked (addCloses stops (endWindow (haltTime c) (haltPeriod (haltOpened c)))) = z := ⟨_, rfl⟩
  obtain ⟨j, isJ⟩ : ∃ j, c.haltClosed stops = j := ⟨_, rfl⟩
  rw [name] at iva others evd evs recorded bank
  have svc : z.svc = c.svc := others.svc
  have held : z.iva.interval = some j := by rw [iva, ← isJ]
  have record : j.record (haltTime c) (ClosureCause.halt == .halt) z = j.record (haltTime c) true c :=
    Interval.record_congr j _ _ svc recorded.quality
  have item : intervalItem j .halt (haltTime c) z = .int (intervalValues (j.record (haltTime c) true c).phases)
      (j.record (haltTime c) true c).valid (j.record (haltTime c) true c).member j.startMark := by
    unfold intervalItem
    rw [record]
    rfl
  have queues := intervalGone_queues j .halt (haltTime c) z
  rw [record, svc] at queues
  obtain ⟨x, handed⟩ : ∃ x, intervalHanded j .halt (haltTime c) z = x := ⟨_, rfl⟩
  have onlyX : DetectorOnly z x := handed ▸ intervalHanded_detectorOnly j .halt (haltTime c) z
  have recordedX : Recorded z x := handed ▸ intervalHanded_recorded j .halt (haltTime c) z
  have tlbX : x.tlb = (handItem (intervalItem j .halt (haltTime c) z) z).tlb := handed ▸ intervalHanded_tlb j .halt (haltTime c) z
  have evdX : x.evd = z.evd := by rw [← handed, intervalHanded_others]
  have gone : intervalGone j .halt (haltTime c) z = x.withIva { z.iva with interval := none } := by
    unfold intervalGone
    rw [handed]
  have closes := closeInterval_gone held .halt (haltTime c) none
  rw [gone] at closes queues
  have svcG : (x.withIva { z.iva with interval := none }).svc = c.svc := onlyX.svc.trans svc
  have rests : takeClosure (closureOf j .halt (haltTime c) none z) (x.withIva { z.iva with interval := none }) =
      applyStaged (x.withIva { z.iva with interval := none }) := by
    refine advanceSurvey_rests _ ?_ ?_ <;> rw [applyStaged_surveyState, svcG]
    · exact armed
    · exact running
  rw [rests] at closes
  have form : haltIntervals stops c = (closeInterval .halt (haltTime c) none z).withIva
      { (closeInterval .halt (haltTime c) none z).iva with
        window := none, interval := none, period := none, pendingStep := false, resumed := false } := by
    rw [← name]
    rfl
  refine ⟨x.withIva { z.iva with interval := none }, ⟨(others.trans onlyX).withIva _, evdX.trans evd,
    (recorded.trans recordedX).trans (x.withIva_recorded _), ?_, ?_⟩, ?_⟩
  · rw [isJ, State.withIva_tlb, tlbX, item]
    refine handItem_tlb _ bank (svc.trans ?_)
    exact ((bankTakes_bankOnly _ _).svc.trans (bankTakes_bankOnly _ _).svc).symm
  · rw [isJ]
    exact queues.before evs recorded.reading recorded.quality (congrArg Evd.counter evd)
  · rw [form, closes]
    refine congrArg (State.withIva _) ?_
    rw [applyStaged_iva, State.withIva_iva, iva]
    rfl

end Sys2Proof.Machine
end

section
/-! MEA GO and MEA HALT (O30). -/

namespace Sys2Proof.Machine

/-- The settings unit after the staged set has been applied (R103). -/
theorem applyStaged_svc (s : State) : (applyStaged s).svc = { s.svc with
    active := s.svc.active.write s.svc.staged
    staged := []
    generation := if s.svc.staged = [] then s.svc.generation else s.svc.generation + 1
    survey := if s.svc.staged = [] then s.svc.survey else s.svc.survey.applied } := by
  by_cases staged : s.svc.staged = []
  · rw [show applyStaged s = s from if_pos staged, if_pos staged, if_pos staged]
    have same : s.svc.active.write s.svc.staged = s.svc.active := by rw [staged]; rfl
    rw [same]
    conv_rhs => rw [← staged]
  · rw [applyStaged_some staged, if_neg staged, if_neg staged]
    exact offer_svc _ _ _

/-- With no record open the application marks none. -/
theorem applyStaged_evd {s : State} (closed : s.evd = { s.evd with dip := none, swell := none, interruption := none }) :
    (applyStaged s).evd = s.evd := by
  by_cases staged : s.svc.staged = []
  · rw [show applyStaged s = s from if_pos staged]
  · have written : (offerSettings .appliedAtClosure (stagedWritten s)).evd = s.evd := by
      unfold offerSettings
      rw [offer_others]
      rfl
    rw [applyStaged_some staged]
    unfold markSettingsChanged
    dsimp only
    rw [written, closed]
    rfl

/-- The settings record of the application stands last in the queue of a store with room. -/
theorem applyStaged_queue {s : State} (room : s.evs.pwq.length < 32) (ready : s.evs.state ≠ .scanning) :
    ∃ l, (applyStaged s).evs.pwq = s.evs.pwq ++ l ∧ l.map Record.kind = if s.svc.staged = [] then [] else [.cfg] := by
  by_cases staged : s.svc.staged = []
  · rw [show applyStaged s = s from if_pos staged, if_pos staged]
    exact ⟨[], (List.append_nil _).symm, rfl⟩
  · have takes : recordTaken (stagedWritten s) = true := (recordTaken_iff _).mpr ⟨ready, room⟩
    obtain ⟨x, queue, -, -, -, kind, -⟩ := (offer_queues .cfg (settingsPayload .appliedAtClosure (stagedWritten s).svc.active
      (stagedWritten s).hlk.settings (stagedWritten s).tmb.enabled (stagedWritten s).tmb.polarity) (stagedWritten s)).taken takes
    rw [applyStaged_some staged, if_neg staged]
    exact ⟨[x], queue, congrArg (fun k => [k]) kind⟩

/-! ## GO -/

/-- The state in which an accepted MEA GO offers its record (R28, R104). -/
def measurementBegun (s : State) : State :=
  { s with
    svc := { s.svc with measuring := true }
    evd := s.evd.atStart s.svc.active.wiring
    iva := { s.iva with pendingStep := false, resumed := false } }

theorem runMea_go (s : State) : runCommand .mea ["GO".toList] s = if s.svc.measuring then answer .stt [] s else
    answer .ok [] (offer .mea (measurementPayload true) (measurementBegun s)) := rfl

theorem meaGo_starts (s : State) (free : s.LinkFree) (one : s.OneRequest) : ∃ t, exec .meaGo s = .next t ∧
    if s.svc.measuring = true then AnsweredOnly s t .mea .stt []
    else
      Answered t .mea .ok [] ∧ LinkKept s t ∧ Queues s t .mea (measurementPayload true) s.svc.generation ∧
      t = { s with
        svc := { s.svc with measuring := true }
        evd := t.evd
        iva := { s.iva with pendingStep := false, resumed := false }
        tmb := t.tmb
        evs := t.evs
        hlk := t.hlk } ∧
      t.evd.counter = s.evd.counter ∧ t.evd.dip = s.evd.dip ∧ t.evd.swell = s.evd.swell ∧
      t.evd.interruption = s.evd.interruption ∧
      ∀ p, t.evd.phases.get p = if wired s.svc.active.wiring p then some ⟨.normal, false⟩ else none := by
  refine ⟨_, exec_taken (i := .meaGo) rfl free (by decide), ?_⟩
  rw [runMea_go]
  by_cases measuring : s.svc.measuring = true
  · rw [if_pos measuring, if_pos (show (taken .mea s).svc.measuring = true from measuring)]
    exact answer_only _ _ free.inProgress
  · rw [if_neg measuring, if_neg (show ¬ (taken .mea s).svc.measuring = true from measuring)]
    obtain ⟨b, begun⟩ : ∃ b, measurementBegun (taken .mea s) = b := ⟨_, rfl⟩
    have quiet : b.evs.waitingRead = none := by rw [← begun]; exact one.no_read free.inProgress
    have link : b.hlk = (taken .mea s).hlk := by rw [← begun]; rfl
    have others := offer_others .mea (measurementPayload true) b
    have queued := offer_queues .mea (measurementPayload true) b
    obtain ⟨still, -⟩ := offer_quiet .mea (measurementPayload true) quiet
    rw [begun]
    obtain ⟨u, offered⟩ : ∃ u, offer .mea (measurementPayload true) b = u := ⟨_, rfl⟩
    rw [offered] at others queued still ⊢
    obtain ⟨answered, kept, only⟩ := answer_after (u := u) free (still.trans link) .ok []
    have evd : (answer .ok [] u).evd = s.evd.atStart s.svc.active.wiring := by
      rw [only, others, ← begun]
      rfl
    refine ⟨answered, kept, ?_, ?_, by rw [evd]; rfl, by rw [evd]; rfl, by rw [evd]; rfl, by rw [evd]; rfl, fun p => ?_⟩
    · refine Queues.after ?_ (answer_evs _ _ _)
      rw [← begun] at queued
      exact queued.before rfl rfl rfl rfl
    · rw [only, others, ← begun]
      rfl
    · rw [evd]
      exact PerPhase.build_get (fun p => if wired s.svc.active.wiring p then some PhaseState.initial else none) p

/-! ## HALT -/

theorem runMea_halt (s : State) : runCommand .mea ["HALT".toList] s = if surveyLocks s then answer .lck [] s
    else if ¬ s.svc.measuring then answer .stt [] s
    else answer .ok [] (offer .mea (measurementPayload false) (stopBlocks s)) := rfl

/-- The interval that a halt closes, by the one in progress (R61, R72). -/
theorem Interval.halted_eq (i : Interval) (l : Option LatestWindow) (n : Nat) (step : Bool) :
    (i.halted l n step).startMark = i.startMark ∧ (i.halted l n step).closes = min 65535 (i.closes + n) ∧
    (i.halted l n step).frequencyCount = i.frequencyCount ∧ (i.halted l n step).frequencySum = i.frequencySum ∧
    (i.halted l n step).frequencyRange = i.frequencyRange ∧
    (l = none → (i.halted l n step).windows = i.windows ∧ (i.halted l n step).flagged = i.flagged ∧
      (i.halted l n step).phases = i.phases ∧
      (i.halted l n step).marks = { i.marks with timeStep := i.marks.timeStep || step }) ∧
    ∀ y, l = some y → (i.halted l n step).windows = min 65535 (i.windows + 1) ∧
      (i.halted l n step).flagged = min 65535 (i.flagged +
        if y.flags.event = true ∨ y.flags.synthetic = true ∨ y.flags.clipped = true ∨ y.flags.oscillator = true then 1 else 0) ∧
      (i.halted l n step).marks = ⟨i.marks.event || y.flags.event, i.marks.synthetic || y.flags.synthetic,
        i.marks.clipped || y.flags.clipped, i.marks.clock || y.flags.oscillator, i.marks.incomplete,
        i.marks.timeStep || step, i.marks.resumed⟩ ∧
      ∀ p, (i.halted l n step).phases.get p = (i.phases.get p).add (y.values.get p) := by
  cases l with
  | none =>
    exact ⟨rfl, saturate_max16 _, rfl, rfl, rfl, fun _ => ⟨rfl, rfl, rfl, rfl⟩, fun _ h => nomatch h⟩
  | some l =>
    obtain ⟨start, closes, windows, flagged, marks, phases, count, sum, range⟩ := Interval.takes_window i none l n rfl
    refine ⟨start, closes, count, sum, range, fun h => (nomatch h), fun y same => ?_⟩
    obtain rfl := Option.some.inj same
    exact ⟨windows, flagged, congrArg (fun m : IntervalMarks => { m with timeStep := m.timeStep || step }) marks, phases⟩

/-- What a halt leaves before its measurement record (R105). -/
theorem stopBlocks_leaves {q : State} (regular : q.evd.Regular) (armed : q.svc.survey.state ≠ .armed)
    (running : q.svc.survey.state ≠ .running) :
    ∃ g, HaltGone (stopRecords q) g q.evd.openCount ∧
      (stopBlocks q).tlb = g.tlb ∧ Recorded q (stopBlocks q) ∧ (stopBlocks q).evs = (applyStaged g).evs ∧
      g.svc = q.svc ∧
      stopBlocks q = { q with
        cyt := { q.cyt with fnChanged := q.cyt.fnChanged || (q.svc.active.write q.svc.staged).fn != q.svc.active.fn }
        evd := { q.evd with dip := none, swell := none, interruption := none }
        iva := (stopRecords q).haltedIva
        svc := { q.svc with
          measuring := false
          active := q.svc.active.write q.svc.staged
          staged := []
          generation := if q.svc.staged = [] then q.svc.generation else q.svc.generation + 1 }
        evs := (stopBlocks q).evs, tlb := (stopBlocks q).tlb, tmb := (stopBlocks q).tmb, hlk := (stopBlocks q).hlk } := by
  obtain ⟨c, stopped⟩ : ∃ c, stopRecords q = c := ⟨_, rfl⟩
  have onlyC : DetectorOnly q c := stopped ▸ stopRecords_detectorOnly q
  have recordedC : Recorded q c := stopped ▸ stopRecords_recorded q
  have evdC : c.evd = { q.evd with dip := none, swell := none, interruption := none } := stopped ▸ stopRecords_evd regular
  have svcC := onlyC.svc
  obtain ⟨g, gone, form⟩ := haltIntervals_gone c q.evd.openCount (by rw [svcC]; exact armed) (by rw [svcC]; exact running)
  have svcG : g.svc = q.svc := gone.others.svc.trans svcC
  have evdG : g.evd = { q.evd with dip := none, swell := none, interruption := none } := gone.evd.trans evdC
  have svcA := applyStaged_svc g
  have evdA := applyStaged_evd (s := g) (by rw [evdG])
  have settles := applyStaged_settles g
  have recordedA := applyStaged_recorded g
  have tlbA := applyStaged_tlb g
  have blocks : stopBlocks q = { (haltIntervals q.evd.openCount (stopRecords q)) with
      svc := { (haltIntervals q.evd.openCount (stopRecords q)).svc with measuring := false } } := rfl
  rw [stopped, form] at blocks
  have survey : (if q.svc.staged = [] then q.svc.survey else q.svc.survey.applied) = q.svc.survey := by
    unfold SurveyContext.applied
    rw [if_neg running, ite_self]
  have cytC : c.cyt = q.cyt := by rw [onlyC]
  have cytG : g.cyt = q.cyt := by rw [gone.others]; exact cytC
  obtain ⟨a, name⟩ : ∃ a, applyStaged g = a := ⟨_, rfl⟩
  rw [name] at svcA evdA settles recordedA tlbA blocks
  rw [svcG, survey] at svcA
  have fn := settles.fn
  rw [cytG, svcA, svcG] at fn
  obtain ⟨b, isB⟩ : ∃ b, stopBlocks q = b := ⟨_, rfl⟩
  rw [isB] at blocks ⊢
  rw [stopped]
  refine ⟨g, gone, ?_, ?_, ?_, svcG, ?_⟩
  · rw [blocks]
    exact tlbA
  · rw [blocks]
    exact ((recordedC.trans gone.recorded).trans recordedA).trans (Recorded.of_eq rfl rfl rfl)
  · rw [blocks, name]
    rfl
  · have whole : a = { q with
        cyt := { q.cyt with fnChanged := a.cyt.fnChanged }
        svc := a.svc, evd := a.evd, iva := a.iva, evs := a.evs, tlb := a.tlb, tmb := a.tmb, hlk := a.hlk } := by
      have others := settles.others
      rw [cytG] at others
      conv_lhs => rw [others, gone.others, onlyC]
      rw [settles.iva]
      rfl
    rw [evdG] at evdA
    rw [svcA, evdA, fn] at whole
    rw [blocks]
    conv_lhs => rw [whole]
    rfl

/-- The items of a halt, as its statement writes them. -/
theorem haltItems_eq (c : State) (f : Option FrequencyValue) (l : Option LatestWindow) (mark : Nat) (x : State) :
    x = (match f with
      | some y => handItem (.frq y.startMark y.value false y.outOfRange) c
      | none => c) →
    c.iva.haltedFrequency c.svc.active.fn = f → (c.iva.haltHeld (reading c).seconds).startMark = mark →
    c.iva.haltedWindow c.svc.active (haltTime c) mark = l →
    c.haltItems = match l with
      | some y => handItem (.win y.values (y.flags.event || y.flags.synthetic || y.flags.clipped || y.flags.oscillator) mark) x
      | none => x := by
  intro isX frequency atMark window
  unfold State.haltItems
  rw [frequency, atMark, window]
  have first : bankTakes (f.map periodItem) c = x := by
    rw [isX]
    cases ended : f with
    | none => rfl
    | some y =>
      have invalid := (c.iva.haltedFrequency_invalid _ (frequency.trans ended)).1
      show handItem (.frq y.startMark y.value y.valid y.outOfRange) c = _
      rw [invalid]
  rw [first]
  cases last : l with
  | none => rfl
  | some y =>
    have start : y.startMark = mark := by
      obtain ⟨w, -, rfl⟩ := Option.map_eq_some_iff.mp (window.trans last)
      rfl
    rw [← start]
    rfl

/-- Settles O30. -/
theorem meaStartsAndHaltsMeasurement : Obligations.MeaStartsAndHaltsMeasurement := by
  unfold Obligations.MeaStartsAndHaltsMeasurement
  refine ⟨meaGo_starts, fun s free one regular => ?_⟩
  have run := exec_taken (i := .meaHalt) rfl free (by decide)
  rw [runMea_halt] at run
  by_cases locks : s.svc.survey.state = .armed ∨ s.svc.survey.state = .running
  · rw [if_pos ((surveyLocks_iff (taken .mea s)).mpr locks)] at run
    exact ⟨_, run, by rw [if_pos locks]; exact answer_only _ _ free.inProgress⟩
  rw [if_neg (fun h => locks ((surveyLocks_iff (taken .mea s)).mp h))] at run
  cases measuring : s.svc.measuring with
  | false =>
    rw [if_pos (show ¬ (taken .mea s).svc.measuring = true by rw [show (taken .mea s).svc = s.svc from rfl, measuring]; decide)] at run
    exact ⟨_, run, by rw [if_neg locks, if_pos rfl]; exact answer_only _ _ free.inProgress⟩
  | true =>
    rw [if_neg (show ¬ ¬ (taken .mea s).svc.measuring = true by rw [show (taken .mea s).svc = s.svc from rfl, measuring]; decide)] at run
    obtain ⟨q, isQ⟩ : ∃ q, taken .mea s = q := ⟨_, rfl⟩
    have regularQ : q.evd.Regular := isQ ▸ regular
    obtain ⟨g, gone, tlbB, recordedB, evsB, svcG, whole⟩ := stopBlocks_leaves regularQ
      (by rw [← isQ]; exact fun h => locks (.inl h)) (by rw [← isQ]; exact fun h => locks (.inr h))
    obtain ⟨c, stopped⟩ : ∃ c, stopRecords q = c := ⟨_, rfl⟩
    obtain ⟨b, blocks⟩ : ∃ b, stopBlocks q = b := ⟨_, rfl⟩
    have onlyC : DetectorOnly q c := stopped ▸ stopRecords_detectorOnly q
    have recordedC : Recorded q c := stopped ▸ stopRecords_recorded q
    have queued := offer_queues .mea (measurementPayload false) b
    have others := offer_others .mea (measurementPayload false) b
    have recordedU := offer_recorded .mea (measurementPayload false) b
    rw [isQ, blocks] at run
    rw [stopped, blocks] at whole
    rw [blocks] at tlbB recordedB evsB
    rw [stopped] at gone
    obtain ⟨u, offered⟩ : ∃ u, offer .mea (measurementPayload false) b = u := ⟨_, rfl⟩
    rw [offered] at run queued others recordedU
    have only := answer_others .ok [] u
    have quiet : q.evs.waitingRead = none := by rw [← isQ]; exact one.no_read free.inProgress
    have asked : u.hlk.inProgress = some .mea := by
      rw [((recordedB.trans recordedU).asked quiet).2, ← isQ]
      rfl
    have linkT := answer_link .ok [] u
    have evsT := answer_evs .ok [] u
    obtain ⟨t, result⟩ : ∃ t, answer .ok [] u = t := ⟨_, rfl⟩
    have answered := answer_answered asked .ok []
    rw [result] at run only linkT evsT answered
    have recordedUq := recordedB.trans recordedU
    have wholeT : t = { q with
        cyt := { q.cyt with fnChanged := q.cyt.fnChanged || (q.svc.active.write q.svc.staged).fn != q.svc.active.fn }
        evd := { q.evd with dip := none, swell := none, interruption := none }
        iva := c.haltedIva
        svc := { q.svc with
          measuring := false
          active := q.svc.active.write q.svc.staged
          staged := []
          generation := if q.svc.staged = [] then q.svc.generation else q.svc.generation + 1 }
        evs := t.evs, tlb := b.tlb, tmb := t.tmb, hlk := t.hlk } := by
      have tmbT : t.tmb = u.tmb := by rw [only]
      rw [tmbT, evsT]
      conv_lhs => rw [only, others, whole]
    have svcQ : q.svc = s.svc := isQ ▸ rfl
    have ivaC : c.iva = s.iva := onlyC.iva.trans (isQ ▸ rfl)
    have svcC : c.svc = s.svc := onlyC.svc.trans svcQ
    have readC : reading c = reading s := recordedC.reading.trans (isQ ▸ rfl)
    have frequency : c.iva.haltedFrequency c.svc.active.fn = s.iva.period.map (fun d => Period.value { d with
        reasons := { d.reasons with halt := true } } s.svc.active.fn) := by rw [ivaC, svcC]; rfl
    have held : c.iva.haltHeld (reading c).seconds = s.iva.haltHeld (reading s).seconds := by rw [ivaC, readC]
    have time : haltTime c = match s.iva.interval with
        | some _ => s.iva.lastBoundaryTime.getD (reading s)
        | none => reading s := by
      unfold haltTime
      rw [ivaC, readC] <;> rfl
    have atMark : (s.iva.haltHeld (reading s).seconds).startMark = match s.iva.interval with
        | some i => i.startMark
        | none => (reading s).seconds / 600 * 600 := by
      unfold Iva.haltHeld
      cases s.iva.interval <;> rfl
    refine ⟨t, run, ?_⟩
    rw [if_neg locks, if_neg (fun h => (nomatch h))]
    refine ⟨answered, by rw [wholeT], by rw [wholeT], by rw [wholeT], by rw [wholeT], by rw [wholeT]; rfl, by rw [wholeT]; rfl,
      by rw [wholeT]; rfl, by rw [wholeT]; rfl, by rw [wholeT], by rw [wholeT, svcQ], by rw [wholeT, svcQ], by rw [wholeT, svcQ],
      by rw [wholeT, svcQ], by rw [wholeT, ← isQ]; rfl, by rw [wholeT, ← isQ]; rfl, by rw [wholeT, ← isQ]; rfl,
      by rw [wholeT, ← isQ]; rfl, by rw [wholeT, ← isQ]; rfl, by rw [wholeT, ← isQ]; rfl, by rw [wholeT, ← isQ]; rfl,
      by rw [wholeT, ← isQ]; rfl, ?_, ?_, c, b, c.haltClosed q.evd.openCount, ?_⟩
    · rw [evsT]
      exact recordedUq.medium.trans (isQ ▸ rfl)
    · rw [linkT.1]
      exact recordedUq.settings.trans (isQ ▸ rfl)
    intro f mark l
    have isF : c.iva.haltedFrequency c.svc.active.fn = f := frequency
    have isMark : (c.iva.haltHeld (reading c).seconds).startMark = mark := (congrArg Interval.startMark held).trans atMark
    have isL : c.iva.haltedWindow c.svc.active (haltTime c) mark = l := by
      unfold Iva.haltedWindow
      rw [ivaC, svcC, time] <;> rfl
    have isHeld : c.iva.haltHeld (reading c).seconds =
        s.iva.interval.getD (Interval.begin mark ⟨false, false, false, false, true, false, false⟩) := by
      rw [held]
      unfold Iva.haltHeld
      simp only [mark]
      cases s.iva.interval <;> rfl
    have closed : c.haltClosed q.evd.openCount =
        (s.iva.interval.getD (Interval.begin mark ⟨false, false, false, false, true, false, false⟩)).halted l q.evd.openCount
          s.iva.pendingStep := by
      unfold State.haltClosed
      rw [isMark, isL, isHeld, ivaC]
    have stops : q.evd.openCount = ([s.evd.dip, s.evd.swell, s.evd.interruption].filterMap id).length := by
      rw [← isQ]
      exact congrArg List.length (List.filterMap_map (f := s.evd.context) (g := id) (l := [EventKind.dip, .swell, .interruption])).symm
    have haltedIva : c.haltedIva = { s.iva with
        window := none, period := none, interval := none, latestFrequency := f.or s.iva.latestFrequency
        latestWindow := l.or s.iva.latestWindow, pendingStep := false, resumed := false } := by
      unfold State.haltedIva
      rw [isMark, isL, isF, ivaC]
    obtain ⟨startJ, closesJ, countJ, sumJ, rangeJ, noneJ, someJ⟩ := Interval.halted_eq
      (s.iva.interval.getD (Interval.begin mark ⟨false, false, false, false, true, false, false⟩)) l q.evd.openCount s.iva.pendingStep
    rw [← closed] at startJ closesJ countJ sumJ rangeJ noneJ someJ
    have startHeld : (c.haltClosed q.evd.openCount).startMark = mark := by rw [startJ, ← isHeld, isMark]
    refine ⟨⟨?_, ?_, fun y ended => c.iva.haltedFrequency_invalid _ (isF.trans ended)⟩,
      ⟨recordedC.medium.trans (isQ ▸ rfl), svcC, ivaC, recordedC.quality.trans (isQ ▸ rfl), by rw [← stopped, ← isQ]; rfl⟩,
      ⟨startHeld, by rw [closesJ, stops], countJ, sumJ, rangeJ, noneJ, fun y ended => ?_⟩, ?_⟩
    · rw [wholeT, haltedIva]
    · rw [wholeT, haltedIva]
    · obtain ⟨windows, flagged, marks, phases⟩ := someJ y ended
      refine ⟨windows, flagged, marks, fun p => ?_⟩
      rw [phases, PhaseSums.add_eq] <;> rfl
    · intro x values periodItem windowItem
      have items : c.haltItems = windowItem := haltItems_eq c f l mark periodItem rfl isF isMark isL
      have record : (c.haltClosed q.evd.openCount).record (haltTime c) true c = x := by rw [time] <;> rfl
      have queues := gone.queues
      have bank := gone.bank
      rw [record] at queues bank
      rw [startHeld, items] at bank
      have stateG : g.evs.state = s.evs.state := (gone.recorded.state.trans recordedC.state).trans (isQ ▸ rfl)
      have wholeB : b.svc = t.svc ∧ b.evd = t.evd ∧ b.iva = t.iva ∧ b.tlb = t.tlb := by
        rw [only, others]
        exact ⟨rfl, rfl, rfl, rfl⟩
      obtain ⟨svcB, evdB, ivaB, tlbT⟩ := wholeB
      refine ⟨tlbT.symm.trans (tlbB.trans bank), fun takes => ?_, fun room ready => ?_, ?_, svcB, evdB, ivaB, tlbT⟩
      · obtain ⟨y, queue, -, -, sequence, kind, payload, generation, -⟩ := queues.taken takes
        refine ⟨y, ?_, kind, sequence, payload, generation.trans (congrArg Svc.generation svcC)⟩
        rw [evsB]
        exact applyStaged_keeps_queue (by rw [queue]; exact List.mem_append_right _ (List.mem_singleton.mpr rfl))
      · have takes : recordTaken c = true := (recordTaken_iff c).mpr
          ⟨by rw [recordedC.state, ← isQ]; exact ready, by omega⟩
        obtain ⟨y, queue, -, -, -, kind, -⟩ := queues.taken takes
        have length : g.evs.pwq.length = c.evs.pwq.length + 1 := by rw [queue, List.length_append]; rfl
        obtain ⟨rest, applied, kinds⟩ := applyStaged_queue (s := g) (by omega) (by rw [stateG]; exact ready)
        have form : b.evs.pwq = c.evs.pwq ++ y :: rest := by
          rw [evsB, applied, queue, List.append_assoc]
          rfl
        have drop : b.evs.pwq.drop (c.evs.pwq.length + 1) = rest := by
          rw [form, ← List.drop_drop, List.drop_left]
          rfl
        refine ⟨y, by rw [drop]; exact form, kind, ?_⟩
        rw [drop, kinds, svcG, svcQ]
      · rw [← svcB]
        exact queued.after evsT

end Sys2Proof.Machine
end

section
/-! What a report does to one record: its phase list, its extremes and what it keeps (R33 to R36). -/

namespace Sys2Proof.Machine

/-! ## The phase list -/

/-- The phase list after one phase of a report (R35). -/
def phaseStep (kind : EventKind) (elapsed : Nat) (phases : PerPhase (Option PhaseState)) (r : Report)
    (entries : List PhaseEntry) (p : Phase) : List PhaseEntry :=
  match r.values.get p with
  | none => entries
  | some v =>
    if (phases.get p).any (fun x => x.takesPart kind) then enterPhase kind elapsed entries p v.value
    else leavePhase elapsed entries p

/-- An entry after a report in which its phase has a value (R34, R35). -/
def PhaseEntry.after (kind : EventKind) (elapsed : Nat) (phases : PerPhase (Option PhaseState)) (r : Report)
    (e : PhaseEntry) : PhaseEntry :=
  match r.values.get e.phase with
  | none => e
  | some v =>
    if (phases.get e.phase).any (fun x => x.takesPart kind) then e.entered kind v.value elapsed
    else if e.out then e.ended elapsed else e

/-- A phase joins a list: it takes part with a value and has no entry (R35). -/
def joins (kind : EventKind) (phases : PerPhase (Option PhaseState)) (r : Report) (entries : List PhaseEntry) (p : Phase) : Bool :=
  (r.values.get p).isSome && (phases.get p).any (fun x => x.takesPart kind) && !entries.any (fun e => e.phase == p)

/-- The entry of a phase that joins. -/
def joined (elapsed : Nat) (r : Report) (p : Phase) : PhaseEntry :=
  PhaseEntry.first p (((r.values.get p).map PhaseValue.value).getD 0) elapsed

theorem PhaseEntry.after_phase (kind : EventKind) (elapsed : Nat) (phases : PerPhase (Option PhaseState)) (r : Report)
    (e : PhaseEntry) : (e.after kind elapsed phases r).phase = e.phase := by
  unfold PhaseEntry.after
  split
  · rfl
  · split
    · rfl
    · split <;> rfl

/-- One phase of a report changes its entries, or joins where it has none. -/
theorem phaseStep_eq (kind : EventKind) (elapsed : Nat) (phases : PerPhase (Option PhaseState)) (r : Report)
    (entries : List PhaseEntry) (p : Phase) : phaseStep kind elapsed phases r entries p =
      entries.map (fun e => if e.phase = p then e.after kind elapsed phases r else e) ++
        if joins kind phases r entries p then [joined elapsed r p] else [] := by
  unfold phaseStep joins joined
  cases value : r.values.get p with
  | none =>
    have kept : (fun e : PhaseEntry => if e.phase = p then e.after kind elapsed phases r else e) = id := by
      funext e
      split
      case isTrue same =>
        unfold PhaseEntry.after
        rw [same, value]
        rfl
      case isFalse => rfl
    rw [kept, List.map_id]
    exact (List.append_nil _).symm
  | some v =>
    by_cases takes : (phases.get p).any (fun x => x.takesPart kind) = true
    · have entered : (fun e : PhaseEntry => if e.phase = p then e.after kind elapsed phases r else e) =
          fun e => if e.phase = p then e.entered kind v.value elapsed else e := by
        funext e
        split
        case isTrue same =>
          unfold PhaseEntry.after
          rw [same, value]
          exact if_pos takes
        case isFalse => rfl
      dsimp only
      rw [if_pos takes, entered, takes]
      unfold enterPhase
      cases present : entries.any (fun e => e.phase == p) with
      | true => exact (List.append_nil _).symm
      | false =>
        have absent : entries.map (fun e => if e.phase = p then e.entered kind v.value elapsed else e) = entries := by
          refine (List.map_congr_left fun e member => if_neg fun same => ?_).trans (List.map_id _)
          have found : entries.any (fun e => e.phase == p) = true := List.any_eq_true.mpr ⟨e, member, beq_iff_eq.mpr same⟩
          exact nomatch present.symm.trans found
        rw [absent]
        rfl
    · have left : (fun e : PhaseEntry => if e.phase = p then e.after kind elapsed phases r else e) =
          fun e => if e.phase = p ∧ e.out then e.ended elapsed else e := by
        funext e
        by_cases same : e.phase = p
        · rw [if_pos same]
          unfold PhaseEntry.after
          rw [same, value]
          dsimp only
          rw [if_neg takes]
          exact if_congr ⟨fun out => ⟨rfl, out⟩, And.right⟩ rfl rfl
        · rw [if_neg same, if_neg fun h => same h.1]
      dsimp only
      rw [if_neg takes, left, Bool.eq_false_iff.mpr takes]
      exact (List.append_nil _).symm

/-- The phases of a report in their order change their entries, and those that join stand at the end in that order. -/
theorem foldl_phaseStep (kind : EventKind) (elapsed : Nat) (phases : PerPhase (Option PhaseState)) (r : Report)
    {ps : List Phase} (once : ps.Nodup) (entries : List PhaseEntry) :
    ps.foldl (phaseStep kind elapsed phases r) entries =
      entries.map (fun e => if e.phase ∈ ps then e.after kind elapsed phases r else e) ++
        (ps.filter (joins kind phases r entries)).map (joined elapsed r) := by
  induction ps generalizing entries with
  | nil =>
    have kept : (fun e : PhaseEntry => if e.phase ∈ ([] : List Phase) then e.after kind elapsed phases r else e) = id :=
      funext fun e => if_neg List.not_mem_nil
    rw [kept, List.map_id]
    exact (List.append_nil _).symm
  | cons p rest ih =>
    obtain ⟨new, once⟩ := List.nodup_cons.mp once
    rw [List.foldl_cons, ih once, phaseStep_eq]
    have others : ∀ q, q ∈ rest → joins kind phases r
        (entries.map (fun e => if e.phase = p then e.after kind elapsed phases r else e) ++
          if joins kind phases r entries p then [joined elapsed r p] else []) q = joins kind phases r entries q := by
      intro q member
      have different : (p == q) = false := beq_eq_false_iff_ne.mpr fun same => new (same ▸ member)
      have mapped : (entries.map (fun e => if e.phase = p then e.after kind elapsed phases r else e)).any (fun e => e.phase == q) =
          entries.any (fun e => e.phase == q) := by
        rw [List.any_map]
        refine congrArg (fun f => List.any entries f) (funext fun e => ?_)
        show ((if e.phase = p then e.after kind elapsed phases r else e).phase == q) = _
        split
        · rw [PhaseEntry.after_phase]
        · rfl
      have added : (if joins kind phases r entries p then [joined elapsed r p] else []).any (fun e => e.phase == q) = false := by
        split
        · show ((p == q) || false) = false
          rw [different]
          rfl
        · rfl
      unfold joins at added ⊢
      rw [List.any_append, mapped, added, Bool.or_false]
    have changed : (entries.map (fun e => if e.phase = p then e.after kind elapsed phases r else e)).map
        (fun e => if e.phase ∈ rest then e.after kind elapsed phases r else e) =
        entries.map (fun e => if e.phase ∈ p :: rest then e.after kind elapsed phases r else e) := by
      rw [List.map_map]
      refine List.map_congr_left fun e _ => ?_
      dsimp only [Function.comp]
      by_cases same : e.phase = p
      · have listed : e.phase ∈ p :: rest := same ▸ List.mem_cons_self ..
        have later : e.phase ∉ rest := same ▸ new
        simp only [if_pos same, PhaseEntry.after_phase, if_neg later, if_pos listed]
      · simp only [if_neg same]
        exact if_congr ⟨List.mem_cons_of_mem p, fun h => (List.mem_cons.mp h).resolve_left same⟩ rfl rfl
    rw [List.filter_congr others, List.map_append, changed, List.append_assoc, List.filter_cons]
    congr 1
    split
    · show (if p ∈ rest then _ else joined elapsed r p) :: _ = _
      rw [if_neg new]
      rfl
    · rfl

/-! ## One record -/

/-- A report leaves all of a record but its extremes, its phase list and two marks. -/
theorem Context.progress_others (c : Context) (phases : PerPhase (Option PhaseState)) (r : Report) :
    c.progress phases r = { c with
      extreme := (c.progress phases r).extreme
      chainExtreme := (c.progress phases r).chainExtreme
      phases := allPhases.foldl (phaseStep c.kind c.elapsed phases r) c.phases
      marks := c.marks.withReport r } := by
  have step : ∀ (d : Context) (p : Phase), d.progressPhase phases r p = { d with
      extreme := (d.progressPhase phases r p).extreme
      chainExtreme := (d.progressPhase phases r p).chainExtreme
      phases := phaseStep d.kind d.elapsed phases r d.phases p } := by
    intro d p
    unfold Context.progressPhase phaseStep
    cases r.values.get p with
    | none => rfl
    | some v =>
      dsimp only
      split <;> rfl
  have fold : ∀ (ps : List Phase) (d : Context), ps.foldl (Context.progressPhase phases r) d = { d with
      extreme := (ps.foldl (Context.progressPhase phases r) d).extreme
      chainExtreme := (ps.foldl (Context.progressPhase phases r) d).chainExtreme
      phases := ps.foldl (phaseStep d.kind d.elapsed phases r) d.phases } := by
    intro ps
    induction ps with
    | nil => exact fun _ => rfl
    | cons p rest ih =>
      intro d
      have next := step d p
      rw [List.foldl_cons, List.foldl_cons]
      obtain ⟨x, name⟩ : ∃ x, d.progressPhase phases r p = x := ⟨_, rfl⟩
      rw [name] at next ⊢
      have kind : x.kind = d.kind := by rw [next]
      have elapsed : x.elapsed = d.elapsed := by rw [next]
      have list : x.phases = phaseStep d.kind d.elapsed phases r d.phases p := by rw [next]
      have later := ih x
      rw [kind, elapsed, list] at later
      obtain ⟨y, last⟩ : ∃ y, rest.foldl (Context.progressPhase phases r) x = y := ⟨_, rfl⟩
      rw [last] at later ⊢
      rw [next] at later
      exact later
  unfold Context.progress
  dsimp only
  conv_lhs => rw [fold allPhases c]

/-- The phase list of a record after a report (R35). -/
theorem Context.progress_phases (c : Context) (phases : PerPhase (Option PhaseState)) (r : Report) :
    (c.progress phases r).phases = c.phases.map (fun e => e.after c.kind c.elapsed phases r) ++
      (allPhases.filter (joins c.kind phases r c.phases)).map (joined c.elapsed r) := by
  have list := foldl_phaseStep c.kind c.elapsed phases r (ps := allPhases) (by decide) c.phases
  have every : (fun e : PhaseEntry => if e.phase ∈ allPhases then e.after c.kind c.elapsed phases r else e) =
      fun e => e.after c.kind c.elapsed phases r := funext fun e => if_pos (mem_allPhases e.phase)
  rw [every] at list
  rw [← list, Context.progress_others]

/-- The record with other counts of contained records (R32). -/
def Context.withContained (c d : Context) : Context :=
  { c with containedCount := d.containedCount, firstContained := d.firstContained, chainContained := d.chainContained }

/-- A report takes no notice of the contained records. -/
theorem Context.progress_withContained (c d : Context) (phases : PerPhase (Option PhaseState)) (r : Report) :
    (c.withContained d).progress phases r = (c.progress phases r).withContained d := by
  have left := (c.withContained d).progress_others phases r
  obtain ⟨extremeL, chainL⟩ := progress_extremes (c.withContained d) phases r
  have right := c.progress_others phases r
  obtain ⟨extremeR, chainR⟩ := progress_extremes c phases r
  rw [left, right, extremeL, chainL, extremeR, chainR]
  rfl

theorem Context.withContained_self (c : Context) : c.withContained c = c := rfl

theorem Context.containing_eq (c : Context) (number : BitVec 32) : c.containing number = c.withContained (c.containing number) := rfl

/-- The extremes of a record after a report depend on its kind and on the extremes held alone. -/
theorem Context.progress_extremes_congr {c d : Context} (kind : d.kind = c.kind) (extreme : d.extreme = c.extreme)
    (chain : d.chainExtreme = c.chainExtreme) (phases : PerPhase (Option PhaseState)) (r : Report) :
    (d.progress phases r).extreme = (c.progress phases r).extreme ∧
    (d.progress phases r).chainExtreme = (c.progress phases r).chainExtreme := by
  obtain ⟨extremeD, chainD⟩ := progress_extremes d phases r
  obtain ⟨extremeC, chainC⟩ := progress_extremes c phases r
  rw [extremeD, chainD, extremeC, chainC, kind, extreme, chain]
  exact ⟨rfl, rfl⟩

/-! ## Taking part -/

/-- A phase takes part by the state that a report leaves it only with a value in that report (R28). -/
theorem phasesAfter_isSome (phases : PerPhase (Option PhaseState)) (set : Settings) (r : Report) (p : Phase) :
    ((phasesAfter phases set r).get p).isSome = (r.values.get p).isSome := by
  unfold phasesAfter
  rw [PerPhase.build_get, Option.isSome_map]

theorem mem_takingPart {phases : PerPhase (Option PhaseState)} {kind : EventKind} {p : Phase} :
    p ∈ takingPart phases kind ↔ (phases.get p).any (fun x => x.takesPart kind) = true := by
  unfold takingPart
  rw [List.mem_filter]
  exact ⟨And.right, fun h => ⟨mem_allPhases p, h⟩⟩

theorem takingPart_value {before : PerPhase (Option PhaseState)} {set : Settings} {r : Report} {kind : EventKind} {p : Phase}
    (takes : p ∈ takingPart (phasesAfter before set r) kind) : ∃ v, r.values.get p = some v := by
  have any := mem_takingPart.mp takes
  have some' := phasesAfter_isSome before set r p
  cases state : (phasesAfter before set r).get p with
  | none =>
    rw [state] at any
    exact nomatch any
  | some x =>
    rw [state] at some'
    exact Option.isSome_iff_exists.mp some'.symm

/-- The condition of a kind holds only while some phase takes part (R29). -/
theorem takingPart_of_condition {phases : PerPhase (Option PhaseState)} {kind : EventKind}
    (holds : conditionHolds phases kind = true) : takingPart phases kind ≠ [] := by
  cases kind with
  | dip => exact bne_iff_ne.mp holds
  | swell => exact bne_iff_ne.mp holds
  | interruption =>
    obtain ⟨some', all⟩ := Bool.and_eq_true_iff.mp holds
    obtain ⟨x, member⟩ := List.exists_mem_of_ne_nil _ (bne_iff_ne.mp some')
    obtain ⟨p, state⟩ := mem_presentValues.mp member
    have flagged := List.all_eq_true.mp all x member
    refine List.ne_nil_of_mem (a := p) (mem_takingPart.mpr ?_)
    rw [state]
    exact flagged

end Sys2Proof.Machine
end

section
/-! The records that a report closes, opens and splits, one kind after the other (R25, R29, R31, R32, R41). -/

namespace Sys2Proof.Machine

/-! ## Steps of which at most one acts -/

theorem foldl_rests {α : Type} {f : State → α → State} {s : State} {xs : List α} (rests : ∀ x ∈ xs, f s x = s) :
    xs.foldl f s = s := by
  induction xs with
  | nil => rfl
  | cons x rest ih =>
    rw [List.foldl_cons, rests x (List.mem_cons_self ..)]
    exact ih fun y member => rests y (List.mem_cons_of_mem x member)

theorem foldl_single {α : Type} {f : State → α → State} {s : State} {a : α} {xs : List α} (once : xs.Nodup) (member : a ∈ xs)
    (before : ∀ x, x ≠ a → f s x = s) (after : ∀ x, x ≠ a → f (f s a) x = f s a) : xs.foldl f s = f s a := by
  obtain ⟨first, last, rfl⟩ := List.append_of_mem member
  obtain ⟨-, tail, apart⟩ := List.nodup_append.mp once
  obtain ⟨new, -⟩ := List.nodup_cons.mp tail
  rw [List.foldl_append, List.foldl_cons,
    foldl_rests fun x early => before x (apart x early a (List.mem_cons_self ..))]
  exact foldl_rests fun x late => after x fun same => new (same ▸ late)

/-! ## The kinds of the records -/

/-- Every open record is of the kind that it is open for. -/
def Evd.Kinds (e : Evd) : Prop := ∀ k c, e.context k = some c → c.kind = k

theorem Evd.Kinds.setContext {e : Evd} (x : e.Kinds) {kind : EventKind} {c : Option Context}
    (fits : ∀ d, c = some d → d.kind = kind) : (e.setContext kind c).Kinds := by
  intro k d held
  by_cases same : k = kind
  · subst same
    rw [Evd.setContext_context_same] at held
    exact fits d held
  · rw [Evd.setContext_context_other e c same] at held
    exact x k d held

theorem Evd.setContext_none {e : Evd} {kind : EventKind} (absent : e.context kind = none) : e.setContext kind none = e := by
  cases kind
  all_goals
    simp only [Evd.context] at absent
    simp only [Evd.setContext, ← absent]

/-! ## The report begins -/

theorem reportTicks_eq (e : Evd) (r : Report) (span : Nat) : reportTicks e r span =
    if e.resumed then span else (e.lastBoundary.map (fun b => tickSpan b.tick r.tick)).getD 0 := by
  unfold reportTicks
  cases e.lastBoundary <;> rfl

theorem reportBegins_context (r : Report) (span : Nat) (s : State) (k : EventKind) : (reportBegins r span s).evd.context k =
    (s.evd.context k).map (fun c => c.advance r (reportTicks s.evd r span) s.evd.resumed) := by
  cases k <;> rfl

theorem reportBegins_kinds (r : Report) (span : Nat) {s : State} (kinds : s.evd.Kinds) : (reportBegins r span s).evd.Kinds := by
  intro k c held
  rw [reportBegins_context] at held
  obtain ⟨d, was, rfl⟩ := Option.map_eq_some_iff.mp held
  exact kinds k d was

/-! ## Closing -/

/-- A record as its condition ends (R35, R36). -/
def Context.ending (c : Context) (r : Report) : Context :=
  { c with phases := c.phases.map (fun e => e.ended c.elapsed), marks := c.marks.withReport r }

theorem closeEnded_rests {phases : PerPhase (Option PhaseState)} {r : Report} {cause : CloseCause} {s : State} {kind : EventKind}
    (holds : ∀ c, s.evd.context kind = some c → conditionHolds phases kind = true) : closeEnded phases r cause s kind = s := by
  unfold closeEnded
  split
  case h_1 c held => exact if_pos (holds c held)
  case h_2 => rfl

theorem closeEnded_closes {phases : PerPhase (Option PhaseState)} {s : State} {kind : EventKind} {c : Context}
    (held : s.evd.context kind = some c) (ends : conditionHolds phases kind = false) (r : Report) (cause : CloseCause) :
    closeEnded phases r cause s kind = closeRecord (c.ending r) ⟨cause, r.time⟩ s := by
  unfold closeEnded
  rw [held]
  dsimp only
  rw [ends]
  rfl

theorem closeEnded_evd {s : State} (kinds : s.evd.Kinds) (phases : PerPhase (Option PhaseState)) (r : Report) (cause : CloseCause)
    (kind : EventKind) : (closeEnded phases r cause s kind).evd =
      if conditionHolds phases kind then s.evd else s.evd.setContext kind none := by
  cases holds : conditionHolds phases kind with
  | true => rw [closeEnded_rests fun _ _ => holds]; rfl
  | false =>
    cases held : s.evd.context kind with
    | none =>
      rw [closeEnded_rests fun c h => nomatch held.symm.trans h]
      exact (Evd.setContext_none held).symm
    | some c =>
      rw [closeEnded_closes held holds, closeRecord_evd]
      show s.evd.setContext c.kind none = _
      rw [kinds kind c held]
      rfl

theorem foldl_closeEnded_evd (phases : PerPhase (Option PhaseState)) (r : Report) (cause : CloseCause) (ks : List EventKind)
    {s : State} (kinds : s.evd.Kinds) :
    (ks.foldl (closeEnded phases r cause) s).evd.Kinds ∧
    (ks.foldl (closeEnded phases r cause) s).evd.counter = s.evd.counter ∧
    ∀ j, (ks.foldl (closeEnded phases r cause) s).evd.context j =
      if j ∈ ks ∧ conditionHolds phases j = false then none else s.evd.context j := by
  induction ks generalizing s with
  | nil => exact ⟨kinds, rfl, fun j => (if_neg fun h => List.not_mem_nil h.1).symm⟩
  | cons k rest ih =>
    have first := closeEnded_evd kinds phases r cause k
    obtain ⟨t, name⟩ : ∃ t, closeEnded phases r cause s k = t := ⟨_, rfl⟩
    rw [List.foldl_cons, name]
    rw [name] at first
    cases holds : conditionHolds phases k with
    | true =>
      rw [holds] at first
      have same : t.evd = s.evd := first
      obtain ⟨later, counter, contexts⟩ := ih (s := t) (by rw [same]; exact kinds)
      refine ⟨later, by rw [counter, same], fun j => ?_⟩
      rw [contexts j, same]
      refine if_congr ⟨fun h => ⟨List.mem_cons_of_mem k h.1, h.2⟩, fun h => ⟨?_, h.2⟩⟩ rfl rfl
      refine (List.mem_cons.mp h.1).resolve_left fun same => ?_
      rw [same, holds] at h
      exact nomatch h.2
    | false =>
      rw [holds] at first
      have gone : t.evd = s.evd.setContext k none := first
      obtain ⟨later, counter, contexts⟩ := ih (s := t) (by
        rw [gone]
        exact kinds.setContext fun _ h => nomatch h)
      refine ⟨later, by rw [counter, gone, Evd.setContext_counter], fun j => ?_⟩
      rw [contexts j, gone]
      by_cases same : j = k
      · subst same
        rw [Evd.setContext_context_same, if_pos (c := j ∈ j :: rest ∧ _) ⟨List.mem_cons_self .., holds⟩]
        exact ite_self _
      · rw [Evd.setContext_context_other _ _ same]
        exact if_congr ⟨fun h => ⟨List.mem_cons_of_mem k h.1, h.2⟩,
          fun h => ⟨(List.mem_cons.mp h.1).resolve_left same, h.2⟩⟩ rfl rfl

theorem EventKind.mem_closingOrder (k : EventKind) : k ∈ [EventKind.interruption, .dip, .swell] := by cases k <;> decide

theorem EventKind.mem_order (k : EventKind) : k ∈ [EventKind.dip, .swell, .interruption] := by cases k <;> decide

/-- The closes of a report leave the records whose condition holds (R29). -/
theorem reportCloses_evd (r : Report) (span : Nat) {s : State} (kinds : s.evd.Kinds) :
    (reportCloses r span s).evd.Kinds ∧ (reportCloses r span s).evd.counter = s.evd.counter ∧
    ∀ j, (reportCloses r span s).evd.context j = if conditionHolds (s.phasesAt r) j then
      (s.evd.context j).map (fun c => c.advance r (reportTicks s.evd r span) s.evd.resumed) else none := by
  obtain ⟨later, counter, contexts⟩ := foldl_closeEnded_evd (s.phasesAt r) r
    (if s.evd.resumed then CloseCause.resume else .ended) [EventKind.interruption, .dip, .swell] (reportBegins_kinds r span kinds)
  refine ⟨later, counter, fun j => (contexts j).trans ?_⟩
  rw [reportBegins_context]
  cases holds : conditionHolds (s.phasesAt r) j with
  | true => exact if_neg fun h => nomatch h.2
  | false => exact if_pos ⟨j.mem_closingOrder, rfl⟩

/-- Where every open record's condition holds, a report closes none. -/
theorem reportCloses_rests {r : Report} {s : State}
    (holds : ∀ k c, s.evd.context k = some c → conditionHolds (s.phasesAt r) k = true) (span : Nat) :
    reportCloses r span s = reportBegins r span s := by
  refine foldl_rests fun k _ => closeEnded_rests fun c held => ?_
  rw [reportBegins_context] at held
  obtain ⟨d, was, -⟩ := Option.map_eq_some_iff.mp held
  exact holds k d was

/-! ## Opening -/

/-- The condition of a kind begins: it holds and the kind has no open record (R29). -/
def Evd.begins (e : Evd) (phases : PerPhase (Option PhaseState)) (k : EventKind) : Bool :=
  (e.context k).isNone && conditionHolds phases k

theorem openHolding_eq (phases : PerPhase (Option PhaseState)) (r : Report) (s : State) (kind : EventKind) :
    openHolding phases r s kind = if s.evd.begins phases kind then openRecord kind phases r s else s := by
  unfold openHolding Evd.begins
  cases s.evd.context kind <;> rfl

/-- The detector as a record opens (R31, R32). -/
def Evd.opens (e : Evd) (kind : EventKind) (r : Report) : Evd :=
  let placed := { e with counter := e.counter + 1 }.setContext kind (some (Context.opening kind (e.counter + 1) r))
  if kind = .interruption then { placed with dip := placed.dip.map (fun d => d.containing (e.counter + 1)) } else placed

theorem openRecord_eq (kind : EventKind) (phases : PerPhase (Option PhaseState)) (r : Report) (s : State) :
    openRecord kind phases r s =
      postOpen (Context.opening kind (s.evd.counter + 1) r) phases { s with evd := s.evd.opens kind r } := by
  unfold openRecord
  dsimp only
  refine congrArg (postOpen _ phases) ?_
  cases kind <;> rfl

theorem openRecord_evd (kind : EventKind) (phases : PerPhase (Option PhaseState)) (r : Report) (s : State) :
    (openRecord kind phases r s).evd = s.evd.opens kind r := by
  rw [openRecord_eq]
  unfold postOpen
  rw [postNotice_others]

theorem Evd.opens_counter (e : Evd) (kind : EventKind) (r : Report) : (e.opens kind r).counter = e.counter + 1 := by
  cases kind <;> rfl

theorem Evd.opens_same (e : Evd) (kind : EventKind) (r : Report) :
    (e.opens kind r).context kind = some (Context.opening kind (e.counter + 1) r) := by
  cases kind <;> rfl

/-- One record goes on as another but for what it has contained (R32); exactly so where it cannot be told of any. -/
structure Carried (untold : Prop) (x y : Option Context) : Prop where
  kept : ∀ c, x = some c → ∃ d, y = some (c.withContained d)
  absent : x = none → y = none
  exact' : untold → y = x

theorem Carried.refl (p : Prop) (x : Option Context) : Carried p x x :=
  ⟨fun c h => ⟨c, h⟩, id, fun _ => rfl⟩

theorem Carried.trans {p q w : Prop} {x y z : Option Context} (h : Carried p x y) (k : Carried q y z) (first : w → p)
    (second : w → q) : Carried w x z where
  kept := fun c held => by
    obtain ⟨d, is⟩ := h.kept c held
    obtain ⟨f, next⟩ := k.kept _ is
    exact ⟨f, next⟩
  absent := fun none' => k.absent (h.absent none')
  exact' := fun w => (k.exact' (second w)).trans (h.exact' (first w))

theorem Evd.opens_other (e : Evd) {kind j : EventKind} (r : Report) (other : j ≠ kind) :
    Carried (j ≠ .dip ∨ kind ≠ .interruption) (e.context j) ((e.opens kind r).context j) := by
  by_cases told : kind = .interruption ∧ j = .dip
  · obtain ⟨rfl, rfl⟩ := told
    refine ⟨fun c held => ⟨c.containing (e.counter + 1), ?_⟩, fun none' => ?_, fun h => h.elim (absurd rfl) (absurd rfl)⟩
    · exact congrArg (Option.map (fun d : Context => d.containing (e.counter + 1))) held
    · exact congrArg (Option.map (fun d : Context => d.containing (e.counter + 1))) none'
  · have same : (e.opens kind r).context j = e.context j := by
      cases kind with
      | dip => exact Evd.setContext_context_other _ _ other
      | swell => exact Evd.setContext_context_other _ _ other
      | interruption =>
        cases j with
        | dip => exact absurd ⟨rfl, rfl⟩ told
        | swell => rfl
        | interruption => exact absurd rfl other
    rw [same]
    exact Carried.refl _ _

theorem Evd.opens_kinds {e : Evd} (kinds : e.Kinds) (kind : EventKind) (r : Report) : (e.opens kind r).Kinds := by
  intro k c held
  by_cases same : k = kind
  · subst same
    rw [Evd.opens_same] at held
    cases held
    rfl
  · have carried := e.opens_other r same
    cases was : e.context k with
    | none => exact nomatch (carried.absent was).symm.trans held
    | some d =>
      obtain ⟨x, is⟩ := carried.kept d was
      rw [is] at held
      cases held
      exact kinds k d was

theorem Evd.opens_begins (e : Evd) {kind j : EventKind} (r : Report) (other : j ≠ kind) (phases : PerPhase (Option PhaseState)) :
    (e.opens kind r).begins phases j = e.begins phases j := by
  have carried := e.opens_other r other
  unfold Evd.begins
  cases was : e.context j with
  | none => rw [carried.absent was]
  | some d =>
    obtain ⟨x, is⟩ := carried.kept d was
    rw [is]
    rfl

/-- The records that a report opens for some kinds, and those that it keeps (R31, R32, R46). -/
structure Opened (phases : PerPhase (Option PhaseState)) (r : Report) (ks : List EventKind) (e f : Evd) : Prop where
  kinds : e.Kinds → f.Kinds
  counter : f.counter = e.counter + BitVec.ofNat 32 (ks.filter (e.begins phases)).length
  kept : ∀ j, j ∉ ks.filter (e.begins phases) →
    Carried (j ≠ .dip ∨ .interruption ∉ ks.filter (e.begins phases)) (e.context j) (f.context j)
  begun : ∀ n k, (ks.filter (e.begins phases))[n]? = some k →
    Carried (k ≠ .dip ∨ .interruption ∉ ks.filter (e.begins phases))
      (some (Context.opening k (e.counter + BitVec.ofNat 32 (n + 1)) r)) (f.context k)

theorem BitVec.add_one_add_ofNat {w : Nat} (x : BitVec w) (n : Nat) : x + 1 + BitVec.ofNat w n = x + BitVec.ofNat w (n + 1) := by
  rw [BitVec.add_assoc, Nat.add_comm n 1, BitVec.ofNat_add]
  rfl

theorem foldl_openHolding_evd (phases : PerPhase (Option PhaseState)) (r : Report) {ks : List EventKind} (once : ks.Nodup)
    (s : State) : Opened phases r ks s.evd (ks.foldl (openHolding phases r) s).evd := by
  induction ks generalizing s with
  | nil => exact ⟨id, (BitVec.add_zero _).symm, fun j _ => Carried.refl _ _, fun n k h => nomatch h⟩
  | cons k rest ih =>
    obtain ⟨new, once⟩ := List.nodup_cons.mp once
    rw [List.foldl_cons, openHolding_eq]
    cases begins : s.evd.begins phases k with
    | false =>
      have filter : (k :: rest).filter (s.evd.begins phases) = rest.filter (s.evd.begins phases) := List.filter_cons_of_neg (by
        rw [begins]
        exact Bool.false_ne_true)
      have later := ih once s
      exact ⟨later.kinds, by rw [filter]; exact later.counter, by rw [filter]; exact later.kept, by rw [filter]; exact later.begun⟩
    | true =>
      rw [if_pos rfl]
      have evd := openRecord_evd k phases r s
      obtain ⟨t, name⟩ : ∃ t, openRecord k phases r s = t := ⟨_, rfl⟩
      rw [name] at evd ⊢
      have later := ih once t
      rw [evd] at later
      have other : ∀ j, j ∈ rest → j ≠ k := fun j member same => new (same ▸ member)
      have same : rest.filter ((s.evd.opens k r).begins phases) = rest.filter (s.evd.begins phases) :=
        List.filter_congr fun j member => s.evd.opens_begins r (other j member) phases
      have filter : (k :: rest).filter (s.evd.begins phases) = k :: rest.filter (s.evd.begins phases) :=
        List.filter_cons_of_pos begins
      have unopened : k ∉ rest.filter (s.evd.begins phases) := fun h => new (List.mem_filter.mp h).1
      obtain ⟨kinds, counter, kept, begun⟩ := later
      rw [same] at counter kept begun
      rw [Evd.opens_counter] at counter begun
      have untold : ∀ j : EventKind, (j ≠ .dip ∨ .interruption ∉ k :: rest.filter (s.evd.begins phases)) →
          (j ≠ .dip ∨ .interruption ∉ rest.filter (s.evd.begins phases)) :=
        fun j h => h.imp_right fun out inside => out (List.mem_cons_of_mem k inside)
      refine ⟨fun x => kinds (Evd.opens_kinds x k r), ?_, ?_, ?_⟩
      all_goals rw [filter]
      · rw [counter, List.length_cons, BitVec.add_one_add_ofNat]
      · intro j out
        have other : j ≠ k := fun same => out (same ▸ List.mem_cons_self ..)
        exact (s.evd.opens_other r other).trans (kept j fun inside => out (List.mem_cons_of_mem k inside))
          (Or.imp_right fun out same => out (same ▸ List.mem_cons_self ..)) (untold j)
      · intro n j at'
        cases n with
        | zero =>
          cases at'
          have carried := kept k unopened
          rw [Evd.opens_same] at carried
          exact carried.trans (Carried.refl True _) (untold k) fun _ => trivial
        | succ n =>
          have carried := begun n j at'
          rw [BitVec.add_one_add_ofNat] at carried
          exact carried.trans (Carried.refl True _) (untold j) fun _ => trivial

/-- An opening leaves all but the detector and the link. -/
theorem openRecord_others (kind : EventKind) (phases : PerPhase (Option PhaseState)) (r : Report) (s : State) :
    openRecord kind phases r s = { s with evd := s.evd.opens kind r, hlk := (openRecord kind phases r s).hlk } := by
  rw [openRecord_eq]
  unfold postOpen
  conv_lhs => rw [postNotice_others]

theorem foldl_openHolding_others (phases : PerPhase (Option PhaseState)) (r : Report) (ks : List EventKind) (s : State) :
    ks.foldl (openHolding phases r) s = { s with
      evd := (ks.foldl (openHolding phases r) s).evd, hlk := (ks.foldl (openHolding phases r) s).hlk } := by
  induction ks generalizing s with
  | nil => rfl
  | cons k rest ih =>
    have first : openHolding phases r s k = { s with evd := (openHolding phases r s k).evd, hlk := (openHolding phases r s k).hlk } := by
      rw [openHolding_eq]
      split
      · have others := openRecord_others k phases r s
        obtain ⟨t, name⟩ : ∃ t, openRecord k phases r s = t := ⟨_, rfl⟩
        rw [name] at others ⊢
        rw [others]
      · rfl
    obtain ⟨t, name⟩ : ∃ t, openHolding phases r s k = t := ⟨_, rfl⟩
    rw [name] at first
    rw [List.foldl_cons, name]
    have later := ih t
    obtain ⟨u, last⟩ : ∃ u, rest.foldl (openHolding phases r) t = u := ⟨_, rfl⟩
    rw [last] at later ⊢
    rw [first] at later
    exact later

/-- The notice of a record that opens (R51). -/
def openNotice (phases : PerPhase (Option PhaseState)) (r : Report) (kind : EventKind) (number : BitVec 32) : Notice :=
  ⟨.evo, [kind.text, num number.toNat, [], timeText r.time, phaseSetText (takingPart phases kind)]⟩

theorem openRecord_tells {s : State} {phases : PerPhase (Option PhaseState)} (kind : EventKind) (r : Report)
    (admitted : s.hlk.settings.mask.evo = true) (busy : s.hlk.transmitter ≠ .idle) (room : s.hlk.notices.length < 16) :
    (openRecord kind phases r s).hlk =
      { s.hlk with notices := s.hlk.notices ++ [openNotice phases r kind (s.evd.counter + 1)] } := by
  rw [openRecord_eq]
  unfold postOpen
  rw [postNotice_queued (by exact admitted) (by exact room) (by exact busy)]
  rfl

/-- The notices of the records that a report opens for some kinds. -/
def openNotices (phases : PerPhase (Option PhaseState)) (r : Report) (e : Evd) (ks : List EventKind) : List Notice :=
  (ks.filter (e.begins phases)).mapIdx fun n k => openNotice phases r k (e.counter + BitVec.ofNat 32 (n + 1))

/-- With room and a busy transmitter a report's opening notices join the queue in their order. -/
theorem foldl_openHolding_tells (phases : PerPhase (Option PhaseState)) (r : Report) {ks : List EventKind} (once : ks.Nodup)
    {s : State} (admitted : s.hlk.settings.mask.evo = true) (busy : s.hlk.transmitter ≠ .idle)
    (room : s.hlk.notices.length + (ks.filter (s.evd.begins phases)).length ≤ 16) :
    (ks.foldl (openHolding phases r) s).hlk =
      { s.hlk with notices := s.hlk.notices ++ openNotices phases r s.evd ks } := by
  unfold openNotices
  induction ks generalizing s with
  | nil => rw [List.filter_nil, List.mapIdx_nil, List.append_nil]; rfl
  | cons k rest ih =>
    obtain ⟨new, once⟩ := List.nodup_cons.mp once
    rw [List.foldl_cons, openHolding_eq]
    cases begins : s.evd.begins phases k with
    | false =>
      rw [List.filter_cons_of_neg (by rw [begins]; exact Bool.false_ne_true)] at room ⊢
      exact ih once admitted busy room
    | true =>
      rw [if_pos rfl]
      rw [List.filter_cons_of_pos begins] at room ⊢
      rw [List.length_cons] at room
      have evd := openRecord_evd k phases r s
      have link := openRecord_tells k r (phases := phases) admitted busy (by omega)
      obtain ⟨t, name⟩ : ∃ t, openRecord k phases r s = t := ⟨_, rfl⟩
      rw [name] at evd link ⊢
      have other : ∀ j, j ∈ rest → j ≠ k := fun j member same => new (same ▸ member)
      have same : rest.filter (t.evd.begins phases) = rest.filter (s.evd.begins phases) :=
        List.filter_congr fun j member => by
          rw [evd]
          exact s.evd.opens_begins r (other j member) phases
      have later := ih once (s := t) (by rw [link]; exact admitted) (by rw [link]; exact busy) (by
        rw [same, link, List.length_append, List.length_singleton]
        omega)
      rw [later, same, link, evd, Evd.opens_counter, List.mapIdx_cons]
      have shifted : (fun (n : Nat) (j : EventKind) => openNotice phases r j (s.evd.counter + 1 + BitVec.ofNat 32 (n + 1))) =
          fun n j => openNotice phases r j (s.evd.counter + BitVec.ofNat 32 (n + 1 + 1)) := by
        funext n j
        rw [BitVec.add_one_add_ofNat]
      rw [shifted, List.append_assoc]
      rfl

end Sys2Proof.Machine
end

section
/-! The records of a report from its beginning to its end (R25, R33, R41, R42). -/

namespace Sys2Proof.Machine

/-! ## The record limit -/

theorem limitRecord_rests {phases : PerPhase (Option PhaseState)} {r : Report} {s : State} {kind : EventKind}
    (short : ∀ c, s.evd.context kind = some c → c.elapsed < s.svc.active.lmax * 32768) : limitRecord phases r s kind = s := by
  unfold limitRecord
  split
  case h_1 c held => exact if_neg (Nat.not_le.mpr (short c held))
  case h_2 => rfl

/-- The record that continues from one at its limit (R41, R42). -/
def Evd.continues (e : Evd) (c : Context) (phases : PerPhase (Option PhaseState)) (r : Report) : Context :=
  c.continuation (e.counter + 1) phases r (if c.kind = .dip then e.interruption.map Context.number else none)

theorem Evd.continues_kind (e : Evd) (c : Context) (phases : PerPhase (Option PhaseState)) (r : Report) :
    (e.continues c phases r).kind = c.kind := Context.progress_kind _ _ _

theorem limitRecord_splits {s : State} {kind : EventKind} {c : Context} (held : s.evd.context kind = some c)
    (ofKind : c.kind = kind) (full : s.svc.active.lmax * 32768 ≤ c.elapsed) (phases : PerPhase (Option PhaseState)) (r : Report) :
    limitRecord phases r s kind = postOpen (s.evd.continues c phases r) phases (setContext kind
      (some (s.evd.continues c phases r)) (issueNumber (closeRecord c ⟨.limit, r.time⟩ s))) := by
  have closed := closeRecord_evd c ⟨.limit, r.time⟩ s
  obtain ⟨t, name⟩ : ∃ t, closeRecord c ⟨.limit, r.time⟩ s = t := ⟨_, rfl⟩
  have counter : (issueNumber t).evd.counter = s.evd.counter + 1 := by
    show t.evd.counter + 1 = _
    rw [← name, closed, Evd.setContext_counter]
  have contained : (if kind = .dip then (issueNumber t).evd.interruption.map Context.number else none) =
      if c.kind = .dip then s.evd.interruption.map Context.number else none := by
    rw [ofKind]
    by_cases dip : kind = .dip
    · rw [if_pos dip, if_pos dip]
      have other := Evd.setContext_context_other s.evd (k := c.kind) (j := .interruption) none (by rw [ofKind, dip]; nofun)
      show t.evd.interruption.map _ = _
      rw [← name, closed]
      exact congrArg (Option.map Context.number) other
    · rw [if_neg dip, if_neg dip]
  unfold limitRecord
  rw [held]
  dsimp only
  rw [if_pos full, name]
  unfold Evd.continues
  rw [← counter, ← contained]

theorem limitRecord_split_evd {s : State} {kind : EventKind} {c : Context} (held : s.evd.context kind = some c)
    (ofKind : c.kind = kind) (full : s.svc.active.lmax * 32768 ≤ c.elapsed) (phases : PerPhase (Option PhaseState)) (r : Report) :
    (limitRecord phases r s kind).evd =
      { s.evd with counter := s.evd.counter + 1 }.setContext kind (some (s.evd.continues c phases r)) := by
  have closed := closeRecord_evd c ⟨.limit, r.time⟩ s
  rw [limitRecord_splits held ofKind full]
  unfold postOpen
  rw [postNotice_others]
  show ({ (closeRecord c ⟨.limit, r.time⟩ s).evd with
    counter := (closeRecord c ⟨.limit, r.time⟩ s).evd.counter + 1 } : Evd).setContext kind _ = _
  rw [closed, ofKind]
  cases kind <;> rfl

/-- One kind's limit leaves a record open for every kind that has one, and the records of the other kinds as they are. -/
theorem limitRecord_evd {s : State} (kinds : s.evd.Kinds) (phases : PerPhase (Option PhaseState)) (r : Report) (kind : EventKind) :
    (limitRecord phases r s kind).evd.Kinds ∧
    (∀ j, ((limitRecord phases r s kind).evd.context j).isSome = (s.evd.context j).isSome) ∧
    ∀ j, j ≠ kind → (limitRecord phases r s kind).evd.context j = s.evd.context j := by
  by_cases short : ∀ c, s.evd.context kind = some c → c.elapsed < s.svc.active.lmax * 32768
  · rw [limitRecord_rests short]
    exact ⟨kinds, fun _ => rfl, fun _ _ => rfl⟩
  · obtain ⟨c, held, full⟩ : ∃ c, s.evd.context kind = some c ∧ s.svc.active.lmax * 32768 ≤ c.elapsed := by
      simpa only [not_forall, Nat.not_lt, exists_prop] using short
    rw [limitRecord_split_evd held (kinds kind c held) full]
    have issued : ({ s.evd with counter := s.evd.counter + 1 } : Evd).Kinds := fun k d was => kinds k d was
    have others : ∀ j, j ≠ kind → (({ s.evd with counter := s.evd.counter + 1 } : Evd).setContext kind
        (some (s.evd.continues c phases r))).context j = s.evd.context j := fun j other =>
      Evd.setContext_context_other _ _ other
    refine ⟨issued.setContext fun d is => ?_, fun j => ?_, others⟩
    · cases is
      exact (s.evd.continues_kind c phases r).trans (kinds kind c held)
    · by_cases same : j = kind
      · subst same
        rw [Evd.setContext_context_same, held]
        rfl
      · rw [others j same]

/-- The limits leave a record open for every kind that has one, and a record short of its limit as it is. -/
theorem foldl_limitRecord_evd (phases : PerPhase (Option PhaseState)) (r : Report) (ks : List EventKind) {s : State}
    (kinds : s.evd.Kinds) :
    (∀ j, ((ks.foldl (limitRecord phases r) s).evd.context j).isSome = (s.evd.context j).isSome) ∧
    ∀ j c, s.evd.context j = some c → c.elapsed < s.svc.active.lmax * 32768 →
      (ks.foldl (limitRecord phases r) s).evd.context j = some c := by
  induction ks generalizing s with
  | nil => exact ⟨fun _ => rfl, fun _ _ held _ => held⟩
  | cons k rest ih =>
    obtain ⟨kinds', open', others⟩ := limitRecord_evd kinds phases r k
    have svc := (limitRecord_detectorOnly phases r s k).svc
    obtain ⟨later, keeps⟩ := ih kinds'
    refine ⟨fun j => (later j).trans (open' j), fun j c held short => ?_⟩
    refine keeps j c ?_ (by rw [svc]; exact short)
    by_cases same : j = k
    · subst same
      rw [limitRecord_rests fun d is => by rw [held] at is; cases is; exact short]
      exact held
    · rw [others j same]
      exact held

/-! ## The records from step to step -/

theorem reportProgresses_context (r : Report) (span : Nat) (s : State) (k : EventKind) :
    (reportProgresses r span s).evd.context k = ((reportOpens r span s).evd.context k).map (fun c => c.progress (s.phasesAt r) r) := by
  unfold reportProgresses
  cases k <;> rfl

theorem processReport_context (r : Report) (span : Nat) (s : State) (k : EventKind) :
    (processReport r span s).1.evd.context k = (reportLimits r span s).evd.context k := by
  rw [processReport_state]
  cases k <;> rfl

theorem reportOpens_evd (r : Report) (span : Nat) (s : State) :
    Opened (s.phasesAt r) r [.dip, .swell, .interruption] (reportCloses r span s).evd (reportOpens r span s).evd :=
  foldl_openHolding_evd (s.phasesAt r) r (by decide) (reportCloses r span s)

/-- After the closes a condition begins where it holds and no record was open before the report. -/
theorem reportCloses_begins (r : Report) (span : Nat) {s : State} (kinds : s.evd.Kinds) (k : EventKind) :
    (reportCloses r span s).evd.begins (s.phasesAt r) k = s.evd.begins (s.phasesAt r) k := by
  obtain ⟨-, -, contexts⟩ := reportCloses_evd r span kinds
  unfold Evd.begins
  rw [contexts k]
  cases conditionHolds (s.phasesAt r) k with
  | false => rw [Bool.and_false, Bool.and_false]
  | true => cases s.evd.context k <;> rfl

theorem reportCloses_beginning (r : Report) (span : Nat) {s : State} (kinds : s.evd.Kinds) :
    [EventKind.dip, .swell, .interruption].filter ((reportCloses r span s).evd.begins (s.phasesAt r)) =
      [EventKind.dip, .swell, .interruption].filter (s.evd.begins (s.phasesAt r)) :=
  List.filter_congr fun k _ => reportCloses_begins r span kinds k

theorem reportProgresses_kinds (r : Report) (span : Nat) {s : State} (kinds : s.evd.Kinds) :
    (reportProgresses r span s).evd.Kinds := by
  intro k c held
  rw [reportProgresses_context] at held
  obtain ⟨d, was, rfl⟩ := Option.map_eq_some_iff.mp held
  rw [Context.progress_kind]
  exact (reportOpens_evd r span s).kinds (reportCloses_evd r span kinds).1 k d was

theorem reportProgresses_svc (r : Report) (span : Nat) (s : State) : (reportProgresses r span s).svc = s.svc := by
  have begun : DetectorOnly s (reportBegins r span s) := rfl
  have closed : DetectorOnly s (reportCloses r span s) := begun.trans (foldl_detectorOnly (closeEnded_detectorOnly _ _ _) _ _)
  have opened : DetectorOnly s (reportOpens r span s) := closed.trans (foldl_detectorOnly (openHolding_detectorOnly _ _) _ _)
  exact opened.svc

/-- A record open before a report whose condition holds takes the report (R33 to R36). -/
theorem reportProgresses_keeps {s : State} (kinds : s.evd.Kinds) {r : Report} {kind : EventKind} {c : Context}
    (held : s.evd.context kind = some c) (holds : conditionHolds (s.phasesAt r) kind = true) (span : Nat) :
    ∃ d, (reportProgresses r span s).evd.context kind =
      some (((c.advance r (reportTicks s.evd r span) s.evd.resumed).progress (s.phasesAt r) r).withContained d) := by
  obtain ⟨-, -, contexts⟩ := reportCloses_evd r span kinds
  have closed := contexts kind
  rw [holds, held] at closed
  have old : (reportCloses r span s).evd.begins (s.phasesAt r) kind = false := by
    unfold Evd.begins
    rw [closed]
    rfl
  obtain ⟨d, opened⟩ := ((reportOpens_evd r span s).kept kind fun h => by
    rw [(List.mem_filter.mp h).2] at old
    exact nomatch old).kept _ closed
  refine ⟨d, ?_⟩
  rw [reportProgresses_context, opened]
  exact congrArg some (Context.progress_withContained _ _ _ _)

/-- A record short of its limit after a report is the one that took the report (R33 to R36). -/
theorem processReport_keeps {s : State} (kinds : s.evd.Kinds) {r : Report} {span : Nat} {kind : EventKind} {c : Context}
    (held : s.evd.context kind = some c) (holds : conditionHolds (s.phasesAt r) kind = true)
    (short : c.elapsed + reportTicks s.evd r span < s.svc.active.lmax * 32768) :
    ∃ d, (processReport r span s).1.evd.context kind =
      some (((c.advance r (reportTicks s.evd r span) s.evd.resumed).progress (s.phasesAt r) r).withContained d) := by
  obtain ⟨d, progressed⟩ := reportProgresses_keeps kinds held holds span
  obtain ⟨-, keeps⟩ := foldl_limitRecord_evd (s.phasesAt r) r [.dip, .swell, .interruption] (reportProgresses_kinds r span kinds)
  refine ⟨d, (processReport_context r span s kind).trans (keeps kind _ progressed ?_)⟩
  rw [reportProgresses_svc]
  have elapsed : (((c.advance r (reportTicks s.evd r span) s.evd.resumed).progress (s.phasesAt r) r).withContained d).elapsed =
      c.elapsed + reportTicks s.evd r span := by
    unfold Context.withContained
    rw [Context.progress_others]
    rfl
  rw [elapsed]
  exact short

/-! ## A record before and after a report -/

theorem any_takesPart (x : Option PhaseState) (kind : EventKind) : x.any (fun y => y.takesPart kind) = (match x, kind with
    | some y, .dip => y.excursion == .low
    | some y, .swell => y.excursion == .high
    | some y, .interruption => y.interrupted
    | none, _ => false) := by
  cases x with
  | none => rfl
  | some y => cases kind <;> rfl

theorem beyond_eq (kind : EventKind) (v held : Nat) : beyond kind v held = (match kind with
    | .dip => decide (v < held)
    | .swell => decide (held < v)
    | .interruption => decide (v < held)) := by
  cases kind <;> rfl

theorem EventMarks.withReport_eq (m : EventMarks) (r : Report) : m.withReport r = { m with
    clipped := m.clipped || ([r.values.l1, r.values.l2, r.values.l3].filterMap id).any PhaseValue.clipped
    synthetic := m.synthetic || r.synthetic } := by
  unfold EventMarks.withReport
  rw [presentValues_eq]

/-- An entry over a whole report: an unwired phase's period ends at the boundary before, any other takes the report (R35). -/
theorem PhaseEntry.over_report (e : PhaseEntry) (kind : EventKind) (before elapsed : Nat) (phases : PerPhase (Option PhaseState))
    (r : Report) : (if (r.values.get e.phase).isNone ∧ e.out then e.ended before else e).after kind elapsed phases r =
      (match r.values.get e.phase with
        | none => if e.out then e.ended before else e
        | some _ => e.after kind elapsed phases r) := by
  cases value : r.values.get e.phase with
  | none =>
    have same : (if (none : Option PhaseValue).isNone ∧ e.out then e.ended before else e) = if e.out then e.ended before else e :=
      if_congr ⟨And.right, fun out => ⟨rfl, out⟩⟩ rfl rfl
    rw [same]
    unfold PhaseEntry.after
    have phase : (if e.out then e.ended before else e).phase = e.phase := by split <;> rfl
    rw [phase, value]
  | some v => rw [if_neg fun h => nomatch h.1]

/-- The phase list of a record that goes on, after a report (R35). -/
theorem Context.advanced_phases (c : Context) (r : Report) (ticks : Nat) (resumed : Bool) (phases : PerPhase (Option PhaseState)) :
    ((c.advance r ticks resumed).progress phases r).phases = c.phases.map (fun e => match r.values.get e.phase with
        | none => if e.out then e.ended c.elapsed else e
        | some _ => e.after c.kind (c.elapsed + ticks) phases r) ++
      (allPhases.filter (joins c.kind phases r c.phases)).map (joined (c.elapsed + ticks) r) := by
  rw [Context.progress_phases]
  have listed : (c.advance r ticks resumed).phases = c.phases.map
      (fun e => if (r.values.get e.phase).isNone ∧ e.out then e.ended c.elapsed else e) := rfl
  have same : joins c.kind phases r (c.advance r ticks resumed).phases = joins c.kind phases r c.phases := by
    funext p
    unfold joins
    rw [listed, List.any_map]
    refine congrArg (fun b => _ && !b) (congrArg (fun f => List.any c.phases f) (funext fun e => ?_))
    dsimp only [Function.comp]
    split <;> rfl
  show _ ++ ((allPhases.filter (joins c.kind phases r (c.advance r ticks resumed).phases)).map _) = _
  rw [same, listed, List.map_map]
  congr 1
  exact List.map_congr_left fun e _ => e.over_report c.kind c.elapsed (c.elapsed + ticks) phases r

end Sys2Proof.Machine
end

section
/-! A report lengthens the records open, and splits those at their limit (R33 to R36, R41, R42). -/

namespace Sys2Proof.Machine

/-! ## The record of a close -/

/-- A close queues the record (R37, R39). -/
theorem closeRecord_queues (c : Context) (k : CloseAt) (s : State) :
    Queues s (closeRecord c k s) .evt (c.record k).payload s.svc.generation := by
  refine (offer_queues .evt (c.record k).payload s).after ?_
  have posted : (postClose c k (offeredSequence s) (offer .evt (c.record k).payload s)).evs =
      (offer .evt (c.record k).payload s).evs := by
    unfold postClose
    rw [postNotice_others]
  show (if k.cause = .limit then postClose c k (offeredSequence s) (offer .evt (c.record k).payload s)
    else handItem (.evt (c.classification k.cause))
      (postClose c k (offeredSequence s) (offer .evt (c.record k).payload s))).evs = _
  split
  · exact posted
  · exact (handItem_bankOnly _ _).evs.trans posted

/-- A close hands its chain to the bank, but for one at the limit (R43). -/
theorem closeRecord_tlb (c : Context) (k : CloseAt) (s : State) : (closeRecord c k s).tlb =
    if k.cause = .limit then s.tlb else (handItem (.evt (c.classification k.cause)) s).tlb := by
  have posted : ∃ tmb evs hlk, postClose c k (offeredSequence s) (offer .evt (c.record k).payload s) =
      { s with tmb := tmb, evs := evs, hlk := hlk } := by
    unfold postClose
    rw [postNotice_others, offer_others]
    exact ⟨_, _, _, rfl⟩
  obtain ⟨tmb, evs, hlk, posted⟩ := posted
  show (if k.cause = .limit then postClose c k (offeredSequence s) (offer .evt (c.record k).payload s)
    else handItem (.evt (c.classification k.cause))
      (postClose c k (offeredSequence s) (offer .evt (c.record k).payload s))).tlb = _
  rw [posted]
  split
  · rfl
  · exact handItem_tlb _ rfl rfl

/-- The record of a close, with its chain where it is not the first of it (R39, R42). -/
theorem Context.record_eq (c : Context) (k : CloseAt) : c.record k = {
    kind := c.kind
    number := c.number
    continuesFrom := c.continuesFrom
    cause := k.cause
    startTime := c.startTime
    endTime := k.time
    duration := durationMs c.elapsed
    extreme := c.extreme
    entries := c.phases.map (fun e => ⟨e.phase, e.offset, e.extreme,
      durationMs (e.ticks + if e.out then c.elapsed - e.began else 0), k.cause.keepsStillOut && e.out⟩)
    containedCount := if c.kind = .dip then c.containedCount else 0
    firstContained := if c.kind = .dip then c.firstContained else none
    chain := if c.continuesFrom = none then none else
      some ⟨c.chainStart, saturate max32 (c.chainDuration + durationMs c.elapsed), c.chainExtreme⟩
    marks := c.marks } := by
  have chain : (if c.continuesFrom.isSome then some (⟨c.chainStart, c.chainTotal, c.chainExtreme⟩ : ChainFields) else none) =
      if c.continuesFrom = none then none else
        some ⟨c.chainStart, saturate max32 (c.chainDuration + durationMs c.elapsed), c.chainExtreme⟩ := by
    cases c.continuesFrom <;> rfl
  unfold Context.record
  rw [chain]
  rfl

/-! ## A record that takes a report -/

/-- The phases that join a list without entries are those that take part (R30, R35). -/
theorem joins_phasesAfter (before : PerPhase (Option PhaseState)) (set : Settings) (r : Report) (kind : EventKind)
    (entries : List PhaseEntry) (p : Phase) : joins kind (phasesAfter before set r) r entries p =
      (((phasesAfter before set r).get p).any (fun x => x.takesPart kind) && !entries.any (fun e => e.phase == p)) := by
  have some' := phasesAfter_isSome before set r p
  unfold joins
  rw [← some']
  cases (phasesAfter before set r).get p <;> rfl

/-- The phase list of a record that opens at a report (R35). -/
theorem Context.fresh_phases {c : Context} (empty : c.phases = []) (start : c.elapsed = 0)
    (before : PerPhase (Option PhaseState)) (set : Settings) (r : Report) :
    (c.progress (phasesAfter before set r) r).phases =
      (takingPart (phasesAfter before set r) c.kind).map (fun p => joined 0 r p) := by
  rw [Context.progress_phases, empty, start, List.map_nil, List.nil_append]
  unfold takingPart
  refine congrArg (List.map (joined 0 r)) (List.filter_congr fun p _ => ?_)
  rw [joins_phasesAfter]
  exact Bool.and_true _

/-- What a record that goes on has of its old self after a report (R33, R36, R49). -/
theorem Context.advanced_others (c : Context) (r : Report) (ticks : Nat) (resumed : Bool) (phases : PerPhase (Option PhaseState)) :
    (c.advance r ticks resumed).progress phases r = { c with
      elapsed := c.elapsed + ticks
      extreme := ((c.advance r ticks resumed).progress phases r).extreme
      chainExtreme := ((c.advance r ticks resumed).progress phases r).chainExtreme
      phases := ((c.advance r ticks resumed).progress phases r).phases
      marks := { c.marks with
        clipped := c.marks.clipped || ([r.values.l1, r.values.l2, r.values.l3].filterMap id).any PhaseValue.clipped
        synthetic := c.marks.synthetic || r.synthetic
        resumed := c.marks.resumed || resumed } } := by
  have others := (c.advance r ticks resumed).progress_others phases r
  obtain ⟨x, name⟩ : ∃ x, (c.advance r ticks resumed).progress phases r = x := ⟨_, rfl⟩
  rw [name] at others ⊢
  have marks : x.marks = (c.advance r ticks resumed).marks.withReport r := congrArg Context.marks others
  rw [EventMarks.withReport_eq] at marks
  have list : x.phases = allPhases.foldl (phaseStep (c.advance r ticks resumed).kind (c.advance r ticks resumed).elapsed phases r)
    (c.advance r ticks resumed).phases := congrArg Context.phases others
  rw [← list, EventMarks.withReport_eq] at others
  exact others

/-- An entry whose phase is no longer wired, as its period ends (R35). -/
theorem PhaseEntry.ended_where_out (e : PhaseEntry) (elapsed : Nat) : (if e.out then e.ended elapsed else e) =
    if e.out then { e with ticks := e.ticks + (elapsed - e.began), out := false } else e := by
  cases out : e.out with
  | false => rfl
  | true =>
    unfold PhaseEntry.ended PhaseEntry.total
    rw [out]
    rfl

/-- The first half of O12: a record goes on. -/
theorem report_lengthens {s : State} {r : Report} {span : Nat} {kind : EventKind} {c : Context} (regular : s.evd.Regular)
    (held : s.evd.context kind = some c) (holds : conditionHolds (s.phasesAt r) kind = true)
    (short : c.elapsed + reportTicks s.evd r span < s.svc.active.lmax * 32768) :
    ∃ c' : Context, (processReport r span s).1.evd.context kind = some c' ∧
      c' = { c with
        elapsed := c.elapsed + reportTicks s.evd r span
        extreme := (c.progress (s.phasesAt r) r).extreme
        chainExtreme := (c.progress (s.phasesAt r) r).chainExtreme
        phases := c.phases.map (fun e => match r.values.get e.phase with
          | none => if e.out then e.ended c.elapsed else e
          | some _ => e.after kind (c.elapsed + reportTicks s.evd r span) (s.phasesAt r) r) ++
          (allPhases.filter (joins kind (s.phasesAt r) r c.phases)).map (joined (c.elapsed + reportTicks s.evd r span) r)
        containedCount := c'.containedCount, firstContained := c'.firstContained, chainContained := c'.chainContained
        marks := { c.marks with
          clipped := c.marks.clipped || ([r.values.l1, r.values.l2, r.values.l3].filterMap id).any PhaseValue.clipped
          synthetic := c.marks.synthetic || r.synthetic
          resumed := c.marks.resumed || s.evd.resumed } } := by
  obtain ⟨d, after⟩ := processReport_keeps regular.kinds held holds short
  refine ⟨_, after, ?_⟩
  have others := c.advanced_others r (reportTicks s.evd r span) s.evd.resumed (s.phasesAt r)
  have list := c.advanced_phases r (reportTicks s.evd r span) s.evd.resumed (s.phasesAt r)
  obtain ⟨extreme, chain⟩ := Context.progress_extremes_congr (c := c) (d := c.advance r (reportTicks s.evd r span) s.evd.resumed)
    rfl rfl rfl (s.phasesAt r) r
  rw [regular.kinds kind c held] at list
  obtain ⟨x, name⟩ : ∃ x, (c.advance r (reportTicks s.evd r span) s.evd.resumed).progress (s.phasesAt r) r = x := ⟨_, rfl⟩
  rw [name] at others list extreme chain ⊢
  rw [extreme, chain, list] at others
  rw [others]
  rfl

end Sys2Proof.Machine
end

section
/-! The split of a record at its limit, and what O12 states (R41, R42). -/

namespace Sys2Proof.Machine

/-! ## Only one record at its limit -/

/-- A report that opens and closes no record has the records before it take it. -/
theorem reportProgresses_quiet {s : State} (kinds : s.evd.Kinds) {r : Report}
    (same : ∀ k, (s.evd.context k).isSome = conditionHolds (s.phasesAt r) k) (span : Nat) :
    reportProgresses r span s = { reportBegins r span s with evd := (reportBegins r span s).evd.progress (s.phasesAt r) r } := by
  have closes := reportCloses_rests (r := r) (s := s) (fun k c held => by rw [← same k, held]; rfl) span
  have opens : reportOpens r span s = reportCloses r span s := foldl_rests fun k _ => by
    rw [openHolding_eq, reportCloses_begins r span kinds k]
    have none' : s.evd.begins (s.phasesAt r) k = false := by
      unfold Evd.begins
      rw [← same k]
      cases s.evd.context k <;> rfl
    rw [none']
    rfl
  unfold reportProgresses
  rw [opens, closes]

theorem reportProgresses_quiet_context {s : State} (kinds : s.evd.Kinds) {r : Report}
    (same : ∀ k, (s.evd.context k).isSome = conditionHolds (s.phasesAt r) k) (span : Nat) (k : EventKind) :
    (reportProgresses r span s).evd.context k = (s.evd.context k).map (fun c =>
      (c.advance r (reportTicks s.evd r span) s.evd.resumed).progress (s.phasesAt r) r) := by
  rw [reportProgresses_quiet kinds same]
  cases k <;> exact Option.map_map ..

/-- Where one kind alone may be at its limit, the limits are that kind's. -/
theorem foldl_limitRecord_single {u : State} (kinds : u.evd.Kinds) {kind : EventKind}
    (short : ∀ k, k ≠ kind → ∀ c, u.evd.context k = some c → c.elapsed < u.svc.active.lmax * 32768)
    (phases : PerPhase (Option PhaseState)) (r : Report) :
    [EventKind.dip, .swell, .interruption].foldl (limitRecord phases r) u = limitRecord phases r u kind := by
  refine foldl_single (by decide) kind.mem_order (fun k other => limitRecord_rests (short k other)) fun k other => ?_
  obtain ⟨-, -, others⟩ := limitRecord_evd kinds phases r kind
  refine limitRecord_rests fun c held => ?_
  rw [others k other] at held
  rw [(limitRecord_detectorOnly phases r u kind).svc]
  exact short k other c held

/-- What the split of a record leaves of the store and the bank. -/
theorem limitRecord_queues {u : State} {kind : EventKind} {c : Context} (held : u.evd.context kind = some c)
    (ofKind : c.kind = kind) (full : u.svc.active.lmax * 32768 ≤ c.elapsed) (phases : PerPhase (Option PhaseState)) (r : Report) :
    Queues u (limitRecord phases r u kind) .evt (c.record ⟨.limit, r.time⟩).payload u.svc.generation ∧
    (limitRecord phases r u kind).tlb = u.tlb := by
  have whole := limitRecord_splits held ofKind full phases r
  obtain ⟨next, named⟩ : ∃ next, u.evd.continues c phases r = next := ⟨_, rfl⟩
  have tlb := closeRecord_tlb c ⟨.limit, r.time⟩ u
  have queues := closeRecord_queues c ⟨.limit, r.time⟩ u
  obtain ⟨t, name⟩ : ∃ t, closeRecord c ⟨.limit, r.time⟩ u = t := ⟨_, rfl⟩
  rw [name] at whole tlb queues
  rw [whole]
  unfold postOpen
  refine ⟨queues.after ?_, ?_⟩
  · rw [postNotice_others]
    rfl
  · rw [postNotice_others]
    exact tlb

/-- The record that continues a chain, as it opens (R41, R42). -/
theorem Evd.continues_eq (e : Evd) (c : Context) (before : PerPhase (Option PhaseState)) (set : Settings) (r : Report) :
    ∃ n : Context, e.continues c (phasesAfter before set r) r = { n with
      kind := c.kind
      number := e.counter + 1
      continuesFrom := some c.number
      startTime := r.time
      startTick := r.tick
      elapsed := 0
      phases := (takingPart (phasesAfter before set r) c.kind).map (fun p => joined 0 r p)
      containedCount := if c.kind = .dip ∧ e.interruption ≠ none then 1 else 0
      firstContained := if c.kind = .dip then e.interruption.map Context.number else none
      chainStart := c.chainStart
      chainDuration := c.chainTotal
      chainContained := c.chainContained
      marks := EventMarks.none.withReport r } := by
  obtain ⟨fresh, named⟩ : ∃ fresh : Context, fresh = { Context.opening c.kind (e.counter + 1) r with
    continuesFrom := some c.number
    containedCount := if (if c.kind = .dip then e.interruption.map Context.number else none).isSome then 1 else 0
    firstContained := if c.kind = .dip then e.interruption.map Context.number else none
    chainStart := c.chainStart
    chainDuration := c.chainTotal
    chainExtreme := c.chainExtreme
    chainContained := c.chainContained } := ⟨_, rfl⟩
  have whole : e.continues c (phasesAfter before set r) r = fresh.progress (phasesAfter before set r) r :=
    congrArg (fun x : Context => x.progress (phasesAfter before set r) r) named.symm
  have count : (if (if c.kind = .dip then e.interruption.map Context.number else none).isSome then 1 else 0) =
      if c.kind = .dip ∧ e.interruption ≠ none then 1 else 0 := by
    by_cases dip : c.kind = .dip
    · rw [if_pos dip]
      cases e.interruption with
      | none => exact (if_neg fun h => h.2 rfl).symm
      | some x => exact (if_pos ⟨dip, nofun⟩).symm
    · rw [if_neg dip, if_neg (fun h : c.kind = .dip ∧ _ => dip h.1)]
      rfl
  have others := fresh.progress_others (phasesAfter before set r) r
  have list := Context.fresh_phases (c := fresh) (by rw [named]; rfl) (by rw [named]; rfl) before set r
  obtain ⟨x, name⟩ : ∃ x, fresh.progress (phasesAfter before set r) r = x := ⟨_, rfl⟩
  rw [name] at whole others list
  have folded : x.phases = allPhases.foldl (phaseStep fresh.kind fresh.elapsed (phasesAfter before set r) r) fresh.phases :=
    congrArg Context.phases others
  rw [← folded, list] at others
  refine ⟨x, whole.trans ?_⟩
  rw [← count]
  rw [named] at others
  exact others

/-- The record of a close of one that took a report (R33, R39). -/
theorem Context.advanced_record (c : Context) (r : Report) (ticks : Nat) (resumed : Bool) (phases : PerPhase (Option PhaseState))
    {x : Context} (is : (c.advance r ticks resumed).progress phases r = x) (k : CloseAt) : x.record k = {
      kind := c.kind
      number := c.number
      continuesFrom := c.continuesFrom
      cause := k.cause
      startTime := c.startTime
      endTime := k.time
      duration := durationMs (c.elapsed + ticks)
      extreme := x.extreme
      entries := x.phases.map (fun e => ⟨e.phase, e.offset, e.extreme,
        durationMs (e.ticks + if e.out then c.elapsed + ticks - e.began else 0), k.cause.keepsStillOut && e.out⟩)
      containedCount := if c.kind = .dip then c.containedCount else 0
      firstContained := if c.kind = .dip then c.firstContained else none
      chain := if c.continuesFrom = none then none else
        some ⟨c.chainStart, saturate max32 (c.chainDuration + durationMs (c.elapsed + ticks)), x.chainExtreme⟩
      marks := x.marks } := by
  have others := c.advanced_others r ticks resumed phases
  rw [is] at others
  rw [Context.record_eq]
  rw [others]

/-! ## O12 -/

/-- Settles O12. -/
theorem aReportLengthensTheOpenRecord : Obligations.AReportLengthensTheOpenRecord := by
  unfold Obligations.AReportLengthensTheOpenRecord
  refine ⟨?_, ?_⟩
  · intro s r span kind c regular held holds short
    rw [← reportTicks_eq] at short ⊢
    obtain ⟨c', after, others⟩ := report_lengthens regular held holds short
    obtain ⟨ticks, spans⟩ : ∃ ticks, reportTicks s.evd r span = ticks := ⟨_, rfl⟩
    rw [spans] at others ⊢
    have elapsed : c'.elapsed = c.elapsed + ticks := congrArg Context.elapsed others
    refine ⟨c', after, (congrArg Context.number others :), (congrArg Context.startTime others :), (congrArg Context.startTick others :),
      (congrArg Context.chainStart others :), (congrArg Context.chainDuration others :), elapsed, (congrArg Context.marks others :), ?_⟩
    intro phases takes stricter
    have takesEq : ∀ p, (phases.get p).any (fun x => x.takesPart kind) = takes p := fun p => any_takesPart (phases.get p) kind
    have stricterEq : ∀ v w, beyond kind v w = stricter v w := fun v w => beyond_eq kind v w
    refine ⟨(congrArg Context.extreme others :), (congrArg Context.chainExtreme others :), (congrArg Context.phases others :).trans ?_⟩
    rw [elapsed]
    have entries : ∀ e : PhaseEntry, (match r.values.get e.phase with
          | none => if e.out then e.ended c.elapsed else e
          | some _ => e.after kind (c.elapsed + ticks) phases r) = (match r.values.get e.phase with
          | none => if e.out then { e with ticks := e.ticks + (c.elapsed - e.began), out := false } else e
          | some v =>
            if takes e.phase then { e with
              extreme := if stricter v.value e.extreme then v.value else e.extreme
              began := if e.out then e.began else c.elapsed + ticks
              out := true }
            else if e.out then { e with ticks := e.ticks + (c.elapsed + ticks - e.began), out := false }
            else e) := by
      intro e
      cases value : r.values.get e.phase with
      | none => exact e.ended_where_out c.elapsed
      | some v =>
        unfold PhaseEntry.after
        rw [value]
        dsimp only
        rw [takesEq, e.ended_where_out]
        unfold PhaseEntry.entered
        rw [stricterEq]
    have joining : ∀ p, joins kind phases r c.phases p = (takes p && !c.phases.any (fun e => e.phase == p)) := fun p => by
      rw [joins_phasesAfter s.evd.phases s.svc.active r kind c.phases p, ← takesEq p]
    refine congrArg₂ (· ++ ·) (List.map_congr_left fun e _ => entries e) ?_
    exact congrArg (List.map _) (List.filter_congr fun p _ => joining p)
  · intro s r span kind c regular phases ticks held holds full others t x total
    have kinds : s.evd.Kinds := regular.kinds
    have spans : reportTicks s.evd r span = ticks := reportTicks_eq s.evd r span
    have same : ∀ k, (s.evd.context k).isSome = conditionHolds (s.phasesAt r) k := fun k => by
      by_cases this : k = kind
      · rw [this, held]
        exact holds.symm
      · exact (others k this).1
    have contexts := reportProgresses_quiet_context kinds same span
    have form := reportProgresses_quiet kinds same span
    have kinds' := reportProgresses_kinds r span kinds
    have svc := reportProgresses_svc r span s
    have after : ∀ k, t.evd.context k = (reportLimits r span s).evd.context k := processReport_context r span s
    have whole : t = { reportLimits r span s with evd := { (reportLimits r span s).evd with
      lastBoundary := some ⟨r.time, r.tick⟩, resumed := false } } := processReport_state r span s
    obtain ⟨u, name⟩ : ∃ u, reportProgresses r span s = u := ⟨_, rfl⟩
    have limits : reportLimits r span s = [EventKind.dip, .swell, .interruption].foldl (limitRecord phases r) u := by
      rw [← name]
      rfl
    rw [name] at contexts form kinds' svc
    rw [spans] at contexts
    have mine : u.evd.context kind = some x := by
      rw [contexts kind, held]
      rfl
    have advanced : ∀ d : Context, ((d.advance r ticks s.evd.resumed).progress (s.phasesAt r) r).elapsed = d.elapsed + ticks :=
      fun d => congrArg Context.elapsed (d.advanced_others r ticks s.evd.resumed (s.phasesAt r))
    have xs := c.advanced_others r ticks s.evd.resumed phases
    have ofKind : x.kind = kind := kinds' kind x mine
    have fullU : u.svc.active.lmax * 32768 ≤ x.elapsed := by
      rw [svc, show x.elapsed = c.elapsed + ticks from advanced c]
      exact full
    rw [foldl_limitRecord_single kinds' (kind := kind) fun k other d is => by
      rw [contexts k] at is
      obtain ⟨old, was, rfl⟩ := Option.map_eq_some_iff.mp is
      rw [svc, advanced]
      exact (others k other).2 old was] at limits
    obtain ⟨queues, tlb⟩ := limitRecord_queues mine ofKind fullU phases r
    have evd := limitRecord_split_evd mine ofKind fullU phases r
    rw [← limits] at queues tlb evd
    obtain ⟨w, named⟩ : ∃ w, reportLimits r span s = w := ⟨_, rfl⟩
    rw [named] at whole after evd queues tlb
    have record := c.advanced_record r ticks s.evd.resumed phases (x := x) rfl ⟨.limit, r.time⟩
    rw [regular.kinds kind c held] at record
    have payload : Queues s t .evt (x.record ⟨.limit, r.time⟩).payload s.svc.generation := by
      rw [svc] at queues
      have evs : t.evs = w.evs := by rw [whole]
      have before : u.evs = s.evs ∧ reading u = reading s ∧ u.tmb.quality = s.tmb.quality ∧ u.evd.counter = s.evd.counter := by
        rw [form]
        exact ⟨rfl, rfl, rfl, rfl⟩
      obtain ⟨store, time, quality, counter⟩ := before
      exact (queues.before store time quality counter).after evs
    rw [record] at payload
    have bank : t.tlb = s.tlb := by
      rw [whole]
      refine tlb.trans ?_
      rw [form]
      rfl
    have counterU : u.evd.counter = s.evd.counter := by
      rw [form]
      rfl
    have interrupted : u.evd.interruption.map Context.number = s.evd.interruption.map Context.number := by
      have sameNumber : ∀ d : Context, ((d.advance r ticks s.evd.resumed).progress phases r).number = d.number := fun d =>
        (congrArg Context.number (d.advanced_others r ticks s.evd.resumed phases) :)
      have now : u.evd.interruption = s.evd.interruption.map (fun d => (d.advance r ticks s.evd.resumed).progress phases r) :=
        contexts .interruption
      rw [now, Option.map_map]
      exact congrArg (fun f => Option.map f s.evd.interruption) (funext sameNumber)
    have none' : u.evd.interruption ≠ none ↔ s.evd.interruption ≠ none := by
      have some' := congrArg Option.isSome interrupted
      rw [Option.isSome_map, Option.isSome_map] at some'
      rw [← Option.isSome_iff_ne_none, ← Option.isSome_iff_ne_none, some']
    obtain ⟨n, continues⟩ := u.evd.continues_eq x s.evd.phases s.svc.active r
    rw [ofKind, interrupted, counterU, if_congr (and_congr_right fun _ => none') rfl rfl] at continues
    have contextN : t.evd.context kind = some (u.evd.continues x phases r) := by
      rw [after kind, evd, Evd.setContext_context_same]
    have number : x.number = c.number := (congrArg Context.number xs :)
    have chainStart : x.chainStart = c.chainStart := (congrArg Context.chainStart xs :)
    have chainContained : x.chainContained = c.chainContained := (congrArg Context.chainContained xs :)
    have chainTotal : x.chainTotal = total := (congrArg Context.chainTotal xs :)
    rw [number, chainStart, chainContained, chainTotal] at continues
    refine ⟨payload, bank, ?_, _, contextN, ?_⟩
    · rw [whole]
      show w.evd.counter = _
      rw [evd, Evd.setContext_counter, ← counterU]
    · rw [continues]
      exact ⟨rfl, rfl, rfl, rfl, rfl, rfl, rfl, rfl, rfl, rfl, rfl, rfl, rfl, rfl, List.map_map⟩

end Sys2Proof.Machine
end

section
/-! The thresholds, the conditions, and the records that a report opens (R26 to R32, R46, R51). -/

namespace Sys2Proof.Machine

/-! ## Conditions -/

theorem takingPart_ne_nil {phases : PerPhase (Option PhaseState)} {kind : EventKind} : takingPart phases kind ≠ [] ↔
    ∃ p x, phases.get p = some x ∧ x.takesPart kind = true := by
  constructor
  · intro some'
    obtain ⟨p, member⟩ := List.exists_mem_of_ne_nil _ some'
    obtain ⟨x, state, takes⟩ := (Option.any_eq_true _ _).mp (mem_takingPart.mp member)
    exact ⟨p, x, state, takes⟩
  · rintro ⟨p, x, state, takes⟩
    exact List.ne_nil_of_mem (mem_takingPart.mpr ((Option.any_eq_true _ _).mpr ⟨x, state, takes⟩))

/-- The three conditions over the phases (R29). -/
theorem conditionHolds_iff (phases : PerPhase (Option PhaseState)) :
    (conditionHolds phases .dip = true ↔ ∃ p x, phases.get p = some x ∧ x.excursion = .low) ∧
    (conditionHolds phases .swell = true ↔ ∃ p x, phases.get p = some x ∧ x.excursion = .high) ∧
    (conditionHolds phases .interruption = true ↔
      (∃ p x, phases.get p = some x) ∧ ∀ p x, phases.get p = some x → x.interrupted = true) := by
  refine ⟨?_, ?_, ?_⟩
  · exact bne_iff_ne.trans (takingPart_ne_nil.trans (exists_congr fun p => exists_congr fun x =>
      and_congr_right fun _ => x.takesPart_iff .dip))
  · exact bne_iff_ne.trans (takingPart_ne_nil.trans (exists_congr fun p => exists_congr fun x =>
      and_congr_right fun _ => x.takesPart_iff .swell))
  · refine Bool.and_eq_true_iff.trans (and_congr ?_ ?_)
    · rw [bne_iff_ne]
      constructor
      · intro some'
        obtain ⟨x, member⟩ := List.exists_mem_of_ne_nil _ some'
        obtain ⟨p, state⟩ := mem_presentValues.mp member
        exact ⟨p, x, state⟩
      · rintro ⟨p, x, state⟩
        exact List.ne_nil_of_mem (mem_presentValues.mpr ⟨p, state⟩)
    · rw [List.all_eq_true]
      exact ⟨fun all p x state => all x (mem_presentValues.mpr ⟨p, state⟩), fun all x member => by
        obtain ⟨p, state⟩ := mem_presentValues.mp member
        exact all p x state⟩

/-- An interrupted phase is LOW, so an interruption lies inside a dip (R29). -/
theorem dip_of_interruption {before : PerPhase (Option PhaseState)} {set : Settings} (r : Report)
    (thresholds : set.tint ≤ set.tdip) (flagged : ∀ p x, before.get p = some x → x.interrupted = true → x.excursion = .low)
    (holds : conditionHolds (phasesAfter before set r) .interruption = true) :
    conditionHolds (phasesAfter before set r) .dip = true := by
  obtain ⟨dip, -, interruption⟩ := conditionHolds_iff (phasesAfter before set r)
  obtain ⟨⟨p, x, state⟩, all⟩ := interruption.mp holds
  exact dip.mpr ⟨p, x, state, phasesAfter_flagged r thresholds flagged p x state (all p x state)⟩

/-- A value moves a phase's excursion and its flag over the thresholds (R26 to R28). -/
theorem phasesAfter_get (before : PerPhase (Option PhaseState)) (set : Settings) (r : Report) (p : Phase) :
    (phasesAfter before set r).get p =
      (r.values.get p).map (fun v => ((before.get p).getD PhaseState.initial).after set v.value) := by
  unfold phasesAfter
  exact PerPhase.build_get _ p

theorem PhaseState.after_flag (x : PhaseState) (set : Settings) (v : Nat) : x.after set v = ⟨x.excursion.after set v,
    if v < set.tint ∧ x.excursion.after set v = .low then true
    else if set.tint + set.hyst ≤ v then false
    else x.interrupted⟩ := by
  have both : (decide (v < set.tint) && x.excursion.after set v == .low) = true ↔
      v < set.tint ∧ x.excursion.after set v = .low := by
    rw [Bool.and_eq_true_iff, decide_eq_true_iff, beq_iff_eq]
  unfold PhaseState.after
  dsimp only
  rw [if_congr both rfl rfl]

/-! ## What the records open after a report are -/

/-- A record is open after a report exactly where its condition holds (R29). -/
theorem processReport_isOpen {s : State} (kinds : s.evd.Kinds) (r : Report) (span : Nat) (kind : EventKind) :
    ((processReport r span s).1.evd.context kind).isSome = conditionHolds (s.phasesAt r) kind := by
  obtain ⟨open', -⟩ := foldl_limitRecord_evd (s.phasesAt r) r [.dip, .swell, .interruption] (reportProgresses_kinds r span kinds)
  have limits := open' kind
  have opened := reportOpens_evd r span s
  have beginning := reportCloses_beginning r span kinds
  obtain ⟨-, -, contexts⟩ := reportCloses_evd r span kinds
  have closed := contexts kind
  rw [processReport_context]
  refine limits.trans ?_
  rw [reportProgresses_context, Option.isSome_map]
  obtain ⟨kinds', -, kept, begun⟩ := opened
  rw [beginning] at kept begun
  cases holds : conditionHolds (s.phasesAt r) kind with
  | false =>
    rw [holds] at closed
    have rests := kept kind fun h => by
      have begins := (List.mem_filter.mp h).2
      unfold Evd.begins at begins
      rw [holds, Bool.and_false] at begins
      exact nomatch begins
    rw [rests.absent closed]
    rfl
  | true =>
    rw [holds] at closed
    by_cases new : kind ∈ [EventKind.dip, .swell, .interruption].filter (s.evd.begins (s.phasesAt r))
    · obtain ⟨n, at'⟩ := List.mem_iff_getElem?.mp new
      obtain ⟨d, is⟩ := (begun n kind at').kept _ rfl
      rw [is]
      rfl
    · cases held : s.evd.context kind with
      | none =>
        refine absurd (List.mem_filter.mpr ⟨kind.mem_order, ?_⟩) new
        unfold Evd.begins
        rw [held, holds]
        rfl
      | some c =>
        rw [held] at closed
        obtain ⟨d, is⟩ := (kept kind new).kept _ closed
        rw [is]
        rfl

/-- Where the records open before a report stay short of their limit, no record is split. -/
theorem reportLimits_rests {s : State} (kinds : s.evd.Kinds) {r : Report} {span : Nat}
    (positive : ∀ k, s.evd.begins (s.phasesAt r) k = true → 0 < s.svc.active.lmax)
    (short : ∀ k d, s.evd.context k = some d → conditionHolds (s.phasesAt r) k = true →
      d.elapsed + reportTicks s.evd r span < s.svc.active.lmax * 32768) :
    reportLimits r span s = reportProgresses r span s := by
  refine foldl_rests fun k _ => limitRecord_rests fun c held => ?_
  rw [reportProgresses_svc]
  rw [reportProgresses_context] at held
  obtain ⟨d, was, rfl⟩ := Option.map_eq_some_iff.mp held
  have elapsed : (d.progress (s.phasesAt r) r).elapsed = d.elapsed := (congrArg Context.elapsed (d.progress_others (s.phasesAt r) r) :)
  rw [elapsed]
  obtain ⟨-, -, kept, begun⟩ := reportOpens_evd r span s
  rw [reportCloses_beginning r span kinds] at kept begun
  by_cases new : k ∈ [EventKind.dip, .swell, .interruption].filter (s.evd.begins (s.phasesAt r))
  · obtain ⟨n, at'⟩ := List.mem_iff_getElem?.mp new
    obtain ⟨x, is⟩ := (begun n k at').kept _ rfl
    rw [is] at was
    cases was
    exact Nat.mul_pos (positive k (List.mem_filter.mp new).2) (by decide)
  · obtain ⟨-, -, contexts⟩ := reportCloses_evd r span kinds
    have closed := contexts k
    cases before : (reportCloses r span s).evd.context k with
    | none => exact nomatch ((kept k new).absent before).symm.trans was
    | some a =>
      obtain ⟨x, is⟩ := (kept k new).kept a before
      rw [is] at was
      cases was
      rw [before] at closed
      cases holds : conditionHolds (s.phasesAt r) k with
      | false =>
        rw [holds] at closed
        exact nomatch closed
      | true =>
        rw [holds] at closed
        obtain ⟨c, first, rfl⟩ := Option.map_eq_some_iff.mp closed.symm
        exact short k c first holds

/-! ## A record that opens -/

theorem partValue_taking {kind : EventKind} {phases : PerPhase (Option PhaseState)} {r : Report} {p : Phase} {v : Nat} :
    partValue kind phases r p = some v ↔ p ∈ takingPart phases kind ∧ (r.values.get p).map PhaseValue.value = some v := by
  rw [mem_takingPart]
  unfold partValue
  cases r.values.get p with
  | none => exact ⟨nofun, fun h => nomatch h.2⟩
  | some y =>
    dsimp only
    split
    case isTrue takes => exact ⟨fun h => ⟨takes, h⟩, And.right⟩
    case isFalse not => exact ⟨nofun, fun h => absurd h.1 not⟩

/-- The extreme of a record that opens is the strictest value taking part, of the lowest-numbered phase that has it (R34). -/
theorem fresh_extreme {kind : EventKind} {before : PerPhase (Option PhaseState)} {set : Settings} {r : Report}
    (holds : conditionHolds (phasesAfter before set r) kind = true) :
    ∃ e : Extreme, allPhases.foldl (takeExtreme kind (partValue kind (phasesAfter before set r) r)) none = some e ∧
      e.phase ∈ takingPart (phasesAfter before set r) kind ∧ (r.values.get e.phase).map PhaseValue.value = some e.value ∧
      ∀ p v, p ∈ takingPart (phasesAfter before set r) kind → r.values.get p = some v →
        ¬ beyond kind v.value e.value = true ∧ (v.value = e.value → phaseDigit e.phase ≤ phaseDigit p) := by
  obtain ⟨p, member⟩ := List.exists_mem_of_ne_nil _ (takingPart_of_condition holds)
  obtain ⟨v, value⟩ := takingPart_value member
  have reaches := reaches_allPhases kind (partValue kind (phasesAfter before set r) r) none
  have part : ∀ q w, q ∈ takingPart (phasesAfter before set r) kind → r.values.get q = some w →
      partValue kind (phasesAfter before set r) r q = some w.value := fun q w takes is =>
    partValue_taking.mpr ⟨takes, by rw [is]; rfl⟩
  obtain ⟨e, is, -⟩ := reaches.strictest p (mem_allPhases p) v.value (part p v member value)
  obtain ⟨f, same, -, source, -, first⟩ := reaches.source.resolve_left fun none' => nomatch is.symm.trans none'
  rw [is] at same
  cases same
  obtain ⟨takes, of⟩ := partValue_taking.mp source
  refine ⟨e, is, takes, of, fun q w taking given => ⟨?_, fun equal => ?_⟩⟩
  · obtain ⟨g, again, lax⟩ := reaches.strictest q (mem_allPhases q) w.value (part q w taking given)
    rw [is] at again
    cases again
    exact lax
  · exact first q (mem_allPhases q) (by rw [← equal]; exact part q w taking given)

/-- A record that opens at a report, once it has taken that report (R31, R34 to R36). -/
theorem fresh_record {kind : EventKind} {before : PerPhase (Option PhaseState)} {set : Settings} {r : Report}
    (holds : conditionHolds (phasesAfter before set r) kind = true) (number : BitVec 32) :
    ∃ e : Extreme, (Context.opening kind number r).progress (phasesAfter before set r) r = { Context.opening kind number r with
        extreme := some e
        chainExtreme := some e
        phases := (takingPart (phasesAfter before set r) kind).map (fun p => joined 0 r p)
        marks := EventMarks.none.withReport r } ∧
      e.phase ∈ takingPart (phasesAfter before set r) kind ∧ (r.values.get e.phase).map PhaseValue.value = some e.value ∧
      ∀ p v, p ∈ takingPart (phasesAfter before set r) kind → r.values.get p = some v →
        ¬ beyond kind v.value e.value = true ∧ (v.value = e.value → phaseDigit e.phase ≤ phaseDigit p) := by
  obtain ⟨e, is, rest⟩ := fresh_extreme holds
  refine ⟨e, ?_, rest⟩
  have others := (Context.opening kind number r).progress_others (phasesAfter before set r) r
  obtain ⟨extreme, chain⟩ := progress_extremes (Context.opening kind number r) (phasesAfter before set r) r
  have list := Context.fresh_phases (c := Context.opening kind number r) rfl rfl before set r
  obtain ⟨x, name⟩ : ∃ x, (Context.opening kind number r).progress (phasesAfter before set r) r = x := ⟨_, rfl⟩
  rw [name] at others extreme chain list ⊢
  have folded : x.phases = allPhases.foldl (phaseStep (Context.opening kind number r).kind
      (Context.opening kind number r).elapsed (phasesAfter before set r) r) (Context.opening kind number r).phases :=
    (congrArg Context.phases others :)
  rw [← folded, list, extreme.trans is, chain.trans is] at others
  exact others

/-- What a record has contained stays under a report. -/
theorem Context.progress_contained (c : Context) (phases : PerPhase (Option PhaseState)) (r : Report) :
    (c.progress phases r).containedCount = c.containedCount ∧ (c.progress phases r).firstContained = c.firstContained ∧
    (c.progress phases r).chainContained = c.chainContained := by
  have others := c.progress_others phases r
  exact ⟨(congrArg Context.containedCount others :), (congrArg Context.firstContained others :),
    (congrArg Context.chainContained others :)⟩

/-! ## The dip around an interruption that opens -/

/-- The interruption opens last, and is told to the dip as it then is (R32, R46). -/
theorem foldl_openHolding_dip (phases : PerPhase (Option PhaseState)) (r : Report) {s : State}
    (begins : s.evd.begins phases .interruption = true) :
    ([EventKind.dip, .swell, .interruption].foldl (openHolding phases r) s).evd.dip =
      (if s.evd.begins phases .dip then some (Context.opening .dip (s.evd.counter + 1) r) else s.evd.dip).map (fun d =>
        d.containing (s.evd.counter + BitVec.ofNat 32 (([EventKind.dip, .swell].filter (s.evd.begins phases)).length + 1))) := by
  obtain ⟨kinds, counter, kept, begun⟩ := foldl_openHolding_evd phases r (ks := [EventKind.dip, .swell]) (by decide) s
  have whole : [EventKind.dip, .swell, .interruption].foldl (openHolding phases r) s =
      openHolding phases r ([EventKind.dip, .swell].foldl (openHolding phases r) s) .interruption := rfl
  have outside : EventKind.interruption ∉ [EventKind.dip, .swell].filter (s.evd.begins phases) := fun h =>
    absurd (List.mem_filter.mp h).1 (by decide)
  obtain ⟨t, name⟩ : ∃ t, [EventKind.dip, .swell].foldl (openHolding phases r) s = t := ⟨_, rfl⟩
  rw [name] at counter kept begun whole
  have still : t.evd.begins phases .interruption = true := by
    have same := (kept .interruption outside).exact' (.inr outside)
    unfold Evd.begins at begins ⊢
    rw [same]
    exact begins
  have dip : t.evd.dip = if s.evd.begins phases .dip then some (Context.opening .dip (s.evd.counter + 1) r) else s.evd.dip := by
    cases new : s.evd.begins phases .dip with
    | true =>
      have first : ([EventKind.dip, .swell].filter (s.evd.begins phases))[0]? = some .dip := by
        rw [List.filter_cons_of_pos new]
        rfl
      exact (begun 0 .dip first).exact' (.inr outside)
    | false =>
      refine (kept .dip fun h => ?_).exact' (.inr outside)
      rw [(List.mem_filter.mp h).2] at new
      exact nomatch new
  rw [whole, openHolding_eq, still, if_pos rfl, openRecord_evd, ← dip, ← BitVec.add_one_add_ofNat, BitVec.add_assoc, BitVec.add_comm 1,
    ← BitVec.add_assoc, ← counter]
  rfl

theorem interruption_last {p : EventKind → Bool} {n : Nat} (at' : ([EventKind.dip, .swell, .interruption].filter p)[n]? = some .interruption) :
    n = ([EventKind.dip, .swell].filter p).length ∧ p .interruption = true := by
  have member := List.mem_of_getElem? at'
  have begins : p .interruption = true := (List.mem_filter.mp member).2
  have apart : [EventKind.dip, .swell, .interruption].filter p = [EventKind.dip, .swell].filter p ++ [.interruption] := by
    rw [show [EventKind.dip, .swell, .interruption] = [EventKind.dip, .swell] ++ [.interruption] from rfl, List.filter_append,
      List.filter_cons_of_pos begins]
    rfl
  refine ⟨?_, begins⟩
  rw [apart] at at'
  by_cases early : n < ([EventKind.dip, .swell].filter p).length
  · rw [List.getElem?_append_left early] at at'
    exact absurd (List.mem_filter.mp (List.mem_of_getElem? at')).1 (by decide)
  · rw [List.getElem?_append_right (Nat.not_lt.mp early)] at at'
    have one := (List.getElem?_eq_some_iff.mp at').1
    rw [List.length_singleton] at one
    omega

end Sys2Proof.Machine
end

section
/-! The records that a report opens and the one that it closes, and the record that a halt closes (R31, R32, R37 to R43, R51). -/

namespace Sys2Proof.Machine

/-! ## After a report that splits no record -/

/-- A report that splits no record leaves the store, the bank, the link and the counter as its openings do. -/
theorem processReport_unsplit {r : Report} {span : Nat} {s : State} (unsplit : reportLimits r span s = reportProgresses r span s) :
    (processReport r span s).1.evs = (reportOpens r span s).evs ∧ (processReport r span s).1.tlb = (reportOpens r span s).tlb ∧
    (processReport r span s).1.hlk = (reportOpens r span s).hlk ∧
    (processReport r span s).1.evd.counter = (reportOpens r span s).evd.counter ∧
    ∀ k, (processReport r span s).1.evd.context k =
      ((reportOpens r span s).evd.context k).map (fun c => c.progress (s.phasesAt r) r) := by
  have contexts : ∀ k, (processReport r span s).1.evd.context k =
      ((reportOpens r span s).evd.context k).map (fun c => c.progress (s.phasesAt r) r) := fun k => by
    rw [processReport_context, unsplit, reportProgresses_context]
  refine ⟨?_, ?_, ?_, ?_, contexts⟩
  all_goals
    rw [processReport_state, unsplit]
    rfl

/-! ## The records that a report opens -/

/-- The records that a report opens, with their numbers in the order of the kinds (R31, R46). -/
theorem processReport_opens {s : State} (kinds : s.evd.Kinds) {r : Report} {span : Nat}
    (unsplit : reportLimits r span s = reportProgresses r span s) {n : Nat} {kind : EventKind}
    (at' : ([EventKind.dip, .swell, .interruption].filter (s.evd.begins (s.phasesAt r)))[n]? = some kind) :
    ∃ d : Context, (processReport r span s).1.evd.context kind = some
        (((Context.opening kind (s.evd.counter + BitVec.ofNat 32 (n + 1)) r).progress (s.phasesAt r) r).withContained d) ∧
      (kind ≠ .dip ∨ .interruption ∉ [EventKind.dip, .swell, .interruption].filter (s.evd.begins (s.phasesAt r)) →
        d.containedCount = 0 ∧ d.firstContained = none ∧ d.chainContained = 0) := by
  obtain ⟨-, -, -, -, contexts⟩ := processReport_unsplit unsplit
  obtain ⟨-, -, -, begun⟩ := reportOpens_evd r span s
  obtain ⟨-, counter, -⟩ := reportCloses_evd r span kinds
  rw [reportCloses_beginning r span kinds, counter] at begun
  obtain ⟨kept, -, untold⟩ := begun n kind at'
  obtain ⟨d, is⟩ := kept _ rfl
  refine ⟨d, ?_, fun out => ?_⟩
  · rw [contexts kind, is]
    exact congrArg some (Context.progress_withContained _ _ _ _)
  · have same := Option.some.inj (is.symm.trans (untold out))
    exact ⟨(congrArg Context.containedCount same :), (congrArg Context.firstContained same :),
      (congrArg Context.chainContained same :)⟩

/-- An interruption that opens is counted in the dip, one open before or one that opens with it (R32). -/
theorem processReport_contains {s : State} (kinds : s.evd.Kinds) {r : Report} {span : Nat}
    (unsplit : reportLimits r span s = reportProgresses r span s) (dips : conditionHolds (s.phasesAt r) .dip = true) {n : Nat}
    (at' : ([EventKind.dip, .swell, .interruption].filter (s.evd.begins (s.phasesAt r)))[n]? = some .interruption) :
    ∃ d old : Context, (processReport r span s).1.evd.dip = some d ∧
      (old.containedCount, old.firstContained, old.chainContained) = (match s.evd.dip with
        | some c => (c.containedCount, c.firstContained, c.chainContained)
        | none => (0, none, 0)) ∧
      d.containedCount = saturate 255 (old.containedCount + 1) ∧
      d.firstContained = (if old.containedCount = 0 then some (s.evd.counter + BitVec.ofNat 32 (n + 1)) else old.firstContained) ∧
      d.chainContained = saturate 255 (old.chainContained + 1) := by
  obtain ⟨-, -, -, -, contexts⟩ := processReport_unsplit unsplit
  obtain ⟨-, counter, closes⟩ := reportCloses_evd r span kinds
  obtain ⟨last, begins⟩ := interruption_last at'
  have told := foldl_openHolding_dip (s.phasesAt r) r (s := reportCloses r span s) (by
    rw [reportCloses_begins r span kinds]
    exact begins)
  have beginning : [EventKind.dip, .swell].filter ((reportCloses r span s).evd.begins (s.phasesAt r)) =
      [EventKind.dip, .swell].filter (s.evd.begins (s.phasesAt r)) :=
    List.filter_congr fun k _ => reportCloses_begins r span kinds k
  rw [beginning, ← last, counter, reportCloses_begins r span kinds] at told
  have before : ∃ old : Context, (if s.evd.begins (s.phasesAt r) .dip then
        some (Context.opening .dip (s.evd.counter + 1) r) else (reportCloses r span s).evd.dip) = some old ∧
      (old.containedCount, old.firstContained, old.chainContained) = (match s.evd.dip with
        | some c => (c.containedCount, c.firstContained, c.chainContained)
        | none => (0, none, 0)) := by
    have closed : (reportCloses r span s).evd.dip = _ := closes .dip
    rw [dips, if_pos rfl] at closed
    have form : s.evd.begins (s.phasesAt r) .dip = s.evd.dip.isNone := by
      unfold Evd.begins
      rw [dips, Bool.and_true]
      rfl
    rw [form, closed]
    show ∃ old : Context, (if s.evd.dip.isNone then _ else
      s.evd.dip.map (fun c => c.advance r (reportTicks s.evd r span) s.evd.resumed)) = some old ∧ _
    cases s.evd.dip with
    | none => exact ⟨_, rfl, rfl⟩
    | some c => exact ⟨_, rfl, rfl⟩
  obtain ⟨old, is, counts⟩ := before
  rw [is] at told
  obtain ⟨count, first, chain⟩ := (old.containing (s.evd.counter + BitVec.ofNat 32 (n + 1))).progress_contained (s.phasesAt r) r
  refine ⟨_, old, ?_, counts, count, first, chain⟩
  have opened : (reportOpens r span s).evd.context .dip = some (old.containing (s.evd.counter + BitVec.ofNat 32 (n + 1))) := told
  have now := contexts .dip
  rw [opened] at now
  exact now

/-- A report that closes no record posts what its openings do, and leaves store and bank as they were (R51). -/
theorem processReport_tells {s : State} {r : Report} {span : Nat}
    (unsplit : reportLimits r span s = reportProgresses r span s)
    (holds : ∀ k c, s.evd.context k = some c → conditionHolds (s.phasesAt r) k = true) :
    (processReport r span s).1.evs = s.evs ∧ (processReport r span s).1.tlb = s.tlb ∧
    (s.hlk.settings.mask.evo = true → s.hlk.transmitter ≠ .idle →
      s.hlk.notices.length + ([EventKind.dip, .swell, .interruption].filter (s.evd.begins (s.phasesAt r))).length ≤ 16 →
      (processReport r span s).1.hlk = { s.hlk with
        notices := s.hlk.notices ++ openNotices (s.phasesAt r) r s.evd [.dip, .swell, .interruption] }) := by
  obtain ⟨evs, tlb, hlk, -, -⟩ := processReport_unsplit unsplit
  have closes := reportCloses_rests holds span
  have others := foldl_openHolding_others (s.phasesAt r) r [.dip, .swell, .interruption] (reportCloses r span s)
  have whole : reportOpens r span s = [EventKind.dip, .swell, .interruption].foldl (openHolding (s.phasesAt r) r)
    (reportCloses r span s) := rfl
  rw [closes] at others whole
  rw [← whole] at others
  have begins : (reportBegins r span s).evd.begins (s.phasesAt r) = s.evd.begins (s.phasesAt r) := by
    funext k
    unfold Evd.begins
    rw [reportBegins_context, Option.isNone_map]
  refine ⟨evs.trans ?_, tlb.trans ?_, fun admitted busy room => hlk.trans ?_⟩
  · rw [others]
    rfl
  · rw [others]
    rfl
  · have tells := foldl_openHolding_tells (s.phasesAt r) r (ks := [.dip, .swell, .interruption]) (by decide)
      (s := reportBegins r span s) admitted busy (by rw [begins]; exact room)
    unfold openNotices at tells ⊢
    rw [begins] at tells
    rw [whole]
    exact tells

/-! ## A record that a report closes -/

/-- The notice of a close (R51). -/
def closeNotice (c : Context) (k : CloseAt) (s : State) : Notice :=
  ⟨.evc, [c.kind.text, num c.number.toNat, k.cause.text, timeText k.time, num c.duration] ++ extremeFields c.extreme ++
    [optText num (offeredSequence s)]⟩

/-- The notice of a close waits, where it is admitted, with room and a busy transmitter (R51). -/
theorem closeRecord_tells {s : State} (c : Context) (k : CloseAt) (admitted : s.hlk.settings.mask.evc = true)
    (busy : s.hlk.transmitter ≠ .idle) (room : s.hlk.notices.length < 16) :
    closeNotice c k s ∈ (closeRecord c k s).hlk.notices := by
  obtain ⟨offered, settings⟩ := offer_posts .evt (c.record k).payload s
  have form : postClose c k (offeredSequence s) (offer .evt (c.record k).payload s) =
    postNotice .evc (closeNotice c k s).fields (offer .evt (c.record k).payload s) := rfl
  have close : (closeRecord c k s).hlk = (if k.cause = .limit then
      postClose c k (offeredSequence s) (offer .evt (c.record k).payload s)
    else handItem (.evt (c.classification k.cause))
      (postClose c k (offeredSequence s) (offer .evt (c.record k).payload s))).hlk := rfl
  rw [form] at close
  obtain ⟨x, name⟩ : ∃ x, offer .evt (c.record k).payload s = x := ⟨_, rfl⟩
  rw [name] at offered settings close
  have busyX : x.hlk.transmitter ≠ .idle := offered.stays_busy busy
  have notices : x.hlk.notices = s.hlk.notices := (offered.busy busy).2.1
  have queued := postNotice_queued (kind := .evc) (fields := (closeNotice c k s).fields) (s := x)
    (by rw [settings]; exact admitted) (by rw [notices]; exact room) busyX
  have waits : closeNotice c k s ∈ (postNotice .evc (closeNotice c k s).fields x).hlk.notices := by
    rw [queued]
    exact List.mem_append_right _ (List.mem_singleton.mpr rfl)
  rw [close]
  split
  · exact waits
  · obtain ⟨⟨posted, posts⟩, -⟩ := handItem_link (.evt (c.classification k.cause))
      (postNotice .evc (closeNotice c k s).fields x)
    exact posts.keeps (by rw [queued]; exact busyX) waits

/-- Where one condition alone ends and none begins, a report closes that record and nothing else. -/
theorem reportOpens_single {s : State} (kinds : s.evd.Kinds) {r : Report} {kind : EventKind} {c : Context}
    (held : s.evd.context kind = some c) (ends : conditionHolds (s.phasesAt r) kind = false)
    (others : ∀ k, k ≠ kind → (s.evd.context k).isSome = conditionHolds (s.phasesAt r) k) (span : Nat) :
    reportOpens r span s = closeRecord ((c.advance r (reportTicks s.evd r span) s.evd.resumed).ending r)
      ⟨if s.evd.resumed then .resume else .ended, r.time⟩ (reportBegins r span s) := by
  have heldU := reportBegins_context r span s kind
  rw [held] at heldU
  have goes : ∀ k, k ≠ kind → ∀ d, (reportBegins r span s).evd.context k = some d →
      conditionHolds (s.phasesAt r) k = true := fun k other d is => by
    rw [← others k other]
    rw [reportBegins_context] at is
    obtain ⟨old, was, -⟩ := Option.map_eq_some_iff.mp is
    rw [was]
    rfl
  have closes : reportCloses r span s = closeEnded (s.phasesAt r) r (if s.evd.resumed then CloseCause.resume else .ended)
      (reportBegins r span s) kind := by
    refine foldl_single (by decide) kind.mem_closingOrder (fun k other => closeEnded_rests (goes k other)) fun k other => ?_
    refine closeEnded_rests fun d is => goes k other d ?_
    rw [closeEnded_evd (reportBegins_kinds r span kinds), ends] at is
    exact (Evd.setContext_context_other _ none other).symm.trans is
  have opens : reportOpens r span s = reportCloses r span s := foldl_rests fun k _ => by
    rw [openHolding_eq, reportCloses_begins r span kinds k]
    have none' : s.evd.begins (s.phasesAt r) k = false := by
      unfold Evd.begins
      by_cases same : k = kind
      · rw [same, ends, Bool.and_false]
      · rw [← others k same]
        cases s.evd.context k <;> rfl
    rw [none']
    rfl
  rw [opens, closes]
  exact closeEnded_closes heldU ends r _

/-- The entries of a record whose condition ends: every period out ends, an unwired phase's at the boundary before (R35). -/
theorem Context.ending_entries (c : Context) (r : Report) (ticks : Nat) (resumed : Bool) (still : Bool) :
    (((c.advance r ticks resumed).ending r).phases.map (fun e => (⟨e.phase, e.offset, e.extreme,
      durationMs (e.ticks + if e.out then c.elapsed + ticks - e.began else 0), still && e.out⟩ : EventEntry))) =
    c.phases.map (fun e => ⟨e.phase, e.offset, e.extreme, durationMs (e.ticks + if e.out then
      (if (r.values.get e.phase).isNone then c.elapsed else c.elapsed + ticks) - e.began else 0), false⟩) := by
  have list : ((c.advance r ticks resumed).ending r).phases = (c.phases.map (fun e =>
      if (r.values.get e.phase).isNone ∧ e.out then e.ended c.elapsed else e)).map (fun e => e.ended (c.elapsed + ticks)) := rfl
  rw [list, List.map_map, List.map_map]
  refine List.map_congr_left fun e _ => ?_
  dsimp only [Function.comp]
  cases out : e.out with
  | false =>
    rw [if_neg fun h => nomatch h.2]
    unfold PhaseEntry.ended PhaseEntry.total
    rw [out, Bool.and_false]
    rfl
  | true =>
    by_cases unwired : (r.values.get e.phase).isNone = true
    · rw [if_pos ⟨unwired, rfl⟩]
      unfold PhaseEntry.ended PhaseEntry.total
      rw [out, Bool.and_false, if_pos unwired]
      rfl
    · rw [if_neg fun h => unwired h.1]
      unfold PhaseEntry.ended PhaseEntry.total
      rw [out, Bool.and_false, if_neg unwired]
      rfl

/-- The event record of a condition that ends (R39). -/
theorem Context.ending_record (c : Context) (r : Report) (ticks : Nat) (resumed : Bool) (k : CloseAt) :
    ((c.advance r ticks resumed).ending r).record k = {
      kind := c.kind
      number := c.number
      continuesFrom := c.continuesFrom
      cause := k.cause
      startTime := c.startTime
      endTime := k.time
      duration := durationMs (c.elapsed + ticks)
      extreme := c.extreme
      entries := c.phases.map (fun e => ⟨e.phase, e.offset, e.extreme, durationMs (e.ticks + if e.out then
        (if (r.values.get e.phase).isNone then c.elapsed else c.elapsed + ticks) - e.began else 0), false⟩)
      containedCount := if c.kind = .dip then c.containedCount else 0
      firstContained := if c.kind = .dip then c.firstContained else none
      chain := if c.continuesFrom = none then none else
        some ⟨c.chainStart, saturate max32 (c.chainDuration + durationMs (c.elapsed + ticks)), c.chainExtreme⟩
      marks := { c.marks with
        clipped := c.marks.clipped || ([r.values.l1, r.values.l2, r.values.l3].filterMap id).any PhaseValue.clipped
        synthetic := c.marks.synthetic || r.synthetic
        resumed := c.marks.resumed || resumed } } := by
  have entries := c.ending_entries r ticks resumed k.cause.keepsStillOut
  have marks : ((c.advance r ticks resumed).ending r).marks = { c.marks with
      clipped := c.marks.clipped || ([r.values.l1, r.values.l2, r.values.l3].filterMap id).any PhaseValue.clipped
      synthetic := c.marks.synthetic || r.synthetic
      resumed := c.marks.resumed || resumed } := EventMarks.withReport_eq _ r
  rw [Context.record_eq, marks, ← entries]
  rfl

/-- One kind's record is gone, and the others go on: one close. -/
theorem recordsGone_single {before after : Evd} {kind : EventKind} (held : (before.context kind).isSome = true)
    (gone : after.context kind = none)
    (others : ∀ k, k ≠ kind → ∀ c, before.context k = some c → (after.context k).map Context.number = some c.number) :
    recordsGone before after = 1 := by
  unfold recordsGone
  have only : [EventKind.dip, .swell, .interruption].filter (fun k => match before.context k with
      | some c => (after.context k).map Context.number != some c.number
      | none => false) = [EventKind.dip, .swell, .interruption].filter (fun k => k == kind) := by
    refine List.filter_congr fun k _ => ?_
    by_cases same : k = kind
    · obtain ⟨c, is⟩ := Option.isSome_iff_exists.mp held
      rw [same, is, gone]
      exact (beq_self_eq_true kind).symm
    · rw [beq_eq_false_iff_ne.mpr same]
      cases is : before.context k with
      | none => rfl
      | some c =>
        dsimp only
        rw [others k same c is]
        exact bne_self_eq_false _
  refine (congrArg List.length only).trans ?_
  cases kind <;> rfl

theorem Evd.openCount_ne_zero {e : Evd} {kind : EventKind} (held : (e.context kind).isSome = true) : e.openCount ≠ 0 := by
  obtain ⟨c, is⟩ := Option.isSome_iff_exists.mp held
  exact List.length_pos_iff.mpr (List.ne_nil_of_mem (List.mem_filterMap.mpr ⟨kind, kind.mem_order, is⟩)) |>.ne'

/-! ## A record that a halt closes -/

theorem stopRecords_single {s : State} (regular : s.evd.Regular) {kind : EventKind} {c : Context}
    (held : s.evd.context kind = some c) (alone : ∀ k, k ≠ kind → s.evd.context k = none) :
    stopRecords s = closeRecord c ⟨.stop, (s.evd.lastBoundary.map ProcessedBoundary.time).getD c.startTime⟩ s := by
  have rests : ∀ (u : State) (k : EventKind), u.evd.context k = none → stopRecord u k = u := fun u k none' => by
    unfold stopRecord
    rw [none']
  have single : stopRecords s = stopRecord s kind := by
    refine foldl_single (by decide) kind.mem_closingOrder (fun k other => rests s k (alone k other)) fun k other => ?_
    refine rests _ k ?_
    rw [stopRecord_evd regular, Evd.setContext_context_other _ none other]
    exact alone k other
  rw [single]
  unfold stopRecord
  rw [held]

end Sys2Proof.Machine
end

section
/-! What O11 states: thresholds and conditions, the records opened, the records open, and the records closed (R26 to R43). -/

namespace Sys2Proof.Machine

/-- The phases that take part, spelled out by the kind. -/
theorem takingPart_spelled (phases : PerPhase (Option PhaseState)) (kind : EventKind) :
    [Phase.l1, .l2, .l3].filter (fun p => match phases.get p, kind with
      | some x, .dip => x.excursion == .low
      | some x, .swell => x.excursion == .high
      | some x, .interruption => x.interrupted
      | none, _ => false) = takingPart phases kind :=
  List.filter_congr fun p _ => (any_takesPart (phases.get p) kind).symm

theorem joined_at_opening (r : Report) (p : Phase) :
    joined 0 r p = ⟨p, 0, ((r.values.get p).map PhaseValue.value).getD 0, 0, true, 0⟩ := by
  unfold joined PhaseEntry.first
  rw [show durationMs 0 = 0 by decide]

theorem not_beyond_iff (kind : EventKind) (v w : Nat) : ¬ beyond kind v w = true ↔ (match kind with
    | .swell => v ≤ w
    | .dip => w ≤ v
    | .interruption => w ≤ v) := by
  rw [beyond_iff]
  cases kind <;> exact Nat.not_lt

/-- Settles O11. -/
theorem recordsAreOpenWhileTheirConditionHolds : Obligations.RecordsAreOpenWhileTheirConditionHolds := by
  unfold Obligations.RecordsAreOpenWhileTheirConditionHolds
  refine ⟨?_, ?_, ?_, ?_, ?_⟩
  · intro before set r after
    obtain ⟨dip, swell, interruption⟩ := conditionHolds_iff after
    refine ⟨fun p none' => ?_, ?_, dip, swell, interruption⟩
    · rw [show after.get p = _ from phasesAfter_get before set r p, none']
      rfl
    · intro p v value x excursion
      have moves : x.excursion.after set v.value = excursion := by
        show _ = (match x.excursion with
          | .normal => _
          | .low => _
          | .high => _)
        cases x.excursion <;> rfl
      have state : after.get p = some (x.after set v.value) := by
        rw [show after.get p = _ from phasesAfter_get before set r p, value]
        rfl
      rw [state, PhaseState.after_flag, moves]
  · intro s r span regular thresholds positive phases ticks opening number taking short t
    have kinds : s.evd.Kinds := regular.kinds
    have takingEq : ∀ k, taking k = takingPart phases k := takingPart_spelled phases
    have unsplit : reportLimits r span s = reportProgresses r span s := reportLimits_rests kinds (fun _ _ => positive) (by
      rw [reportTicks_eq]
      exact short)
    have conditions : ∀ {n : Nat} {kind : EventKind}, opening[n]? = some kind → conditionHolds phases kind = true := fun at' =>
      (Bool.and_eq_true_iff.mp (List.mem_filter.mp (List.mem_of_getElem? at')).2).2
    refine ⟨?_, ?_, ?_, ?_⟩
    · obtain ⟨-, -, -, counter, -⟩ := processReport_unsplit unsplit
      obtain ⟨-, closed, -⟩ := reportCloses_evd r span kinds
      have opened := (reportOpens_evd r span s).counter
      rw [reportCloses_beginning r span kinds, closed] at opened
      exact counter.trans opened
    · intro n kind at'
      obtain ⟨d, after, untold⟩ := processReport_opens kinds unsplit at'
      obtain ⟨e, fresh, takes, value, strictest⟩ := fresh_record (conditions at') (number n)
      have whole : t.evd.context kind = some (({ Context.opening kind (number n) r with
        extreme := some e, chainExtreme := some e
        phases := (takingPart phases kind).map (fun p => joined 0 r p)
        marks := EventMarks.none.withReport r } : Context).withContained d) :=
        after.trans (congrArg (fun x : Context => some (x.withContained d)) fresh)
      rw [takingEq]
      refine ⟨_, e, whole, rfl, rfl, rfl, rfl, rfl, rfl, rfl, rfl, rfl, rfl, takes, value, fun p v member is => ?_, ?_, ?_, untold⟩
      · obtain ⟨lax, first⟩ := strictest p v member is
        have spelled := (not_beyond_iff kind v.value e.value).mp lax
        refine ⟨?_, first⟩
        cases kind <;> exact spelled
      · exact congrArg (fun f => List.map f (takingPart phases kind)) (funext (joined_at_opening r))
      · exact EventMarks.withReport_eq EventMarks.none r
    · intro n at'
      have dips : conditionHolds phases .dip = true := dip_of_interruption r thresholds regular.flagged (conditions at')
      obtain ⟨d, old, is, counts, count, first, chain⟩ := processReport_contains kinds unsplit dips at'
      refine ⟨d, is, fun none' => ?_, fun c held => ?_⟩
      · rw [none'] at counts
        obtain ⟨zero, absent, empty⟩ : old.containedCount = 0 ∧ old.firstContained = none ∧ old.chainContained = 0 := by
          simpa only [Prod.mk.injEq] using counts
        rw [count, first, chain, zero, empty]
        exact ⟨rfl, rfl, rfl⟩
      · rw [held] at counts
        obtain ⟨sameCount, sameFirst, sameChain⟩ : old.containedCount = c.containedCount ∧ old.firstContained = c.firstContained ∧
            old.chainContained = c.chainContained := by
          simpa only [Prod.mk.injEq] using counts
        rw [count, first, chain, sameCount, sameFirst, sameChain]
        exact ⟨Nat.min_comm _ _, rfl, Nat.min_comm _ _⟩
    · intro holds
      obtain ⟨evs, tlb, tells⟩ := processReport_tells unsplit holds
      refine ⟨evs, tlb, fun admitted busy room => (tells admitted busy room).trans ?_⟩
      have notices : openNotices phases r s.evd [.dip, .swell, .interruption] = opening.mapIdx (fun n k =>
          ⟨.evo, [k.text, num (number n).toNat, [], timeText r.time, phaseSetText (taking k)]⟩) :=
        congrArg (fun f => List.mapIdx f opening) (funext fun n => funext fun k => by
          rw [takingEq k]
          rfl)
      rw [notices]
  · intro s r span regular thresholds
    refine ⟨fun kind => processReport_isOpen regular.kinds r span kind, fun interrupted => ?_⟩
    have holds := (processReport_isOpen regular.kinds r span .interruption).symm.trans interrupted
    exact (processReport_isOpen regular.kinds r span .dip).trans (dip_of_interruption r thresholds regular.flagged holds)
  · intro s r span kind c regular phases ticks held ends others short t elapsed total cause last
    have kinds : s.evd.Kinds := regular.kinds
    have ofKind : c.kind = kind := kinds kind c held
    have spans : reportTicks s.evd r span = ticks := reportTicks_eq s.evd r span
    have none' : ∀ k, s.evd.begins phases k = false := fun k => by
      unfold Evd.begins
      by_cases same : k = kind
      · rw [same, ends, Bool.and_false]
      · rw [← others k same]
        cases s.evd.context k <;> rfl
    have unsplit : reportLimits r span s = reportProgresses r span s := reportLimits_rests kinds
      (fun k begins => nomatch (none' k).symm.trans begins) (fun k d is _ => by
        rw [spans]
        exact short k d is)
    obtain ⟨evs, tlb, hlk, counter, -⟩ := processReport_unsplit unsplit
    have form := reportOpens_single kinds held ends others span
    rw [spans] at form
    obtain ⟨left, named⟩ : ∃ left, (c.advance r ticks s.evd.resumed).ending r = left := ⟨_, rfl⟩
    have record : left.record ⟨cause, r.time⟩ = _ := named ▸ c.ending_record r ticks s.evd.resumed ⟨cause, r.time⟩
    have queues := closeRecord_queues left ⟨cause, r.time⟩ (reportBegins r span s)
    have bank := closeRecord_tlb left ⟨cause, r.time⟩ (reportBegins r span s)
    have final : ¬ cause = .limit := by
      show ¬ (if s.evd.resumed then CloseCause.resume else .ended) = .limit
      cases s.evd.resumed <;> nofun
    have form' : reportOpens r span s = closeRecord left ⟨cause, r.time⟩ (reportBegins r span s) := named ▸ form
    rw [← form'] at queues bank
    have gone : t.evd.context kind = none := by
      have open' := processReport_isOpen kinds r span kind
      rw [show conditionHolds (s.phasesAt r) kind = false from ends] at open'
      exact Option.not_isSome_iff_eq_none.mp (by rw [open']; exact Bool.false_ne_true)
    refine ⟨?_, gone, ?_, ?_, ?_, ?_⟩
    · have isOpen : (s.evd.context kind).isSome = true := by
        rw [held]
        rfl
      have one : recordsGone s.evd t.evd = 1 := recordsGone_single isOpen gone fun k other d is => by
        have holds : conditionHolds (s.phasesAt r) k = true := by
          refine (others k other).symm.trans ?_
          rw [is]
          rfl
        obtain ⟨x, after⟩ := processReport_keeps kinds is holds (span := span) (by
          rw [spans]
          exact short k d is)
        have same := d.advanced_others r (reportTicks s.evd r span) s.evd.resumed (s.phasesAt r)
        show (t.evd.context k).map Context.number = _
        rw [show t.evd.context k = _ from after]
        exact congrArg some (congrArg Context.number same :)
      have told : (processReport r span s).2 = ⟨s.evd.openCount != 0 || (reportProgresses r span s).evd.openCount != 0,
        recordsGone s.evd t.evd⟩ := rfl
      rw [told, one, bne_iff_ne.mpr (Evd.openCount_ne_zero isOpen)]
      rfl
    · obtain ⟨-, closed, -⟩ := reportCloses_evd r span kinds
      have opened := (reportOpens_evd r span s).counter
      have empty : [EventKind.dip, .swell, .interruption].filter (s.evd.begins phases) = [] :=
        List.filter_eq_nil_iff.mpr fun k _ => by
          rw [none' k]
          exact Bool.false_ne_true
      rw [reportCloses_beginning r span kinds, closed, empty] at opened
      exact (counter.trans opened).trans (BitVec.add_zero _)
    · rw [record, ofKind] at queues
      exact (queues.before (s' := s) rfl rfl rfl rfl).after evs
    · refine tlb.trans (bank.trans ((if_neg final).trans ?_))
      rw [← named, ← ofKind]
      exact handItem_tlb _ rfl rfl
    · intro admitted busy room
      have waits := closeRecord_tells (s := reportBegins r span s) left ⟨cause, r.time⟩ admitted busy room
      rw [← form', ← named] at waits
      show _ ∈ (processReport r span s).1.hlk.notices
      rw [hlk, ← ofKind]
      exact waits
  · intro s kind c regular held alone t total
    have ofKind : c.kind = kind := regular.kinds kind c held
    obtain ⟨time, stops⟩ : ∃ time, (s.evd.lastBoundary.map ProcessedBoundary.time).getD c.startTime = time := ⟨_, rfl⟩
    have single := stopRecords_single regular held alone
    rw [stops] at single ⊢
    have queues := closeRecord_queues c ⟨.stop, time⟩ s
    have bank := closeRecord_tlb c ⟨.stop, time⟩ s
    rw [← single] at queues bank
    have evd := stopRecords_evd regular
    refine ⟨?_, ?_, ?_, ?_, ?_⟩
    · rw [evd]
      cases kind <;> rfl
    · rw [evd]
    · rw [evd]
    · rw [Context.record_eq, ofKind] at queues
      exact queues
    · rw [← ofKind]
      exact bank

end Sys2Proof.Machine
end
